-- ==== Sys2Proof/Word.lean ====
section
/-! DEFINITION. The word types of the GX9 and the plainest arithmetic on them (00_scope R5, R6). -/

namespace Sys2Proof

/-- A byte, the smallest location (R99). -/
abbrev Byte := BitVec 8

/-- A word: 32 bits (R5). -/
abbrev Word := BitVec 32

/-- A double word: 64 bits (R5). -/
abbrev DWord := BitVec 64

/-- A handle of a kernel object: 32 bits (R152). -/
abbrev Handle := BitVec 32

end Sys2Proof
end

