-- ==== Sys2Proof/Config.lean ====
section
/-! DEFINITION. What an implementation fixes, and the values that the manual leaves open: opaque functions of a
counter that the machine advances, so that nothing in Lean can evaluate one or prove a value of it. -/

namespace Sys2Proof.Config

/-- The running stepping (R216 `stepid`): 2 is A1. DESIGN CHOICE, log entry 12, unsafe: the manual names two. -/
def stepping : Nat := 2

/-- Nanoseconds that pass in a step when nothing says otherwise. DESIGN CHOICE, log entry 1, unsafe. -/
def tick : Nat := 1

/-- Bytes of the object pool that one spill record of a waiter takes (R81, R153). DESIGN CHOICE, log entry 46, unsafe: the
manual gives no size. -/
def spillBytes : Nat := 32

/-- A free bit: a choice that the manual leaves open (log entry 6, safe). -/
opaque freeBit : Nat → Bool

/-- A free byte (log entry 6, safe). -/
opaque freeByte : Nat → Byte

/-- The horizon bucket, one of 4,096, to which a page of a process hashes; the hash is not given (R31; log entry 13,
safe). -/
opaque horizonBucket : Handle → Nat → Fin 4096

/-- A free double word (log entry 6, safe). -/
opaque freeDWord : Nat → DWord

/-- The SHA-384 of what a measurement block of R431 holds, by the block's number and the numbers that name its contents (log
entry 41, safe). -/
opaque measurement (block : Nat) (contents : List Nat) : BitVec 384

/-! What the standards of AV1 and VVC make of a job: of the 128 bytes of its descriptor, of its stream, and, where an encoder
is free to choose, of a free number (R415, R416, R420 to R422; log entry 20, safe). -/

/-- The stream is one temporal or access unit in the format of R415 and asks for nothing outside its table. -/
opaque codecSupports (image stream : List Byte) : Bool
/-- The bit offset of the first error that stops decoding. -/
opaque codecError (image stream : List Byte) : Option Nat
/-- The bit offset of the first broken constraint that does not stop decoding (R422). -/
opaque codecBreach (image stream : List Byte) : Option Nat
/-- The size of superblocks or CTUs. -/
opaque codecBlock (image stream : List Byte) (choice : Nat) : Fin 3
/-- The rows of reference pictures from which a row of superblocks or CTUs is predicted: an entry of the table, and a row. -/
opaque codecNeeds (image stream : List Byte) (choice row : Nat) : List (Nat × Nat)
/-- A byte of the picture, by its row and its offset in the buffer, from the bytes of the reference rows. -/
opaque codecSample (image stream : List Byte) (choice : Nat) (refs : List (List Byte)) (row o : Nat) : Byte
/-- The job outputs a shown picture. -/
opaque codecShown (image stream : List Byte) (choice : Nat) : Bool
/-- The stream bytes consumed. -/
opaque codecUsed (image stream : List Byte) : Nat
/-- Bits [31:0] of the film grain's `random_seed` and parameter-set flags, where the frame carries grain parameters. -/
opaque codecGrain (image stream : List Byte) : Option Word
/-- A byte of the picture with grain applied, from the reconstruction and by its offset. -/
opaque codecGrained (image stream recon : List Byte) (o : Nat) : Byte
/-- The stream that an encode writes. -/
opaque codecStream (image : List Byte) (choice : Nat) : List Byte
/-- An encode in conformance mode can keep every limit of its `level` (R422). -/
opaque codecKeeps (image : List Byte) (choice : Nat) : Bool

end Sys2Proof.Config
end

