-- ==== Sys2Proof/Syntax.lean ====
section
/-! DEFINITION. The instructions and events of the GX9: one constructor per row of spec/opcode_table.json.
Register fields keep the one-byte codes of R183 to R186; operation fields are enumerations. -/

namespace Sys2Proof

/-- The scopes of R10, in the order of their codes (R190). -/
inductive Scope | wave | team | core | cluster | die | pkg | dom | sys
deriving DecidableEq, Repr

/-- The orders of R108, in the order of their codes (R190). -/
inductive Order | none | acq | rel | acqrel
deriving DecidableEq, Repr

/-- Access widths (R190). -/
inductive Width | b8 | b16 | b32 | b64 | b128
deriving DecidableEq, Repr

/-- Slot controls, bits [11:0] of an extension word (R190, R105). -/
structure Slots where
  set : Bool
  slot : BitVec 3
  wait : BitVec 8
deriving DecidableEq, Repr

/-- The memory extension word (R190). -/
structure MemExt where
  imm : BitVec 10
  policy : BitVec 2
  width : Width
  order : Order
  scope : Scope
  slots : Slots
deriving DecidableEq, Repr

/-- Extension words that hold only an order, a scope and slot controls (R274, R331, R334). -/
structure OrdExt where
  order : Order
  scope : Scope
  slots : Slots
deriving DecidableEq, Repr

/-- Condition codes of BCC (R218). -/
inductive Cond | eq | ne | lt | ge | lo | hs | mi | pl | vs | vc | bk | nbk | fl | nfl
deriving DecidableEq, Repr

/-- Conditions of VCMP (R242). -/
inductive ICond | eq | ne | lt | le | gt | ge
deriving DecidableEq, Repr

/-- Conditions of VFCMP (R251). -/
inductive FCond | eq | ne | lt | le | gt | ge | uno | ord
deriving DecidableEq, Repr

/-- Kinds of VSHFLX (R257). -/
inductive ShflKind | idx | up | down | xor | bcast
deriving DecidableEq, Repr

/-- Operations of VRED and VSCAN (R259). -/
inductive RedOp | add | min | max | and | or | xor | fadd | fmin | fmax
deriving DecidableEq, Repr

/-- Operations of the data reductions (R272, R273). -/
inductive AtomOp | add | fadd | min | max | and | or | xor
deriving DecidableEq, Repr

/-- Element types of the mode register (R188). -/
inductive EType
  | i32 | n32 | i16 | n16 | i8 | n8 | i64 | n64 | f32 | f16 | bf16 | f64 | f16x2 | bf16x2 | i16x2
deriving DecidableEq, Repr

/-- Narrow formats of VPACK and VUNPK (R254). -/
inductive PackFmt | e4m3 | e5m2 | e3m2 | e2m3 | e2m1 | i8 | bf16 | f16 | i16
deriving DecidableEq, Repr

/-- Format codes of TCVT (R305), the codes 0 to 7 of R293. -/
inductive TcvtFmt | e4m3 | e5m2 | e3m2 | e2m3 | e2m1 | i8 | bf16 | f16
deriving DecidableEq, Repr

/-- Roundings of TCVT (R305). -/
inductive TRnd | rne | rtz | rna | sto
deriving DecidableEq, Repr

/-- A counter's status (R67). -/
inductive CtrStatus | ok | abandoned | faulted
deriving DecidableEq, Repr

/-- An operation performed at a counter's home (R68). -/
inductive CtrOp
  | add (d : DWord)
  | init (v : DWord)
  | brk (st : CtrStatus)
deriving DecidableEq, Repr

/-- The host's answer to an ATS translation request (R26). -/
inductive AtsAnswer
  | granted (r w : Bool)
  | error
deriving DecidableEq, Repr

/-- What a patrol read of a sector finds (R66). -/
inductive PatrolFind | clean | correctable | uncorrectable
deriving DecidableEq, Repr

/-- A kernel note (R205): its symbol's address and its team shape. -/
structure KernelNote where
  addr : DWord
  waves : Nat
  pw : Nat
  pv : Nat
  pt : Nat
  cw : Nat
  cv : Nat
  ct : Nat
  prio : Nat
  sp : Nat
  tags : Nat
  paired : Bool
deriving DecidableEq, Repr

/-- A copy template (R313). -/
structure Template where
  len0 : Nat
  n1m : Nat
  n2m : Nat
  ss1 : Int
  ss2 : Int
  ds1 : Int
  ds2 : Int
  dims : Nat
deriving DecidableEq, Repr

/-- A member of a multicast group (R317). -/
structure Member where
  dx : Int
  dy : Int
  dz : Int
  en : Bool
  dst : Nat
  ctr : Nat
deriving DecidableEq, Repr

/-- The binding of a symbol (R202). -/
inductive SymBind | local_ | global | weak
deriving DecidableEq, Repr

/-- An entry of a code object's symbol table (R204): its name, as a number; its binding; whether it is STT_FUNC or STT_OBJECT;
its offset from the object's base, if the object defines it; its size. -/
structure Symbol where
  name : Nat
  bind : SymBind
  func : Bool
  value : Option Nat
  size : Nat
deriving DecidableEq, Repr

/-- A relocation entry (R206): the offset of its place from the object's base, its type, the index of its symbol, and its
addend. -/
structure Reloc where
  offset : Nat
  type : Nat
  sym : Nat
  addend : Int
deriving DecidableEq, Repr

/-- A global or weak definition of a loaded object (R207): its name, its binding, its type, its address, its bytes after
relocation, and its kernel descriptor. -/
structure SymDef where
  name : Nat
  weak : Bool
  func : Bool
  addr : DWord
  bytes : List Byte
  kernel : Option KernelNote
deriving DecidableEq, Repr

/-- A code object as the loader finds it (R204 to R208): the header values, the descriptors of its note by type, its symbol
table, its relocations, and its whole pages before relocation, for the base that the loader gives it. -/
structure CodeObject where
  class64 : Bool
  dataLsb : Bool
  etDyn : Bool
  machine : Nat
  flags : Nat
  notes : List (Nat × List Byte)
  symbols : List Symbol
  relocs : List Reloc
  base : DWord
  code : List Byte
  writable : Bool
deriving DecidableEq, Repr

/-- A device register that REGISTER_WRITE names (R7, R34, R404, R405, R411, R413, R414): a byte address in
the register space, or a table or register whose place the manual does not give. -/
inductive DevReg
  | addr (pa : Nat)
  | exportFrame (frame : Nat)
  | route (die pkg : Nat)
  | pkgNumber
  | scaleOut (die pkg : Nat)
  /-- the UDP destination port of the datagram transport (R413) -/
  | datagramPort
  /-- the base of BAR 0, 2 or 4 of a die's function, by 0, 1 and 2 (R404) -/
  | bar (die n : Nat)
deriving DecidableEq, Repr

/-- A firmware image, or a set of test kernels with the addresses of its launch descriptors, as R430 judges it: whether its
digest agrees, the hashes of the keys that come with its two signatures, whether each verifies under its key, and its security
version. -/
structure FwImage where
  tests : Bool
  digestOk : Bool
  rsaKey : BitVec 384
  rsaOk : Bool
  slhKey : BitVec 384
  slhOk : Bool
  version : Nat
  activate : Bool
  kernels : List Nat
deriving DecidableEq, Repr

/-- What another package asks of this one or tells it: an access (R34); the state of one of its ports, as its Mule keeps it:
who is admitted, free places, grant credits handed out; a port of its that is gone; a name that it registers or removes
(R164, R166); credits that it asks for one of this package's ports; the report of a message of a process of this package that
landed late there (R165); a frame that it exports, or exports no more (R34); a datagram of its die `peer`, with the
acknowledgement that it carries (R413). -/
inductive PeerAccess
  | load (n : Nat)
  | store (bytes : List Byte)
  | counter (op : CtrOp)
  | port (name : DWord) (opn places credits : Nat)
  | portGone (name : DWord)
  | registers (key name : DWord)
  | unregisters (key : DWord)
  | wantsCredits (name : DWord) (n : Nat)
  | landedLate (body : List Byte)
  | exports (frame : Nat)
  | unexports (frame : Nat)
  | datagram (peer kind seq ack : Nat) (sack : DWord)
deriving DecidableEq, Repr

/-- The way by which a reader or writer outside the device comes: BAR 2, 0 or 4 of a host port (R404), or the management
controller's bus, for the registers or for rail telemetry (R432). -/
inductive OutsideWay
  | aperture | window | registers | board | telemetry
deriving DecidableEq, Repr

/-- What the world outside the machine hands to an event that has no operands of its own (R431):
the die it happens on, numbers, an address, data, a handle and the answers of the outside. -/
structure Input where
  die : Nat := 0
  n : Nat := 0
  m : Nat := 0
  size : Nat := 0
  pa : Nat := 0
  val : BitVec 256 := 0#256
  bytes : List Byte := []
  h : Handle := 0#32
  ok : Bool := true
  ats : AtsAnswer := .error
  found : PatrolFind := .clean
  obj : Option CodeObject := none
  img : Option FwImage := none
  peer : PeerAccess := .load 0
  /-- the frames on a free-frame list, whose layout the manual does not give (R156) -/
  frames : List Nat := []
  via : OutsideWay := .aperture
deriving DecidableEq, Repr

/-- One constructor per row of spec/opcode_table.json. -/
inductive Instr
  -- control transfer, R217 to R220
  | nop
  | br (o : BitVec 24)
  | bcc (cond : Cond) (lit : Word)
  | bmz (o : BitVec 24)
  | bmnz (o : BitVec 24)
  | bmall (o : BitVec 24)
  | call (o : BitVec 24)
  | ret
  | jmpr (b : BitVec 8)
  | jmprLink (a b : BitVec 8)
  | exit
  | yield
  -- uniform arithmetic, R214 and R215
  | sadd (a b c : BitVec 8)
  | ssub (a b c : BitVec 8)
  | smul (a b c : BitVec 8)
  | smulh (a b c : BitVec 8)
  | sand (a b c : BitVec 8)
  | sor (a b c : BitVec 8)
  | sxor (a b c : BitVec 8)
  | sshl (a b c : BitVec 8)
  | sshr (a b c : BitVec 8)
  | ssra (a b c : BitVec 8)
  | smin (a b c : BitVec 8)
  | smax (a b c : BitVec 8)
  | scmp (b c : BitVec 8)
  | smov (a b : BitVec 8)
  | sli (a : BitVec 8) (lit : Word)
  | sliZ (a : BitVec 8) (lit : Word)
  | sliHi (a : BitVec 8) (lit : Word)
  | ssel (a b c : BitVec 8)
  | sclz (a b : BitVec 8)
  | spopc (a b : BitVec 8)
  -- mode, cc and system registers, R222 to R226
  | setm (lit : Word)
  | setmSrc (b : BitVec 8)
  | setmPart (mask : BitVec 6) (lit : Word)
  | setmCc (b : BitVec 8)
  | getm (a : BitVec 8)
  | getmCc (a : BitVec 8)
  | sysrd (a : BitVec 8) (idx : BitVec 8)
  | syswr (idx : BitVec 8) (b : BitVec 8)
  | syswrUictl (b : BitVec 8)
  | syswrResinj (b : BitVec 8)
  -- mask instructions, R221
  | kand (a b c : BitVec 8)
  | kor (a b c : BitVec 8)
  | kxor (a b c : BitVec 8)
  | knot (a b : BitVec 8)
  | kmov (a b : BitVec 8)
  | kpop (a b : BitVec 8)
  | kfirst (a b : BitVec 8)
  -- service calls, breakpoints, interrupts and halts, R227 to R232
  | svc (code : BitVec 8) (b c : BitVec 8)
  | bkpt (code : BitVec 8)
  | uiret
  | whalt (b : BitVec 8)
  | whaltRes (b : BitVec 8)
  -- vector integer, R238 to R244
  | vadd (a b c : BitVec 8)
  | vsub (a b c : BitVec 8)
  | vmul (a b c : BitVec 8)
  | vmulh (a b c : BitVec 8)
  | vand (a b c : BitVec 8)
  | vor (a b c : BitVec 8)
  | vxor (a b c : BitVec 8)
  | vshl (a b c : BitVec 8)
  | vshr (a b c : BitVec 8)
  | vmin (a b c : BitVec 8)
  | vmax (a b c : BitVec 8)
  | vaddLit (a b : BitVec 8) (lit : Word)
  | vsubLit (a b : BitVec 8) (lit : Word)
  | vmulLit (a b : BitVec 8) (lit : Word)
  | vmulhLit (a b : BitVec 8) (lit : Word)
  | vandLit (a b : BitVec 8) (lit : Word)
  | vorLit (a b : BitVec 8) (lit : Word)
  | vxorLit (a b : BitVec 8) (lit : Word)
  | vshlLit (a b : BitVec 8) (lit : Word)
  | vshrLit (a b : BitVec 8) (lit : Word)
  | vminLit (a b : BitVec 8) (lit : Word)
  | vmaxLit (a b : BitVec 8) (lit : Word)
  | vmad (a b c e : BitVec 8)
  | vabs (a b : BitVec 8)
  | vneg (a b : BitVec 8)
  | vcmp (cond : ICond) (kd : BitVec 3) (b c : BitVec 8)
  | vsel (a b c : BitVec 8) (k : BitVec 3)
  | vmov (a b : BitVec 8)
  | vbcast (a b : BitVec 8)
  | vclz (a b : BitVec 8)
  | vpopc (a b : BitVec 8)
  | vbrev (a b : BitVec 8)
  | vbfe (a b : BitVec 8) (pos : BitVec 6) (len : BitVec 7)
  | vbfi (a b c : BitVec 8) (pos : BitVec 6) (len : BitVec 7)
  | vmovLit (a : BitVec 8) (lit : Word)
  -- vector float, R245 to R252
  | vfadd (a b c : BitVec 8)
  | vfsub (a b c : BitVec 8)
  | vfmul (a b c : BitVec 8)
  | vfma (np na : Bool) (a b c e : BitVec 8)
  | vfmin (a b c : BitVec 8)
  | vfmax (a b c : BitVec 8)
  | vfdiv (a b c : BitVec 8)
  | vfsqrt (a b : BitVec 8)
  | vfrcp (a b : BitVec 8)
  | vfrsq (a b : BitVec 8)
  | vfexp2 (a b : BitVec 8)
  | vflog2 (a b : BitVec 8)
  | vfcmp (cond : FCond) (kd : BitVec 3) (b c : BitVec 8)
  | vfclass (a b : BitVec 8)
  | vfrnd (a b : BitVec 8)
  | vfscale (a b c : BitVec 8)
  -- conversion, R253 to R256
  | vcvt (a b : BitVec 8) (stype : EType)
  | vpack (a b c : BitVec 8) (fmt : PackFmt) (scaled : Bool)
  | vunpk (a b c : BitVec 8) (fmt : PackFmt) (scaled : Bool)
  -- cross-lane, R257 to R262
  | vshfl (a b c : BitVec 8)
  | vshflx (kind : ShflKind) (zf : Bool) (w : BitVec 3) (d : BitVec 5) (a b c : BitVec 8)
  | vred (op : RedOp) (w : BitVec 3) (u : Bool) (a b : BitVec 8)
  | vscan (op : RedOp) (w : BitVec 3) (excl : Bool) (a b : BitVec 8)
  | vmatch (a b : BitVec 8)
  | regrp (b c : BitVec 8)
  -- memory, R266 to R271
  | ld (a base c : BitVec 8) (x : MemExt)
  | st (a base c : BitVec 8) (x : MemExt)
  | ldu (a base c : BitVec 8) (x : MemExt)
  | stu (a base c : BitVec 8) (x : MemExt)
  | lds (a base c : BitVec 8) (x : MemExt)
  | sts (a base c : BitVec 8) (x : MemExt)
  | xlat (xr : BitVec 4) (b : BitVec 8)
  | xlatW (xr : BitVec 4) (b : BitVec 8)
  | xinv (xr : BitVec 4)
  | fenceAcq (sc : Scope)
  | fenceRel (sc : Scope)
  | fenceFull (sc : Scope)
  | fencex (p c : BitVec 3)
  -- uniform reductions, R273
  | atomuAdd (a base : BitVec 8) (x : MemExt)
  | atomuFadd (a base : BitVec 8) (x : MemExt)
  | atomuMin (a base : BitVec 8) (x : MemExt)
  | atomuMax (a base : BitVec 8) (x : MemExt)
  | atomuAnd (a base : BitVec 8) (x : MemExt)
  | atomuOr (a base : BitVec 8) (x : MemExt)
  | atomuXor (a base : BitVec 8) (x : MemExt)
  | atomuAddRet (a base : BitVec 8) (x : MemExt)
  | atomuFaddRet (a base : BitVec 8) (x : MemExt)
  | atomuMinRet (a base : BitVec 8) (x : MemExt)
  | atomuMaxRet (a base : BitVec 8) (x : MemExt)
  | atomuAndRet (a base : BitVec 8) (x : MemExt)
  | atomuOrRet (a base : BitVec 8) (x : MemExt)
  | atomuXorRet (a base : BitVec 8) (x : MemExt)
  -- tag table and pool split, R274 and R275
  | stag (a b : BitVec 8) (x : OrdExt)
  | stagset (a b c : BitVec 8) (x : OrdExt)
  | staginv (b : BitVec 8) (x : OrdExt)
  | spresz (a b : BitVec 8)
  -- lane reductions, R272
  | atomAdd (a base c : BitVec 8) (x : MemExt)
  | atomFadd (a base c : BitVec 8) (x : MemExt)
  | atomMin (a base c : BitVec 8) (x : MemExt)
  | atomMax (a base c : BitVec 8) (x : MemExt)
  | atomAnd (a base c : BitVec 8) (x : MemExt)
  | atomOr (a base c : BitVec 8) (x : MemExt)
  | atomXor (a base c : BitVec 8) (x : MemExt)
  | atomAddRet (a base c : BitVec 8) (x : MemExt)
  | atomFaddRet (a base c : BitVec 8) (x : MemExt)
  | atomMinRet (a base c : BitVec 8) (x : MemExt)
  | atomMaxRet (a base c : BitVec 8) (x : MemExt)
  | atomAndRet (a base c : BitVec 8) (x : MemExt)
  | atomOrRet (a base c : BitVec 8) (x : MemExt)
  | atomXorRet (a base c : BitVec 8) (x : MemExt)
  -- counters, R276 to R281
  | cadd (a base c : BitVec 8) (x : MemExt)
  | cfadd (a base c : BitVec 8) (x : MemExt)
  | cwait (a base c : BitVec 8) (x : MemExt)
  | cread (a base c : BitVec 8) (x : MemExt)
  | cpoll (a base c : BitVec 8) (x : MemExt)
  | cinit (a base c : BitVec 8) (x : MemExt)
  | cbrkAband (base c : BitVec 8) (x : MemExt)
  | cbrkFault (base c : BitVec 8) (x : MemExt)
  | cwaitCont (a base c : BitVec 8) (x : MemExt)
  -- tiles and matrix, R296 to R308
  | tld (sel base c : BitVec 8) (x : MemExt)
  | tst (sel base c : BitVec 8) (x : MemExt)
  | tzero (sel : BitVec 8)
  | tmovv (a b : BitVec 8) (index : BitVec 7) (col : Bool) (n : BitVec 2)
  | vmovt (a b : BitVec 8) (index : BitVec 7) (col : Bool) (n : BitVec 2)
  | mma (a b c : BitVec 8) (fb : BitVec 6) (ta tb ovw : Bool)
  | mmas (a b c : BitVec 8) (fb : BitVec 6) (ta tb ovw : Bool) (mp mt : BitVec 3) (mq : BitVec 2)
  | mclose (a : BitVec 8)
  | mwait (b : BitVec 8)
  | tcvt (a b c : BitVec 8) (fmt : TcvtFmt) (scaled : Bool) (p : BitVec 3) (sat : Bool) (rnd : TRnd) (isrc : Bool)
  | tprune (a b c : BitVec 8) (fmt : BitVec 4) (mq : BitVec 2)
  | tredmx (a b : BitVec 8) (b32 abs : Bool)
  | tredsm (a b : BitVec 8) (b32 : Bool)
  | tscl (a b : BitVec 8) (col add : Bool)
  -- engines, R310 to R322
  | xcp (p tmpl : BitVec 8) (x : Slots)
  | xcpm (p tmpl grp : BitVec 8) (x : Slots)
  | xgat (p v : BitVec 8) (rlen : BitVec 12) (x : Slots)
  | xcoll (p d : BitVec 8) (x : Slots)
  | xtmplTmpl (idx c : BitVec 8) (x : Slots)
  | xtmplGrp (idx c : BitVec 8) (x : Slots)
  -- kernel objects, R325 to R337
  | crwave (a b : BitVec 8) (x : Slots)
  | crwaveProc (a b : BitVec 8) (x : Slots)
  | crwaveAttr (a b c : BitVec 8) (x : Slots)
  | crgrid (a b : BitVec 8) (x : Slots)
  | pnew (a b c : BitVec 8) (x : Slots)
  | psend (a b c : BitVec 8) (x : Slots)
  | precv (a b : BitVec 8) (x : OrdExt)
  | precvTry (a b : BitVec 8) (x : OrdExt)
  | wsnew (a : BitVec 8) (x : Slots)
  | wsset (a b c : BitVec 8) (member : BitVec 3) (x : Slots)
  | wssetPort (a b c : BitVec 8) (member : BitVec 3) (x : Slots)
  | wssetTimer (a b c : BitVec 8) (member : BitVec 3) (x : Slots)
  | wswait (a b : BitVec 8) (x : OrdExt)
  | tmnew (a : BitVec 8) (x : Slots)
  | tmarm (a b c : BitVec 8) (after : Bool) (x : Slots)
  | tmstop (a : BitVec 8) (x : Slots)
  | nmreg (a b : BitVec 8) (x : Slots)
  | nmregDel (a b : BitVec 8) (x : Slots)
  | nmfind (a b : BitVec 8) (inpkg : Bool) (x : Slots)
  | odel (b : BitVec 8)
  -- events that name what they act on
  | regrpWindowExpiry (h : Handle)
  | mmaComplete (id : Nat)
  | engineStart (id : Nat)
  | engineCompletion (id : Nat)
  | multicastMemberDelivery (id : Nat) (member : Nat)
  | objectRequestReply (h : Handle) (slot : BitVec 3)
  | accessCompletion (h : Handle) (slot : BitVec 3)
  | downgradeCompletion (id : Nat)
  | homeCounterOperation (key : Nat) (op : CtrOp)
  | homeReduction (key : Nat) (op : AtomOp) (ty : EType) (vals : List DWord)
  | waiterWake (h : Handle) (value : DWord) (st : CtrStatus)
  | uiCounterFire (h : Handle)
  | userInterruptEntry (h : Handle)
  | messageLanding (id : Nat)
  | journalCompletion (die seq : Nat)
  | grantMapping (id : Nat)
  | grantCopy (id : Nat)
  | waitSetEvaluation (set : Handle)
  | timerExpiry (tm : Handle)
  | contextRefillDone (h : Handle)
  | hostWaiterFire (die n : Nat) (value : DWord) (st : CtrStatus) (wd : Bool)
  | kernelReplyRetry (n : Nat)
  | unassignedOpcode (w : Word)
  | registerWrite (reg : DevReg) (v : BitVec 256) (size : Nat)
  -- events of the HKU, the walker, the homes and the wave states
  | leaseExpiry
  | atsCompletion
  | priResponse
  | atsInvalidation
  | codeCopyOnWrite
  | downgradeMessage
  | faultReply
  | pendingFaultSend
  | pendingBreakPerform
  | svcBatchPendingWrite
  | svcReply
  | wavePlacement
  | eviction
  | preemption
  | teamSave
  | teamReload
  | priorityAgeing
  | rootPortLaunch
  | teamPlacement
  | pairComparison
  | codeObjectLoad
  -- events of the DRAM, the scrubbers and the device registers
  | rowActivationAlert
  | backoffWindowEnd
  | periodicRefresh
  | scrubWriteback
  | patrolScrub
  | aliasEntryWrite
  | apertureAdd
  | apertureRead
  | apertureWindowEnable
  | apertureWindowDisable
  | hostWaiterArm
  | hostWaiterDisarm
  | hostWaiterFiredClear
  | hostHdmWrite
  | hostHdmRead
  | commandWindowWrite
  | hostLinkDown
  | functionLevelReset
  | oczerLinkFailure
  | d3PathTimeout
  -- media engines
  | mediaDecode
  | mediaEncode
  | mediaReset
  | mediaRowReport
  | mediaRelcWake
  | mediaJobComplete
  -- bring-up, service and power
  | readinessReport
  | slackMonitor
  | clusterRetirement
  | fieldTestResult
  | firmwareImageUpdate
  | spdmGetVersion
  | spdmGetCapabilities
  | spdmNegotiateAlgorithms
  | spdmGetDigests
  | spdmGetCertificate
  | spdmChallenge
  | spdmGetMeasurements
  | spdmKeyExchange
  | spdmFinish
  | powerCapWrite
  | thermalTrip
  | deviceReset
  | hostLinkUp
  | oczerLinkRecovery
  | ethernetLinkFailure
  | retransmissionTimerExpiry
  | peerDomainAccess
deriving DecidableEq, Repr

end Sys2Proof
end

