-- ==== Sys2Proof/WellFormed.lean ====
section
/-! DEFINITION. Well-formed instructions: the checks of R195 row 4 that the words alone decide.
The checks that also need the wave's budget or its element type are made when it executes. -/

namespace Sys2Proof

/-- A code of vector kind as a source (R183). -/
def vSrc (c : BitVec 8) : Bool := c.toNat < 0xF4

/-- A code of vector kind as a destination (R183): a register or `vnull`. -/
def vDst (c : BitVec 8) : Bool := c.toNat < 0xF0 || c == 0xFF#8

/-- The first of `n` registers, aligned to `n` (R183). -/
def vGroup (n : Nat) (c : BitVec 8) : Bool := c.toNat < 0xF0 && c.toNat % n == 0

/-- A source of `n` registers, or a special (R183). -/
def vSrcN (n : Nat) (c : BitVec 8) : Bool := vGroup n c || (0xF0 ≤ c.toNat && c.toNat < 0xF4)

/-- A destination of `n` registers, or `vnull` (R183). -/
def vDstN (n : Nat) (c : BitVec 8) : Bool := vGroup n c || c == 0xFF#8

/-- A uniform source (R184, R216): s, x, k or an assigned special. -/
def uSrc (c : BitVec 8) : Bool := c.toNat < 0x58 || (0x60 ≤ c.toNat && c.toNat < 0x76)

/-- A uniform destination (R184): s or k. -/
def uDst (c : BitVec 8) : Bool := c.toNat < 0x40 || (0x50 ≤ c.toNat && c.toNat < 0x58)

/-- s0 to s63. -/
def sReg (c : BitVec 8) : Bool := c.toNat < 0x40

/-- s(n), with n a multiple of `m`. -/
def sGroup (m : Nat) (c : BitVec 8) : Bool := c.toNat < 0x40 && c.toNat % m == 0

/-- A whole tile in a uniform field (R184). -/
def tileCode (c : BitVec 8) : Bool := 0x58 ≤ c.toNat && c.toNat < 0x60

/-- Registers moved by one lane access of a width (R183, R266). -/
def Width.regs : Width → Nat
  | .b8 | .b16 | .b32 => 1
  | .b64 => 2
  | .b128 => 4

/-- Slot controls: `slot` is 0 unless `set` (R191). -/
def Slots.wf (x : Slots) : Bool := x.set || x.slot == 0#3

/-- An order among those accepted, with scope 0 when none (R191, R108). -/
def orderOk (acq rel : Bool) (o : Order) (sc : Scope) : Bool :=
  match o with
  | .none => sc == .wave
  | .acq => acq
  | .rel => rel
  | .acqrel => acq && rel

/-- A memory extension word of an instruction that accepts these orders (R191). -/
def MemExt.wf (acq rel : Bool) (x : MemExt) : Bool := orderOk acq rel x.order x.scope && x.slots.wf

def OrdExt.wf (acq rel : Bool) (x : OrdExt) : Bool := orderOk acq rel x.order x.scope && x.slots.wf

namespace MBase
/-- The bits of a memory base (R185). -/
def sp (b : BitVec 8) : Bool := b.getLsbD 6
def uoff (b : BitVec 8) : Bool := b.getLsbD 5
def wide (b : BitVec 8) : Bool := b.getLsbD 4
def xreg (b : BitVec 8) : BitVec 4 := b.extractLsb' 0 4
end MBase

/-- A memory base: bit 7 zero, `xreg` zero with `sp` (R185). -/
def mBase (b : BitVec 8) : Bool := !b.getLsbD 7 && (!MBase.sp b || MBase.xreg b == 0#4)

/-- A lane instruction's base and offset (R185, R264). -/
def laneBase (b c : BitVec 8) : Bool :=
  mBase b && !MBase.uoff b && vSrcN (if MBase.wide b then 2 else 1) c

/-- A uniform instruction's base and offset (R185, R264). With `uoff` 0 there is no offset for `wide` to choose a width of: the
manual does not say whether `wide` may be 1 then, and the model takes it and ignores it, in ATOMU and CWAIT with a
continuation too (log entry 45). -/
def uniBase (b c : BitVec 8) : Bool :=
  mBase b && (if MBase.uoff b then uSrc c else c == 0#8)

namespace MOpnd
/-- The fields of a matrix operand (R186). -/
def frag (m : BitVec 8) : Bool := m.getLsbD 7
def tile (m : BitVec 8) : BitVec 3 := m.extractLsb' 3 3
def panel (m : BitVec 8) : BitVec 3 := m.extractLsb' 0 3
def blk (m : BitVec 8) : BitVec 5 := m.extractLsb' 0 5
end MOpnd

/-- A matrix operand (R186). -/
def mOpnd (m : BitVec 8) : Bool :=
  !m.getLsbD 6 && (if MOpnd.frag m then !m.getLsbD 5 && (MOpnd.blk m).toNat ≤ 22 else true)

/-- A matrix operand that must be a panel. -/
def mPanel (m : BitVec 8) : Bool := !MOpnd.frag m && mOpnd m

/-- An operand panel must not lie in D's tile (R296). -/
def notInTile (m d : BitVec 8) : Bool := MOpnd.frag m || (MOpnd.tile m).toNat + 0x58 != d.toNat

/-- A tile selector (R302): bit 6 zero, panel 0 with `whole`. -/
def tileSel (s : BitVec 8) : Bool := !s.getLsbD 6 && (!s.getLsbD 7 || s.extractLsb' 0 3 == 0#3)

/-- Elements per lane of a VPACK format (R254). -/
def PackFmt.elems : PackFmt → Nat
  | .e4m3 | .e5m2 | .e3m2 | .e2m3 | .i8 => 4
  | .e2m1 => 8
  | .bf16 | .f16 | .i16 => 2

/-- Formats that accept a scale (R254). -/
def PackFmt.scalable : PackFmt → Bool
  | .e4m3 | .e5m2 | .e3m2 | .e2m3 | .e2m1 => true
  | _ => false

/-- Formats that TCVT accepts with a scale (R305). -/
def TcvtFmt.scalable : TcvtFmt → Bool
  | .e4m3 | .e5m2 | .e3m2 | .e2m3 | .e2m1 => true
  | _ => false

/-- Panels that one tile converts into (R305). -/
def TcvtFmt.panels : TcvtFmt → Nat
  | .e2m1 => 1
  | .e4m3 | .e5m2 | .e3m2 | .e2m3 | .i8 => 2
  | .bf16 | .f16 => 4

/-- Packed types hold two elements per lane (R188). -/
def EType.packed : EType → Bool
  | .f16x2 | .bf16x2 | .i16x2 => true
  | _ => false

/-- System registers that SYSRD reads (R224). -/
def sysRead (i : BitVec 8) : Bool :=
  i.toNat ≤ 0x0C || (0x10 ≤ i.toNat && i.toNat ≤ 0x12) || (0x20 ≤ i.toNat && i.toNat ≤ 0x25) ||
    i == 0x30#8

/-- System registers that SYSWR writes without behaviour of their own (R224). -/
def sysWrite (i : BitVec 8) : Bool :=
  i == 0x20#8 || (0x22 ≤ i.toNat && i.toNat ≤ 0x25)

/-- Mode bits that a field mask of SETM selects (R222, R187). -/
def modeMask (m : BitVec 6) : Word :=
  (if m.getLsbD 0 then 0x00000007#32 else 0#32) ||| (if m.getLsbD 1 then 0x000000F8#32 else 0#32) |||
  (if m.getLsbD 2 then 0x00000700#32 else 0#32) ||| (if m.getLsbD 3 then 0x00000800#32 else 0#32) |||
  (if m.getLsbD 4 then 0x00001000#32 else 0#32) ||| (if m.getLsbD 5 then 0xFFFF0000#32 else 0#32)

/-- A segment size of the cross-lane instructions (R257). -/
def segOk (w : BitVec 3) : Bool := 1 ≤ w.toNat && w.toNat ≤ 5

def ctrWf (acq rel : Bool) (x : MemExt) : Bool :=
  x.wf acq rel && x.width == .b64 && x.policy == 0#2

/-- A reduction's extension word: policy 0, and the widths that the operation accepts (R191, R272). -/
def atomExt (fadd ret : Bool) (x : MemExt) : Bool :=
  x.wf ret true && x.policy == 0#2 && (x.width == .b32 || x.width == .b64 || (fadd && x.width == .b16))

/-- ATOM without return (R272). -/
def atomWf (fadd : Bool) (a b c : BitVec 8) (x : MemExt) : Bool :=
  vSrcN x.width.regs a && laneBase b c && !MBase.sp b && atomExt fadd false x

/-- ATOM with return (R272). -/
def atomRetWf (fadd : Bool) (a b c : BitVec 8) (x : MemExt) : Bool :=
  vGroup x.width.regs a && laneBase b c && !MBase.sp b && atomExt fadd true x

/-- ATOMU (R273). -/
def atomuWf (fadd ret : Bool) (a b : BitVec 8) (x : MemExt) : Bool :=
  sReg a && mBase b && !MBase.sp b && !MBase.uoff b && atomExt fadd ret x

def mmaWf (a b c : BitVec 8) (fb : BitVec 6) (ta tb : Bool) : Bool :=
  tileCode a && mOpnd b && mOpnd c && fb.toNat % 4 == 0 && !(ta && MOpnd.frag b) &&
    !(tb && MOpnd.frag c) && notInTile b a && notInTile c a

def laneLoad (sp : Bool) (a b c : BitVec 8) (x : MemExt) : Bool :=
  vDstN x.width.regs a && laneBase b c && MBase.sp b == sp && x.wf true false

def laneStore (sp : Bool) (a b c : BitVec 8) (x : MemExt) : Bool :=
  vSrcN x.width.regs a && laneBase b c && MBase.sp b == sp && x.wf false true

/-- A lane counter instruction whose data field is judged by `data` (R276). -/
def laneCtr (data : Bool) (b c : BitVec 8) (acq rel : Bool) (x : MemExt) : Bool :=
  data && laneBase b c && ctrWf acq rel x

def u3 (a b c : BitVec 8) : Bool := uDst a && uSrc b && uSrc c
def u2 (a b : BitVec 8) : Bool := uDst a && uSrc b
def v3 (a b c : BitVec 8) : Bool := vDst a && vSrc b && vSrc c
def v2 (a b : BitVec 8) : Bool := vDst a && vSrc b

/-- The checks of R195 row 4 that the words decide, per instruction. Events are well formed. -/
def Instr.wf : Instr → Bool
  | .nop | .br _ | .bcc _ _ | .bmz _ | .bmnz _ | .bmall _ | .call _ | .ret | .exit | .yield
  | .uiret | .bkpt _ | .setm _ => true
  | .jmpr b => uSrc b
  | .jmprLink a b => u2 a b
  | .sadd a b c | .ssub a b c | .smul a b c | .smulh a b c | .sand a b c | .sor a b c | .sxor a b c
  | .sshl a b c | .sshr a b c | .ssra a b c | .smin a b c | .smax a b c | .ssel a b c
  | .kand a b c | .kor a b c | .kxor a b c => u3 a b c
  | .scmp b c | .regrp b c => uSrc b && uSrc c
  | .smov a b | .sclz a b | .spopc a b | .knot a b | .kmov a b | .kpop a b | .kfirst a b
  | .spresz a b => u2 a b
  | .sli a _ | .sliZ a _ => uDst a
  | .sliHi a _ => sReg a
  | .setmSrc b | .setmCc b | .syswrUictl b | .syswrResinj b | .whalt b | .whaltRes b | .mwait b
  | .odel b => uSrc b
  | .setmPart m lit => m != 0#6 && lit &&& ~~~(modeMask m) == 0#32
  | .getm a | .getmCc a | .mclose a => uDst a
  | .sysrd a i => uDst a && sysRead i
  | .syswr i b => sysWrite i && uSrc b
  | .svc _ b c => vGroup 8 b && vGroup 4 c
  | .vadd a b c | .vsub a b c | .vmul a b c | .vmulh a b c | .vand a b c | .vor a b c | .vxor a b c
  | .vshl a b c | .vshr a b c | .vmin a b c | .vmax a b c | .vfadd a b c | .vfsub a b c
  | .vfmul a b c | .vfmin a b c | .vfmax a b c | .vfdiv a b c | .vfscale a b c | .vshfl a b c
  | .vsel a b c _ => v3 a b c
  | .vaddLit a b _ | .vsubLit a b _ | .vmulLit a b _ | .vmulhLit a b _ | .vandLit a b _
  | .vorLit a b _ | .vxorLit a b _ | .vshlLit a b _ | .vshrLit a b _ | .vminLit a b _
  | .vmaxLit a b _ => v2 a b
  | .vmad a b c e | .vfma _ _ a b c e => v3 a b c && vSrc e
  | .vabs a b | .vneg a b | .vmov a b | .vclz a b | .vpopc a b | .vbrev a b | .vfsqrt a b
  | .vfrcp a b | .vfrsq a b | .vfexp2 a b | .vflog2 a b | .vfclass a b | .vfrnd a b
  | .vmatch a b => v2 a b
  | .vcmp _ _ b c | .vfcmp _ _ b c => vSrc b && vSrc c
  | .vbcast a b => vDst a && uSrc b
  | .vbfe a b pos len => v2 a b && len != 0#7 && pos.toNat + len.toNat ≤ 64
  | .vbfi a b c pos len => v3 a b c && len != 0#7 && pos.toNat + len.toNat ≤ 64
  | .vmovLit a _ => vDst a
  | .vcvt a b t => v2 a b && !t.packed
  | .vpack a b c fmt scaled =>
      vDst a && vGroup fmt.elems b && (if scaled then fmt.scalable && vSrc c else c == 0#8)
  | .vunpk a b c fmt scaled =>
      vGroup fmt.elems a && vSrc b && (if scaled then fmt.scalable && vSrc c else c == 0#8)
  | .vshflx kind _ w d a b c =>
      v2 a b && segOk w &&
        (match kind with
         | .idx => vSrc c && d == 0#5
         | .up | .down => c == 0#8
         | .xor | .bcast => c == 0#8 && d.toNat < 2 ^ w.toNat)
  | .vred _ w u a b => vSrc b && segOk w && (if u then uDst a && w == 5#3 else vDst a)
  | .vscan _ w _ a b => v2 a b && segOk w
  | .ld a b c x => laneLoad false a b c x
  | .st a b c x => laneStore false a b c x
  | .lds a b c x => laneLoad true a b c x && x.policy == 0#2
  | .sts a b c x => laneStore true a b c x && x.policy == 0#2
  | .ldu a b c x => (sReg a || a == 0xFF#8) && uniBase b c && !MBase.sp b && x.width != .b128 && x.wf true false
  | .stu a b c x => uSrc a && uniBase b c && !MBase.sp b && x.width != .b128 && x.wf false true
  | .xlat _ b | .xlatW _ b => uSrc b
  | .xinv _ | .fenceAcq _ | .fenceRel _ | .fenceFull _ => true
  | .fencex p c => p != 7#3 && c != 7#3 && p != c
  | .atomuAdd a b x | .atomuMin a b x | .atomuMax a b x | .atomuAnd a b x
  | .atomuOr a b x | .atomuXor a b x => atomuWf false false a b x
  | .atomuFadd a b x => atomuWf true false a b x
  | .atomuAddRet a b x | .atomuMinRet a b x | .atomuMaxRet a b x
  | .atomuAndRet a b x | .atomuOrRet a b x | .atomuXorRet a b x => atomuWf false true a b x
  | .atomuFaddRet a b x => atomuWf true true a b x
  | .stag a b x => vDst a && vSrcN 2 b && x.wf true false
  | .stagset a b c x => vDst a && vSrcN 2 b && vSrc c && x.wf false true
  | .staginv b x => vSrc b && x.wf false true
  | .atomAdd a b c x | .atomMin a b c x | .atomMax a b c x | .atomAnd a b c x
  | .atomOr a b c x | .atomXor a b c x => atomWf false a b c x
  | .atomFadd a b c x => atomWf true a b c x
  | .atomAddRet a b c x | .atomMinRet a b c x | .atomMaxRet a b c x
  | .atomAndRet a b c x | .atomOrRet a b c x | .atomXorRet a b c x => atomRetWf false a b c x
  | .atomFaddRet a b c x => atomRetWf true a b c x
  | .cadd a b c x => laneCtr (vSrcN 2 a) b c false true x
  | .cfadd a b c x => laneCtr (vGroup 2 a) b c true true x
  | .cread a b c x => laneCtr (vDstN 2 a) b c true false x
  | .cinit a b c x => laneCtr (vSrcN 2 a) b c false true x
  | .cbrkAband b c x | .cbrkFault b c x => laneCtr true b c false true x
  | .cwait a b c x | .cpoll a b c x => sReg a && uniBase b c && ctrWf true false x
  | .cwaitCont a b c x => sReg a && mBase b && !MBase.uoff b && uSrc c && ctrWf true false x
  | .tld s b c x =>
      tileSel s && mBase b && MBase.uoff b && !MBase.wide b && sReg c && x.width == .b128 &&
        x.wf true false && (!MBase.sp b || x.policy == 0#2)
  | .tst s b c x =>
      tileSel s && mBase b && MBase.uoff b && !MBase.wide b && sReg c && x.width == .b128 &&
        x.wf false true && (!MBase.sp b || x.policy == 0#2)
  | .tzero s => tileSel s
  | .tmovv a b i _ n =>
      vGroup 4 a && tileCode b && i.toNat + 2 ^ n.toNat ≤ 128 && a.toNat + 4 * 2 ^ n.toNat ≤ 240
  | .vmovt a b i _ n =>
      tileCode a && vGroup 4 b && i.toNat + 2 ^ n.toNat ≤ 128 && b.toNat + 4 * 2 ^ n.toNat ≤ 240
  | .mma a b c fb ta tb _ => mmaWf a b c fb ta tb
  | .mmas a b c fb ta tb _ _ mt _ =>
      mmaWf a b c fb ta tb && mPanel b && mPanel c && !c.getLsbD 0 && mt.toNat + 0x58 != a.toNat
  | .tcvt a b c fmt scaled p _ _ isrc =>
      tileCode a && tileCode b && a != b && (if scaled then uSrc c && fmt.scalable else c == 0#8) &&
        (!isrc || fmt == .i8) && p.toNat % fmt.panels == 0
  | .tprune a b c fmt mq =>
      mPanel a && mPanel b && mPanel c && !b.getLsbD 0 && fmt.toNat ≤ 11 &&
        (fmt != 4#4 || !mq.getLsbD 0)
  | .tredmx a b b32 _ | .tredsm a b b32 =>
      vGroup 4 a && tileCode b && a.toNat + (if b32 then 16 else 4) ≤ 240
  | .tscl a b _ add => tileCode a && vGroup 4 b && b.toNat + (if add then 8 else 4) ≤ 240
  | .xcp p t x => sGroup 4 p && t.toNat ≤ 63 && x.wf
  | .xcpm p t g x => sGroup 4 p && t.toNat ≤ 63 && g.toNat ≤ 15 && x.wf
  | .xgat p v _ x => sGroup 4 p && vSrc v && x.wf
  | .xcoll p d x => sGroup 4 p && uSrc d && x.wf
  | .xtmplTmpl i c x => i.toNat ≤ 63 && uSrc c && x.wf
  | .xtmplGrp i c x => i.toNat ≤ 15 && uSrc c && x.wf
  | .crwave a b x | .crwaveProc a b x | .crgrid a b x | .nmfind a b _ x => u2 a b && x.wf
  | .crwaveAttr a b c x => u2 a b && uSrc c && x.wf
  | .pnew a b c x => sGroup 2 a && uSrc b && uSrc c && x.wf
  | .psend a b c x => u2 a b && sGroup 8 c && x.wf
  | .precv a b x | .precvTry a b x => sGroup 8 a && uSrc b && x.wf true false
  | .wsnew a x | .tmnew a x => uDst a && x.wf
  | .wsset a b c _ x | .wssetPort a b c _ x | .wssetTimer a b c _ x | .tmarm a b c _ x =>
      uSrc a && uSrc b && uSrc c && x.wf
  | .wswait a b x => u2 a b && x.wf true false
  | .tmstop a x => uSrc a && x.wf
  | .nmreg a b x | .nmregDel a b x => uSrc a && uSrc b && x.wf
  | .regrpWindowExpiry _ | .mmaComplete _ | .engineStart _ | .engineCompletion _ |
    .multicastMemberDelivery _ _ | .objectRequestReply _ _ | .accessCompletion _ _ |
    .downgradeCompletion _ | .homeCounterOperation _ _ | .homeReduction _ _ _ _ |
    .waiterWake _ _ _ | .uiCounterFire _ | .userInterruptEntry _ | .messageLanding _ |
    .journalCompletion _ _ | .grantMapping _ | .grantCopy _ | .waitSetEvaluation _ |
    .timerExpiry _ | .contextRefillDone _ | .hostWaiterFire _ _ _ _ _ | .kernelReplyRetry _ |
    .unassignedOpcode _ | .registerWrite _ _ _ | .leaseExpiry | .atsCompletion | .priResponse |
    .atsInvalidation | .codeCopyOnWrite | .downgradeMessage | .faultReply | .pendingFaultSend |
    .pendingBreakPerform | .svcBatchPendingWrite | .svcReply | .wavePlacement | .eviction |
    .preemption | .teamSave | .teamReload | .priorityAgeing | .rootPortLaunch | .teamPlacement |
    .pairComparison | .codeObjectLoad | .rowActivationAlert | .backoffWindowEnd |
    .periodicRefresh | .scrubWriteback | .patrolScrub | .aliasEntryWrite | .apertureAdd |
    .apertureRead | .apertureWindowEnable | .apertureWindowDisable | .hostWaiterArm |
    .hostWaiterDisarm | .hostWaiterFiredClear | .hostHdmWrite | .hostHdmRead |
    .commandWindowWrite | .hostLinkDown | .functionLevelReset | .oczerLinkFailure |
    .d3PathTimeout | .mediaDecode | .mediaEncode | .mediaReset | .mediaRowReport |
    .mediaRelcWake | .mediaJobComplete | .readinessReport | .slackMonitor | .clusterRetirement |
    .fieldTestResult | .firmwareImageUpdate | .spdmGetVersion | .spdmGetCapabilities |
    .spdmNegotiateAlgorithms | .spdmGetDigests | .spdmGetCertificate | .spdmChallenge |
    .spdmGetMeasurements | .spdmKeyExchange | .spdmFinish | .powerCapWrite | .thermalTrip |
    .deviceReset | .hostLinkUp | .oczerLinkRecovery | .ethernetLinkFailure |
    .retransmissionTimerExpiry | .peerDomainAccess => true

end Sys2Proof
end

