-- ==== Sys2Proof/Decode.lean ====
section
/-! DEFINITION. Decoding and encoding of Praot instructions (07 R179 to R195). Decoding is total:
it answers an instruction, or the trap that R195 rows 2 and 4 name. -/

namespace Sys2Proof

/-! ### Codes of the enumerations -/

def Scope.toCode : Scope → BitVec 3
  | .wave => 0#3 | .team => 1#3 | .core => 2#3 | .cluster => 3#3
  | .die => 4#3 | .pkg => 5#3 | .dom => 6#3 | .sys => 7#3

def Scope.ofCode (c : BitVec 3) : Scope :=
  match c.toNat with
  | 0 => .wave | 1 => .team | 2 => .core | 3 => .cluster | 4 => .die | 5 => .pkg | 6 => .dom | _ => .sys

def Order.toCode : Order → BitVec 2
  | .none => 0#2 | .acq => 1#2 | .rel => 2#2 | .acqrel => 3#2

def Order.ofCode (c : BitVec 2) : Order :=
  match c.toNat with
  | 0 => .none | 1 => .acq | 2 => .rel | _ => .acqrel

def Width.toCode : Width → BitVec 3
  | .b8 => 0#3 | .b16 => 1#3 | .b32 => 2#3 | .b64 => 3#3 | .b128 => 4#3

/-- Width codes 5 to 7 are reserved (R190). -/
def Width.ofCode (c : BitVec 3) : Option Width :=
  match c.toNat with
  | 0 => some .b8 | 1 => some .b16 | 2 => some .b32 | 3 => some .b64 | 4 => some .b128 | _ => none

def Cond.toCode : Cond → BitVec 8
  | .eq => 0#8 | .ne => 1#8 | .lt => 2#8 | .ge => 3#8 | .lo => 4#8 | .hs => 5#8 | .mi => 6#8
  | .pl => 7#8 | .vs => 8#8 | .vc => 9#8 | .bk => 10#8 | .nbk => 11#8 | .fl => 12#8 | .nfl => 13#8

/-- Condition codes 14 to 255 are reserved (R218). -/
def Cond.ofCode (c : BitVec 8) : Option Cond :=
  match c.toNat with
  | 0 => some .eq | 1 => some .ne | 2 => some .lt | 3 => some .ge | 4 => some .lo | 5 => some .hs
  | 6 => some .mi | 7 => some .pl | 8 => some .vs | 9 => some .vc | 10 => some .bk | 11 => some .nbk
  | 12 => some .fl | 13 => some .nfl | _ => none

def ICond.toCode : ICond → BitVec 3
  | .eq => 0#3 | .ne => 1#3 | .lt => 2#3 | .le => 3#3 | .gt => 4#3 | .ge => 5#3

def ICond.ofCode (c : BitVec 3) : Option ICond :=
  match c.toNat with
  | 0 => some .eq | 1 => some .ne | 2 => some .lt | 3 => some .le | 4 => some .gt | 5 => some .ge
  | _ => none

def FCond.toCode : FCond → BitVec 4
  | .eq => 0#4 | .ne => 1#4 | .lt => 2#4 | .le => 3#4 | .gt => 4#4 | .ge => 5#4 | .uno => 6#4
  | .ord => 7#4

def FCond.ofCode (c : BitVec 4) : Option FCond :=
  match c.toNat with
  | 0 => some .eq | 1 => some .ne | 2 => some .lt | 3 => some .le | 4 => some .gt | 5 => some .ge
  | 6 => some .uno | 7 => some .ord | _ => none

def ShflKind.toCode : ShflKind → BitVec 3
  | .idx => 0#3 | .up => 1#3 | .down => 2#3 | .xor => 3#3 | .bcast => 4#3

def ShflKind.ofCode (c : BitVec 3) : Option ShflKind :=
  match c.toNat with
  | 0 => some .idx | 1 => some .up | 2 => some .down | 3 => some .xor | 4 => some .bcast | _ => none

def RedOp.toCode : RedOp → BitVec 4
  | .add => 0#4 | .min => 1#4 | .max => 2#4 | .and => 3#4 | .or => 4#4 | .xor => 5#4 | .fadd => 6#4
  | .fmin => 7#4 | .fmax => 8#4

def RedOp.ofCode (c : BitVec 4) : Option RedOp :=
  match c.toNat with
  | 0 => some .add | 1 => some .min | 2 => some .max | 3 => some .and | 4 => some .or
  | 5 => some .xor | 6 => some .fadd | 7 => some .fmin | 8 => some .fmax | _ => none

def EType.toCode : EType → BitVec 5
  | .i32 => 0#5 | .n32 => 1#5 | .i16 => 2#5 | .n16 => 3#5 | .i8 => 4#5 | .n8 => 5#5 | .i64 => 6#5
  | .n64 => 7#5 | .f32 => 8#5 | .f16 => 9#5 | .bf16 => 10#5 | .f64 => 11#5 | .f16x2 => 12#5
  | .bf16x2 => 13#5 | .i16x2 => 14#5

/-- Codes 0x0F to 0x1F are reserved (R188). -/
def EType.ofCode (c : BitVec 5) : Option EType :=
  match c.toNat with
  | 0 => some .i32 | 1 => some .n32 | 2 => some .i16 | 3 => some .n16 | 4 => some .i8 | 5 => some .n8
  | 6 => some .i64 | 7 => some .n64 | 8 => some .f32 | 9 => some .f16 | 10 => some .bf16
  | 11 => some .f64 | 12 => some .f16x2 | 13 => some .bf16x2 | 14 => some .i16x2 | _ => none

def PackFmt.toCode : PackFmt → BitVec 4
  | .e4m3 => 0#4 | .e5m2 => 1#4 | .e3m2 => 2#4 | .e2m3 => 3#4 | .e2m1 => 4#4 | .i8 => 5#4
  | .bf16 => 6#4 | .f16 => 7#4 | .i16 => 8#4

def PackFmt.ofCode (c : BitVec 4) : Option PackFmt :=
  match c.toNat with
  | 0 => some .e4m3 | 1 => some .e5m2 | 2 => some .e3m2 | 3 => some .e2m3 | 4 => some .e2m1
  | 5 => some .i8 | 6 => some .bf16 | 7 => some .f16 | 8 => some .i16 | _ => none

def TcvtFmt.toCode : TcvtFmt → BitVec 4
  | .e4m3 => 0#4 | .e5m2 => 1#4 | .e3m2 => 2#4 | .e2m3 => 3#4 | .e2m1 => 4#4 | .i8 => 5#4
  | .bf16 => 6#4 | .f16 => 7#4

def TcvtFmt.ofCode (c : BitVec 4) : Option TcvtFmt :=
  match c.toNat with
  | 0 => some .e4m3 | 1 => some .e5m2 | 2 => some .e3m2 | 3 => some .e2m3 | 4 => some .e2m1
  | 5 => some .i8 | 6 => some .bf16 | 7 => some .f16 | _ => none

def TRnd.toCode : TRnd → BitVec 2
  | .rne => 0#2 | .rtz => 1#2 | .rna => 2#2 | .sto => 3#2

def TRnd.ofCode (c : BitVec 2) : TRnd :=
  match c.toNat with
  | 0 => .rne | 1 => .rtz | 2 => .rna | _ => .sto

def bit (b : Bool) : BitVec 1 := BitVec.ofBool b

/-! ### Extension words -/

/-- Bits [11:0] (R190). -/
def Slots.encode (x : Slots) : BitVec 12 := bit x.set ++ (x.slot ++ x.wait)

def Slots.decode (w : Word) : Slots :=
  { set := w.getLsbD 11, slot := w.extractLsb' 8 3, wait := w.extractLsb' 0 8 }

/-- The memory extension word (R190). -/
def MemExt.encode (x : MemExt) : Word :=
  x.imm ++ (x.policy ++ (x.width.toCode ++ (x.order.toCode ++ (x.scope.toCode ++ x.slots.encode))))

def MemExt.decode (w : Word) : Option MemExt :=
  (Width.ofCode (w.extractLsb' 17 3)).map fun wd =>
    { imm := w.extractLsb' 22 10, policy := w.extractLsb' 20 2, width := wd,
      order := Order.ofCode (w.extractLsb' 15 2), scope := Scope.ofCode (w.extractLsb' 12 3),
      slots := Slots.decode w }

/-- Order, scope and slot controls, with bits [31:17] zero (R274). -/
def OrdExt.encode (x : OrdExt) : Word :=
  0#15 ++ (x.order.toCode ++ (x.scope.toCode ++ x.slots.encode))

def OrdExt.decode (w : Word) : Option OrdExt :=
  if w.extractLsb' 17 15 = 0#15 then
    some { order := Order.ofCode (w.extractLsb' 15 2), scope := Scope.ofCode (w.extractLsb' 12 3),
           slots := Slots.decode w }
  else none

/-! ### Base words -/

/-- The base word (R179). -/
def base (op a b c : BitVec 8) : Word := op ++ (a ++ (b ++ c))

/-- A WB word (R180). -/
def baseWB (op : BitVec 8) (o : BitVec 24) : Word := op ++ o

def opOf (w : Word) : BitVec 8 := w.extractLsb' 24 8
def fieldA (w : Word) : BitVec 8 := w.extractLsb' 16 8
def fieldB (w : Word) : BitVec 8 := w.extractLsb' 8 8
def fieldC (w : Word) : BitVec 8 := w.extractLsb' 0 8
def offWB (w : Word) : BitVec 24 := w.extractLsb' 0 24

/-- k0 to k7 as a uniform code (R184). -/
def kCode (k : BitVec 3) : BitVec 8 := 0x0A#5 ++ k

def kField (c : BitVec 8) : Option (BitVec 3) :=
  if c.extractLsb' 3 5 = 0x0A#5 then some (c.extractLsb' 0 3) else none

/-- x0 to x15 as a uniform code (R184). -/
def xCode (x : BitVec 4) : BitVec 8 := 4#4 ++ x

def xField (c : BitVec 8) : Option (BitVec 4) :=
  if c.extractLsb' 4 4 = 4#4 then some (c.extractLsb' 0 4) else none

/-- The opcodes of the map of R192. -/
def assigned (op : BitVec 8) : Bool :=
  let n := op.toNat
  n ≤ 0x0A || (0x10 ≤ n && n ≤ 0x25) || (0x30 ≤ n && n ≤ 0x3A) || (0x40 ≤ n && n ≤ 0x4A) ||
  (0x50 ≤ n && n ≤ 0x5A) || (0x60 ≤ n && n ≤ 0x6C) || (0x70 ≤ n && n ≤ 0x7F) ||
  (0x80 ≤ n && n ≤ 0x82) || (0x90 ≤ n && n ≤ 0x95) || (0xA0 ≤ n && n ≤ 0xAE) ||
  (0xB0 ≤ n && n ≤ 0xB6) || (0xB8 ≤ n && n ≤ 0xBE) || (0xC0 ≤ n && n ≤ 0xD5) ||
  (0xE0 ≤ n && n ≤ 0xE4) || (0xE8 ≤ n && n ≤ 0xF5)

/-- The opcodes of form WX or WL, which have a second word (R192). -/
def isLong (op : BitVec 8) : Bool :=
  let n := op.toNat
  n == 0x02 || n == 0x1E || n == 0x22 || (0x50 ≤ n && n ≤ 0x5A) || n == 0x60 || n == 0x63 ||
  n == 0x64 || n == 0x6A || n == 0x6B || n == 0x6C || n == 0x73 || n == 0x7C ||
  (0x80 ≤ n && n ≤ 0x82) || (0x91 ≤ n && n ≤ 0x93) || (0xA0 ≤ n && n ≤ 0xA5) ||
  (0xAA ≤ n && n ≤ 0xAD) || (0xB0 ≤ n && n ≤ 0xB6) || (0xB8 ≤ n && n ≤ 0xBE) ||
  (0xC0 ≤ n && n ≤ 0xC9) || (0xCB ≤ n && n ≤ 0xCE) || (0xD1 ≤ n && n ≤ 0xD5) ||
  (0xE0 ≤ n && n ≤ 0xE4) || (0xE8 ≤ n && n ≤ 0xF4)

/-- The experimental opcodes (R193). -/
def experimental (op : BitVec 8) : Bool := op == 0xD4#8 || op == 0xE4#8

/-! ### Field decoding -/

/-- An answer only when the unused fields are zero (R180). -/
def only (ok : Bool) (i : Instr) : Option Instr := if ok then some i else none

def z (c : BitVec 8) : Bool := c == 0#8

/-- WX instructions with a memory extension word. -/
def withMem (x : Word) (f : MemExt → Instr) : Option Instr := (MemExt.decode x).map f

def withOrd (x : Word) (f : OrdExt → Instr) : Option Instr := (OrdExt.decode x).map f

/-- WX instructions whose bits [31:12] are all zero beside the slot controls. -/
def withSlots (x : Word) (f : Slots → Instr) : Option Instr :=
  if x.extractLsb' 12 20 = 0#20 then some (f (Slots.decode x)) else none

def decodeControl (op : Nat) (w x : Word) : Option Instr :=
  let a := fieldA w; let b := fieldB w; let c := fieldC w
  match op with
  | 0x00 => only (z a && z b && z c) .nop
  | 0x01 => some (.br (offWB w))
  | 0x02 => if z b && z c then (Cond.ofCode a).map (.bcc · x) else none
  | 0x03 => some (.bmz (offWB w))
  | 0x04 => some (.bmnz (offWB w))
  | 0x05 => some (.bmall (offWB w))
  | 0x06 => some (.call (offWB w))
  | 0x07 => only (z a && z b && z c) .ret
  | 0x08 => if c = 0#8 then only (z a) (.jmpr b) else only (c == 1#8) (.jmprLink a b)
  | 0x09 => only (z a && z b && z c) .exit
  | 0x0A => only (z a && z b && z c) .yield
  | _ => none

def decodeUniform (op : Nat) (w x : Word) : Option Instr :=
  let a := fieldA w; let b := fieldB w; let c := fieldC w
  match op with
  | 0x10 => some (.sadd a b c)
  | 0x11 => some (.ssub a b c)
  | 0x12 => some (.smul a b c)
  | 0x13 => some (.smulh a b c)
  | 0x14 => some (.sand a b c)
  | 0x15 => some (.sor a b c)
  | 0x16 => some (.sxor a b c)
  | 0x17 => some (.sshl a b c)
  | 0x18 => some (.sshr a b c)
  | 0x19 => some (.ssra a b c)
  | 0x1A => some (.smin a b c)
  | 0x1B => some (.smax a b c)
  | 0x1C => only (z a) (.scmp b c)
  | 0x1D => only (z c) (.smov a b)
  | 0x1E =>
    if z b then
      match c.toNat with
      | 0 => some (.sli a x)
      | 1 => some (.sliZ a x)
      | 2 => some (.sliHi a x)
      | _ => none
    else none
  | 0x1F => some (.ssel a b c)
  | 0x20 => only (z c) (.sclz a b)
  | 0x21 => only (z c) (.spopc a b)
  | 0x22 =>
    if z a then
      match c.toNat with
      | 0 => only (z b) (.setm x)
      | 1 => only (x == 0#32) (.setmSrc b)
      | 2 => only (b.extractLsb' 6 2 == 0#2) (.setmPart (b.extractLsb' 0 6) x)
      | 3 => only (x == 0#32) (.setmCc b)
      | _ => none
    else none
  | 0x23 =>
    if z c then
      match b.toNat with
      | 0 => some (.getm a)
      | 1 => some (.getmCc a)
      | _ => none
    else none
  | 0x24 => only (z c) (.sysrd a b)
  | 0x25 =>
    if z c then
      if a = 0x21#8 then some (.syswrUictl b)
      else if a = 0x30#8 then some (.syswrResinj b)
      else some (.syswr a b)
    else none
  | _ => none

def decodeMask (op : Nat) (w : Word) : Option Instr :=
  let a := fieldA w; let b := fieldB w; let c := fieldC w
  match op with
  | 0x30 => some (.kand a b c)
  | 0x31 => some (.kor a b c)
  | 0x32 => some (.kxor a b c)
  | 0x33 => only (z c) (.knot a b)
  | 0x34 => only (z c) (.kmov a b)
  | 0x35 => only (z c) (.kpop a b)
  | 0x36 => only (z c) (.kfirst a b)
  | 0x37 => some (.svc a b c)
  | 0x38 => only (z a && z b) (.bkpt c)
  | 0x39 => only (z a && z b && z c) .uiret
  | 0x3A => if c = 0#8 then only (z a) (.whalt b) else only (z a && c == 1#8) (.whaltRes b)
  | _ => none

def decodeVectorInt (op : Nat) (w x : Word) : Option Instr :=
  let a := fieldA w; let b := fieldB w; let c := fieldC w
  match op with
  | 0x40 => some (.vadd a b c)
  | 0x41 => some (.vsub a b c)
  | 0x42 => some (.vmul a b c)
  | 0x43 => some (.vmulh a b c)
  | 0x44 => some (.vand a b c)
  | 0x45 => some (.vor a b c)
  | 0x46 => some (.vxor a b c)
  | 0x47 => some (.vshl a b c)
  | 0x48 => some (.vshr a b c)
  | 0x49 => some (.vmin a b c)
  | 0x4A => some (.vmax a b c)
  | 0x50 => only (z c) (.vaddLit a b x)
  | 0x51 => only (z c) (.vsubLit a b x)
  | 0x52 => only (z c) (.vmulLit a b x)
  | 0x53 => only (z c) (.vmulhLit a b x)
  | 0x54 => only (z c) (.vandLit a b x)
  | 0x55 => only (z c) (.vorLit a b x)
  | 0x56 => only (z c) (.vxorLit a b x)
  | 0x57 => only (z c) (.vshlLit a b x)
  | 0x58 => only (z c) (.vshrLit a b x)
  | 0x59 => only (z c) (.vminLit a b x)
  | 0x5A => only (z c) (.vmaxLit a b x)
  | 0x60 => only (x.extractLsb' 8 24 == 0#24) (.vmad a b c (fieldC x))
  | 0x61 => only (z c) (.vabs a b)
  | 0x62 => only (z c) (.vneg a b)
  | 0x63 =>
    if x.extractLsb' 3 29 = 0#29 then
      (ICond.ofCode (x.extractLsb' 0 3)).bind fun cd => (kField a).map fun k => .vcmp cd k b c
    else none
  | 0x64 => only (x.extractLsb' 3 29 == 0#29) (.vsel a b c (x.extractLsb' 0 3))
  | 0x65 => only (z c) (.vmov a b)
  | 0x66 => only (z c) (.vbcast a b)
  | 0x67 => only (z c) (.vclz a b)
  | 0x68 => only (z c) (.vpopc a b)
  | 0x69 => only (z c) (.vbrev a b)
  | 0x6A =>
    only (z c && x.extractLsb' 13 19 == 0#19) (.vbfe a b (x.extractLsb' 0 6) (x.extractLsb' 6 7))
  | 0x6B => only (x.extractLsb' 13 19 == 0#19) (.vbfi a b c (x.extractLsb' 0 6) (x.extractLsb' 6 7))
  | 0x6C => only (z b && z c) (.vmovLit a x)
  | _ => none

def decodeVectorFloat (op : Nat) (w x : Word) : Option Instr :=
  let a := fieldA w; let b := fieldB w; let c := fieldC w
  match op with
  | 0x70 => some (.vfadd a b c)
  | 0x71 => some (.vfsub a b c)
  | 0x72 => some (.vfmul a b c)
  | 0x73 => only (x.extractLsb' 10 22 == 0#22) (.vfma (x.getLsbD 8) (x.getLsbD 9) a b c (fieldC x))
  | 0x74 => some (.vfmin a b c)
  | 0x75 => some (.vfmax a b c)
  | 0x76 => some (.vfdiv a b c)
  | 0x77 => only (z c) (.vfsqrt a b)
  | 0x78 => only (z c) (.vfrcp a b)
  | 0x79 => only (z c) (.vfrsq a b)
  | 0x7A => only (z c) (.vfexp2 a b)
  | 0x7B => only (z c) (.vflog2 a b)
  | 0x7C =>
    if x.extractLsb' 4 28 = 0#28 then
      (FCond.ofCode (x.extractLsb' 0 4)).bind fun cd => (kField a).map fun k => .vfcmp cd k b c
    else none
  | 0x7D => only (z c) (.vfclass a b)
  | 0x7E => only (z c) (.vfrnd a b)
  | 0x7F => some (.vfscale a b c)
  | 0x80 =>
    if z c && x.extractLsb' 5 27 == 0#27 then (EType.ofCode (x.extractLsb' 0 5)).map (.vcvt a b ·)
    else none
  | 0x81 =>
    if x.extractLsb' 5 27 = 0#27 then
      (PackFmt.ofCode (x.extractLsb' 0 4)).map (.vpack a b c · (x.getLsbD 4))
    else none
  | 0x82 =>
    if x.extractLsb' 5 27 = 0#27 then
      (PackFmt.ofCode (x.extractLsb' 0 4)).map (.vunpk a b c · (x.getLsbD 4))
    else none
  | 0x90 => some (.vshfl a b c)
  | 0x91 =>
    if x.extractLsb' 12 20 = 0#20 then
      (ShflKind.ofCode (x.extractLsb' 0 3)).map fun k =>
        .vshflx k (x.getLsbD 11) (x.extractLsb' 8 3) (x.extractLsb' 3 5) a b c
    else none
  | 0x92 =>
    if z c && x.extractLsb' 8 24 == 0#24 then
      (RedOp.ofCode (x.extractLsb' 0 4)).map fun o => .vred o (x.extractLsb' 4 3) (x.getLsbD 7) a b
    else none
  | 0x93 =>
    if z c && x.extractLsb' 8 24 == 0#24 then
      (RedOp.ofCode (x.extractLsb' 0 4)).map fun o => .vscan o (x.extractLsb' 4 3) (x.getLsbD 7) a b
    else none
  | 0x94 => only (z c) (.vmatch a b)
  | 0x95 => only (z a) (.regrp b c)
  | _ => none

def decodeAtomu (c a b : BitVec 8) (x : Word) : Option Instr :=
  match c.toNat with
  | 0x00 => withMem x (.atomuAdd a b)
  | 0x01 => withMem x (.atomuFadd a b)
  | 0x02 => withMem x (.atomuMin a b)
  | 0x03 => withMem x (.atomuMax a b)
  | 0x04 => withMem x (.atomuAnd a b)
  | 0x05 => withMem x (.atomuOr a b)
  | 0x06 => withMem x (.atomuXor a b)
  | 0x08 => withMem x (.atomuAddRet a b)
  | 0x09 => withMem x (.atomuFaddRet a b)
  | 0x0A => withMem x (.atomuMinRet a b)
  | 0x0B => withMem x (.atomuMaxRet a b)
  | 0x0C => withMem x (.atomuAndRet a b)
  | 0x0D => withMem x (.atomuOrRet a b)
  | 0x0E => withMem x (.atomuXorRet a b)
  | _ => none

def decodeMemory (op : Nat) (w x : Word) : Option Instr :=
  let a := fieldA w; let b := fieldB w; let c := fieldC w
  match op with
  | 0xA0 => withMem x (.ld a b c)
  | 0xA1 => withMem x (.st a b c)
  | 0xA2 => withMem x (.ldu a b c)
  | 0xA3 => withMem x (.stu a b c)
  | 0xA4 => withMem x (.lds a b c)
  | 0xA5 => withMem x (.sts a b c)
  | 0xA6 =>
    match c.toNat with
    | 0 => (xField a).map (.xlat · b)
    | 1 => (xField a).map (.xlatW · b)
    | _ => none
  | 0xA7 => if z b && z c then (xField a).map .xinv else none
  | 0xA8 =>
    if z c && b.extractLsb' 3 5 == 0#5 then
      match a.toNat with
      | 1 => some (.fenceAcq (Scope.ofCode (b.extractLsb' 0 3)))
      | 2 => some (.fenceRel (Scope.ofCode (b.extractLsb' 0 3)))
      | 3 => some (.fenceFull (Scope.ofCode (b.extractLsb' 0 3)))
      | _ => none
    else none
  | 0xA9 =>
    only (z c && a.extractLsb' 3 5 == 0#5 && b.extractLsb' 3 5 == 0#5)
      (.fencex (a.extractLsb' 0 3) (b.extractLsb' 0 3))
  | 0xAA => decodeAtomu c a b x
  | 0xAB => if z c then withOrd x (.stag a b) else none
  | 0xAC => withOrd x (.stagset a b c)
  | 0xAD => if z a && z c then withOrd x (.staginv b) else none
  | 0xAE => only (z c) (.spresz a b)
  | 0xB0 => withMem x (.atomAdd a b c)
  | 0xB1 => withMem x (.atomFadd a b c)
  | 0xB2 => withMem x (.atomMin a b c)
  | 0xB3 => withMem x (.atomMax a b c)
  | 0xB4 => withMem x (.atomAnd a b c)
  | 0xB5 => withMem x (.atomOr a b c)
  | 0xB6 => withMem x (.atomXor a b c)
  | 0xB8 => withMem x (.atomAddRet a b c)
  | 0xB9 => withMem x (.atomFaddRet a b c)
  | 0xBA => withMem x (.atomMinRet a b c)
  | 0xBB => withMem x (.atomMaxRet a b c)
  | 0xBC => withMem x (.atomAndRet a b c)
  | 0xBD => withMem x (.atomOrRet a b c)
  | 0xBE => withMem x (.atomXorRet a b c)
  | 0xC0 => withMem x (.cadd a b c)
  | 0xC1 => withMem x (.cfadd a b c)
  | 0xC2 => withMem x (.cwait a b c)
  | 0xC3 => withMem x (.cread a b c)
  | 0xC4 => withMem x (.cpoll a b c)
  | 0xC5 => withMem x (.cinit a b c)
  | 0xC6 =>
    match a.toNat with
    | 1 => withMem x (.cbrkAband b c)
    | 2 => withMem x (.cbrkFault b c)
    | _ => none
  | 0xC7 => withMem x (.cwaitCont a b c)
  | _ => none

def decodeMatrix (op : Nat) (w x : Word) : Option Instr :=
  let a := fieldA w; let b := fieldB w; let c := fieldC w
  match op with
  | 0xC8 => withMem x (.tld a b c)
  | 0xC9 => withMem x (.tst a b c)
  | 0xCA => only (z b && z c) (.tzero a)
  | 0xCB =>
    only (z c && x.extractLsb' 10 22 == 0#22)
      (.tmovv a b (x.extractLsb' 0 7) (x.getLsbD 7) (x.extractLsb' 8 2))
  | 0xCC =>
    only (z c && x.extractLsb' 10 22 == 0#22)
      (.vmovt a b (x.extractLsb' 0 7) (x.getLsbD 7) (x.extractLsb' 8 2))
  | 0xCD =>
    only (x.extractLsb' 9 23 == 0#23)
      (.mma a b c (x.extractLsb' 0 6) (x.getLsbD 6) (x.getLsbD 7) (x.getLsbD 8))
  | 0xCE =>
    only (x.extractLsb' 17 15 == 0#15)
      (.mmas a b c (x.extractLsb' 0 6) (x.getLsbD 6) (x.getLsbD 7) (x.getLsbD 8)
        (x.extractLsb' 9 3) (x.extractLsb' 12 3) (x.extractLsb' 15 2))
  | 0xCF => only (z b && z c) (.mclose a)
  | 0xD0 => only (z a && z c) (.mwait b)
  | 0xD1 =>
    if x.extractLsb' 12 20 = 0#20 then
      (TcvtFmt.ofCode (x.extractLsb' 0 4)).map fun f =>
        .tcvt a b c f (x.getLsbD 4) (x.extractLsb' 5 3) (x.getLsbD 8)
          (TRnd.ofCode (x.extractLsb' 9 2)) (x.getLsbD 11)
    else none
  | 0xD2 =>
    only (x.extractLsb' 6 26 == 0#26) (.tprune a b c (x.extractLsb' 0 4) (x.extractLsb' 4 2))
  | 0xD3 => only (z c && x.extractLsb' 2 30 == 0#30) (.tredmx a b (x.getLsbD 0) (x.getLsbD 1))
  | 0xD4 => only (z c && x.extractLsb' 1 31 == 0#31) (.tredsm a b (x.getLsbD 0))
  | 0xD5 => only (z c && x.extractLsb' 2 30 == 0#30) (.tscl a b (x.getLsbD 0) (x.getLsbD 1))
  | _ => none

def decodeObject (op : Nat) (w x : Word) : Option Instr :=
  let a := fieldA w; let b := fieldB w; let c := fieldC w
  match op with
  | 0xE0 => if z c then withSlots x (.xcp a b) else none
  | 0xE1 => withSlots x (.xcpm a b c)
  | 0xE2 =>
    only (z c && x.extractLsb' 24 8 == 0#8) (.xgat a b (x.extractLsb' 12 12) (Slots.decode x))
  | 0xE3 => if z c then withSlots x (.xcoll a b) else none
  | 0xE4 =>
    match a.toNat with
    | 0 => withSlots x (.xtmplTmpl b c)
    | 1 => withSlots x (.xtmplGrp b c)
    | _ => none
  | 0xE8 =>
    if x.extractLsb' 14 18 = 0#18 then
      match (x.extractLsb' 12 2).toNat with
      | 0 => only (z c) (.crwave a b (Slots.decode x))
      | 1 => only (z c) (.crwaveProc a b (Slots.decode x))
      | 2 => some (.crwaveAttr a b c (Slots.decode x))
      | _ => none
    else none
  | 0xE9 => if z c then withSlots x (.crgrid a b) else none
  | 0xEA => withSlots x (.pnew a b c)
  | 0xEB => withSlots x (.psend a b c)
  | 0xEC =>
    match c.toNat with
    | 0 => withOrd x (.precv a b)
    | 1 => withOrd x (.precvTry a b)
    | _ => none
  | 0xED => if z b && z c then withSlots x (.wsnew a) else none
  | 0xEE =>
    if x.extractLsb' 17 15 = 0#15 then
      match (x.extractLsb' 15 2).toNat with
      | 0 => some (.wsset a b c (x.extractLsb' 12 3) (Slots.decode x))
      | 1 => some (.wssetPort a b c (x.extractLsb' 12 3) (Slots.decode x))
      | 2 => some (.wssetTimer a b c (x.extractLsb' 12 3) (Slots.decode x))
      | _ => none
    else none
  | 0xEF => if z c then withOrd x (.wswait a b) else none
  | 0xF0 => if z b && z c then withSlots x (.tmnew a) else none
  | 0xF1 => only (x.extractLsb' 13 19 == 0#19) (.tmarm a b c (x.getLsbD 12) (Slots.decode x))
  | 0xF2 => if z b && z c then withSlots x (.tmstop a) else none
  | 0xF3 =>
    if z c && x.extractLsb' 13 19 == 0#19 then
      if x.getLsbD 12 then some (.nmregDel a b (Slots.decode x)) else some (.nmreg a b (Slots.decode x))
    else none
  | 0xF4 => only (z c && x.extractLsb' 13 19 == 0#19) (.nmfind a b (x.getLsbD 12) (Slots.decode x))
  | 0xF5 => only (z a && z c) (.odel b)
  | _ => none

/-- The instruction of an assigned opcode, before the checks of `Instr.wf`. -/
def decodeFields (op : Nat) (w x : Word) : Option Instr :=
  if op < 0x10 then decodeControl op w x
  else if op < 0x30 then decodeUniform op w x
  else if op < 0x40 then decodeMask op w
  else if op < 0x70 then decodeVectorInt op w x
  else if op < 0xA0 then decodeVectorFloat op w x
  else if op < 0xC8 then decodeMemory op w x
  else if op < 0xE0 then decodeMatrix op w x
  else decodeObject op w x

/-- Why a word is no instruction: R195 row 4. Row 2 is the instruction `unassignedOpcode`. -/
inductive Reject
  /-- A reserved code, a non-zero unused field, or an extension word that breaks R191. -/
  | illRsvd
deriving DecidableEq, Repr

/-- Decodes a base word and, where the opcode has one, its second word (R195 rows 2 and 4). -/
def decode (w x : Word) : Except Reject Instr :=
  if assigned (opOf w) then
    match decodeFields (opOf w).toNat w x with
    | some i => if i.wf then .ok i else .error .illRsvd
    | none => .error .illRsvd
  else .ok (.unassignedOpcode w)

/-- A word from four bytes in little-endian order (R5). -/
def wordOfBytes (a b c d : Byte) : Word := d ++ (c ++ (b ++ a))

/-- Decodes from bytes in memory order and answers the bytes that follow (R179); no answer when the
bytes do not hold the whole instruction. -/
def decodeBytes : List Byte → Option (Except Reject Instr × List Byte)
  | a :: b :: c :: d :: rest =>
    let w := wordOfBytes a b c d
    if isLong (opOf w) then
      match rest with
      | e :: f :: g :: h :: rest' => some (decode w (wordOfBytes e f g h), rest')
      | _ => none
    else some (decode w 0#32, rest)
  | _ => none

/-- The `n` bytes of a number, least significant first. -/
def bytesOfNat : Nat → Nat → List Byte
  | 0, _ => []
  | n + 1, v => BitVec.ofNat 8 v :: bytesOfNat n (v / 256)

/-- The host's question: the instruction that the decoder reads from the bits `v`, the bits above
`nbits` being zero. -/
def decodeTableWord (nbits v : Nat) : Option Instr :=
  match decodeBytes (bytesOfNat 8 (v % 2 ^ nbits)) with
  | some (.ok i, _) => some i
  | _ => none

/-! ### Encoding -/

def encMem (op a b c : BitVec 8) (x : MemExt) : List Word := [base op a b c, x.encode]
def encOrd (op a b c : BitVec 8) (x : OrdExt) : List Word := [base op a b c, x.encode]
def encSlots (op a b c : BitVec 8) (x : Slots) : List Word := [base op a b c, 0#20 ++ x.encode]

/-- The words of an instruction (R179 to R192 and the instruction descriptions); events have none. -/
def encode : Instr → List Word
  | .nop => [base 0x00#8 0#8 0#8 0#8]
  | .br o => [baseWB 0x01#8 o]
  | .bcc cd lit => [base 0x02#8 cd.toCode 0#8 0#8, lit]
  | .bmz o => [baseWB 0x03#8 o]
  | .bmnz o => [baseWB 0x04#8 o]
  | .bmall o => [baseWB 0x05#8 o]
  | .call o => [baseWB 0x06#8 o]
  | .ret => [base 0x07#8 0#8 0#8 0#8]
  | .jmpr b => [base 0x08#8 0#8 b 0#8]
  | .jmprLink a b => [base 0x08#8 a b 1#8]
  | .exit => [base 0x09#8 0#8 0#8 0#8]
  | .yield => [base 0x0A#8 0#8 0#8 0#8]
  | .sadd a b c => [base 0x10#8 a b c]
  | .ssub a b c => [base 0x11#8 a b c]
  | .smul a b c => [base 0x12#8 a b c]
  | .smulh a b c => [base 0x13#8 a b c]
  | .sand a b c => [base 0x14#8 a b c]
  | .sor a b c => [base 0x15#8 a b c]
  | .sxor a b c => [base 0x16#8 a b c]
  | .sshl a b c => [base 0x17#8 a b c]
  | .sshr a b c => [base 0x18#8 a b c]
  | .ssra a b c => [base 0x19#8 a b c]
  | .smin a b c => [base 0x1A#8 a b c]
  | .smax a b c => [base 0x1B#8 a b c]
  | .scmp b c => [base 0x1C#8 0#8 b c]
  | .smov a b => [base 0x1D#8 a b 0#8]
  | .sli a lit => [base 0x1E#8 a 0#8 0#8, lit]
  | .sliZ a lit => [base 0x1E#8 a 0#8 1#8, lit]
  | .sliHi a lit => [base 0x1E#8 a 0#8 2#8, lit]
  | .ssel a b c => [base 0x1F#8 a b c]
  | .sclz a b => [base 0x20#8 a b 0#8]
  | .spopc a b => [base 0x21#8 a b 0#8]
  | .setm lit => [base 0x22#8 0#8 0#8 0#8, lit]
  | .setmSrc b => [base 0x22#8 0#8 b 1#8, 0#32]
  | .setmPart m lit => [base 0x22#8 0#8 (0#2 ++ m) 2#8, lit]
  | .setmCc b => [base 0x22#8 0#8 b 3#8, 0#32]
  | .getm a => [base 0x23#8 a 0#8 0#8]
  | .getmCc a => [base 0x23#8 a 1#8 0#8]
  | .sysrd a i => [base 0x24#8 a i 0#8]
  | .syswr i b => [base 0x25#8 i b 0#8]
  | .syswrUictl b => [base 0x25#8 0x21#8 b 0#8]
  | .syswrResinj b => [base 0x25#8 0x30#8 b 0#8]
  | .kand a b c => [base 0x30#8 a b c]
  | .kor a b c => [base 0x31#8 a b c]
  | .kxor a b c => [base 0x32#8 a b c]
  | .knot a b => [base 0x33#8 a b 0#8]
  | .kmov a b => [base 0x34#8 a b 0#8]
  | .kpop a b => [base 0x35#8 a b 0#8]
  | .kfirst a b => [base 0x36#8 a b 0#8]
  | .svc k b c => [base 0x37#8 k b c]
  | .bkpt c => [base 0x38#8 0#8 0#8 c]
  | .uiret => [base 0x39#8 0#8 0#8 0#8]
  | .whalt b => [base 0x3A#8 0#8 b 0#8]
  | .whaltRes b => [base 0x3A#8 0#8 b 1#8]
  | .vadd a b c => [base 0x40#8 a b c]
  | .vsub a b c => [base 0x41#8 a b c]
  | .vmul a b c => [base 0x42#8 a b c]
  | .vmulh a b c => [base 0x43#8 a b c]
  | .vand a b c => [base 0x44#8 a b c]
  | .vor a b c => [base 0x45#8 a b c]
  | .vxor a b c => [base 0x46#8 a b c]
  | .vshl a b c => [base 0x47#8 a b c]
  | .vshr a b c => [base 0x48#8 a b c]
  | .vmin a b c => [base 0x49#8 a b c]
  | .vmax a b c => [base 0x4A#8 a b c]
  | .vaddLit a b l => [base 0x50#8 a b 0#8, l]
  | .vsubLit a b l => [base 0x51#8 a b 0#8, l]
  | .vmulLit a b l => [base 0x52#8 a b 0#8, l]
  | .vmulhLit a b l => [base 0x53#8 a b 0#8, l]
  | .vandLit a b l => [base 0x54#8 a b 0#8, l]
  | .vorLit a b l => [base 0x55#8 a b 0#8, l]
  | .vxorLit a b l => [base 0x56#8 a b 0#8, l]
  | .vshlLit a b l => [base 0x57#8 a b 0#8, l]
  | .vshrLit a b l => [base 0x58#8 a b 0#8, l]
  | .vminLit a b l => [base 0x59#8 a b 0#8, l]
  | .vmaxLit a b l => [base 0x5A#8 a b 0#8, l]
  | .vmad a b c e => [base 0x60#8 a b c, 0#24 ++ e]
  | .vabs a b => [base 0x61#8 a b 0#8]
  | .vneg a b => [base 0x62#8 a b 0#8]
  | .vcmp cd k b c => [base 0x63#8 (kCode k) b c, 0#29 ++ cd.toCode]
  | .vsel a b c k => [base 0x64#8 a b c, 0#29 ++ k]
  | .vmov a b => [base 0x65#8 a b 0#8]
  | .vbcast a b => [base 0x66#8 a b 0#8]
  | .vclz a b => [base 0x67#8 a b 0#8]
  | .vpopc a b => [base 0x68#8 a b 0#8]
  | .vbrev a b => [base 0x69#8 a b 0#8]
  | .vbfe a b pos len => [base 0x6A#8 a b 0#8, 0#19 ++ (len ++ pos)]
  | .vbfi a b c pos len => [base 0x6B#8 a b c, 0#19 ++ (len ++ pos)]
  | .vmovLit a l => [base 0x6C#8 a 0#8 0#8, l]
  | .vfadd a b c => [base 0x70#8 a b c]
  | .vfsub a b c => [base 0x71#8 a b c]
  | .vfmul a b c => [base 0x72#8 a b c]
  | .vfma np na a b c e => [base 0x73#8 a b c, 0#22 ++ (bit na ++ (bit np ++ e))]
  | .vfmin a b c => [base 0x74#8 a b c]
  | .vfmax a b c => [base 0x75#8 a b c]
  | .vfdiv a b c => [base 0x76#8 a b c]
  | .vfsqrt a b => [base 0x77#8 a b 0#8]
  | .vfrcp a b => [base 0x78#8 a b 0#8]
  | .vfrsq a b => [base 0x79#8 a b 0#8]
  | .vfexp2 a b => [base 0x7A#8 a b 0#8]
  | .vflog2 a b => [base 0x7B#8 a b 0#8]
  | .vfcmp cd k b c => [base 0x7C#8 (kCode k) b c, 0#28 ++ cd.toCode]
  | .vfclass a b => [base 0x7D#8 a b 0#8]
  | .vfrnd a b => [base 0x7E#8 a b 0#8]
  | .vfscale a b c => [base 0x7F#8 a b c]
  | .vcvt a b t => [base 0x80#8 a b 0#8, 0#27 ++ t.toCode]
  | .vpack a b c f sc => [base 0x81#8 a b c, 0#27 ++ (bit sc ++ f.toCode)]
  | .vunpk a b c f sc => [base 0x82#8 a b c, 0#27 ++ (bit sc ++ f.toCode)]
  | .vshfl a b c => [base 0x90#8 a b c]
  | .vshflx k zf w d a b c => [base 0x91#8 a b c, 0#20 ++ (bit zf ++ (w ++ (d ++ k.toCode)))]
  | .vred o w u a b => [base 0x92#8 a b 0#8, 0#24 ++ (bit u ++ (w ++ o.toCode))]
  | .vscan o w e a b => [base 0x93#8 a b 0#8, 0#24 ++ (bit e ++ (w ++ o.toCode))]
  | .vmatch a b => [base 0x94#8 a b 0#8]
  | .regrp b c => [base 0x95#8 0#8 b c]
  | .ld a b c x => encMem 0xA0#8 a b c x
  | .st a b c x => encMem 0xA1#8 a b c x
  | .ldu a b c x => encMem 0xA2#8 a b c x
  | .stu a b c x => encMem 0xA3#8 a b c x
  | .lds a b c x => encMem 0xA4#8 a b c x
  | .sts a b c x => encMem 0xA5#8 a b c x
  | .xlat xr b => [base 0xA6#8 (xCode xr) b 0#8]
  | .xlatW xr b => [base 0xA6#8 (xCode xr) b 1#8]
  | .xinv xr => [base 0xA7#8 (xCode xr) 0#8 0#8]
  | .fenceAcq sc => [base 0xA8#8 1#8 (0#5 ++ sc.toCode) 0#8]
  | .fenceRel sc => [base 0xA8#8 2#8 (0#5 ++ sc.toCode) 0#8]
  | .fenceFull sc => [base 0xA8#8 3#8 (0#5 ++ sc.toCode) 0#8]
  | .fencex p c => [base 0xA9#8 (0#5 ++ p) (0#5 ++ c) 0#8]
  | .atomuAdd a b x => encMem 0xAA#8 a b 0x00#8 x
  | .atomuFadd a b x => encMem 0xAA#8 a b 0x01#8 x
  | .atomuMin a b x => encMem 0xAA#8 a b 0x02#8 x
  | .atomuMax a b x => encMem 0xAA#8 a b 0x03#8 x
  | .atomuAnd a b x => encMem 0xAA#8 a b 0x04#8 x
  | .atomuOr a b x => encMem 0xAA#8 a b 0x05#8 x
  | .atomuXor a b x => encMem 0xAA#8 a b 0x06#8 x
  | .atomuAddRet a b x => encMem 0xAA#8 a b 0x08#8 x
  | .atomuFaddRet a b x => encMem 0xAA#8 a b 0x09#8 x
  | .atomuMinRet a b x => encMem 0xAA#8 a b 0x0A#8 x
  | .atomuMaxRet a b x => encMem 0xAA#8 a b 0x0B#8 x
  | .atomuAndRet a b x => encMem 0xAA#8 a b 0x0C#8 x
  | .atomuOrRet a b x => encMem 0xAA#8 a b 0x0D#8 x
  | .atomuXorRet a b x => encMem 0xAA#8 a b 0x0E#8 x
  | .stag a b x => encOrd 0xAB#8 a b 0#8 x
  | .stagset a b c x => encOrd 0xAC#8 a b c x
  | .staginv b x => encOrd 0xAD#8 0#8 b 0#8 x
  | .spresz a b => [base 0xAE#8 a b 0#8]
  | .atomAdd a b c x => encMem 0xB0#8 a b c x
  | .atomFadd a b c x => encMem 0xB1#8 a b c x
  | .atomMin a b c x => encMem 0xB2#8 a b c x
  | .atomMax a b c x => encMem 0xB3#8 a b c x
  | .atomAnd a b c x => encMem 0xB4#8 a b c x
  | .atomOr a b c x => encMem 0xB5#8 a b c x
  | .atomXor a b c x => encMem 0xB6#8 a b c x
  | .atomAddRet a b c x => encMem 0xB8#8 a b c x
  | .atomFaddRet a b c x => encMem 0xB9#8 a b c x
  | .atomMinRet a b c x => encMem 0xBA#8 a b c x
  | .atomMaxRet a b c x => encMem 0xBB#8 a b c x
  | .atomAndRet a b c x => encMem 0xBC#8 a b c x
  | .atomOrRet a b c x => encMem 0xBD#8 a b c x
  | .atomXorRet a b c x => encMem 0xBE#8 a b c x
  | .cadd a b c x => encMem 0xC0#8 a b c x
  | .cfadd a b c x => encMem 0xC1#8 a b c x
  | .cwait a b c x => encMem 0xC2#8 a b c x
  | .cread a b c x => encMem 0xC3#8 a b c x
  | .cpoll a b c x => encMem 0xC4#8 a b c x
  | .cinit a b c x => encMem 0xC5#8 a b c x
  | .cbrkAband b c x => encMem 0xC6#8 1#8 b c x
  | .cbrkFault b c x => encMem 0xC6#8 2#8 b c x
  | .cwaitCont a b c x => encMem 0xC7#8 a b c x
  | .tld s b c x => encMem 0xC8#8 s b c x
  | .tst s b c x => encMem 0xC9#8 s b c x
  | .tzero s => [base 0xCA#8 s 0#8 0#8]
  | .tmovv a b i col n => [base 0xCB#8 a b 0#8, 0#22 ++ (n ++ (bit col ++ i))]
  | .vmovt a b i col n => [base 0xCC#8 a b 0#8, 0#22 ++ (n ++ (bit col ++ i))]
  | .mma a b c fb ta tb ovw => [base 0xCD#8 a b c, 0#23 ++ (bit ovw ++ (bit tb ++ (bit ta ++ fb)))]
  | .mmas a b c fb ta tb ovw mp mt mq =>
      [base 0xCE#8 a b c,
       0#15 ++ (mq ++ (mt ++ (mp ++ (bit ovw ++ (bit tb ++ (bit ta ++ fb))))))]
  | .mclose a => [base 0xCF#8 a 0#8 0#8]
  | .mwait b => [base 0xD0#8 0#8 b 0#8]
  | .tcvt a b c f sc p sat rnd isrc =>
      [base 0xD1#8 a b c,
       0#20 ++ (bit isrc ++ (rnd.toCode ++ (bit sat ++ (p ++ (bit sc ++ f.toCode)))))]
  | .tprune a b c f mq => [base 0xD2#8 a b c, 0#26 ++ (mq ++ f)]
  | .tredmx a b b32 abs => [base 0xD3#8 a b 0#8, 0#30 ++ (bit abs ++ bit b32)]
  | .tredsm a b b32 => [base 0xD4#8 a b 0#8, 0#31 ++ bit b32]
  | .tscl a b col add => [base 0xD5#8 a b 0#8, 0#30 ++ (bit add ++ bit col)]
  | .xcp p t x => encSlots 0xE0#8 p t 0#8 x
  | .xcpm p t g x => encSlots 0xE1#8 p t g x
  | .xgat p v r x => [base 0xE2#8 p v 0#8, 0#8 ++ (r ++ x.encode)]
  | .xcoll p d x => encSlots 0xE3#8 p d 0#8 x
  | .xtmplTmpl i c x => encSlots 0xE4#8 0#8 i c x
  | .xtmplGrp i c x => encSlots 0xE4#8 1#8 i c x
  | .crwave a b x => [base 0xE8#8 a b 0#8, 0#18 ++ (0#2 ++ x.encode)]
  | .crwaveProc a b x => [base 0xE8#8 a b 0#8, 0#18 ++ (1#2 ++ x.encode)]
  | .crwaveAttr a b c x => [base 0xE8#8 a b c, 0#18 ++ (2#2 ++ x.encode)]
  | .crgrid a b x => encSlots 0xE9#8 a b 0#8 x
  | .pnew a b c x => encSlots 0xEA#8 a b c x
  | .psend a b c x => encSlots 0xEB#8 a b c x
  | .precv a b x => encOrd 0xEC#8 a b 0#8 x
  | .precvTry a b x => encOrd 0xEC#8 a b 1#8 x
  | .wsnew a x => encSlots 0xED#8 a 0#8 0#8 x
  | .wsset a b c m x => [base 0xEE#8 a b c, 0#15 ++ (0#2 ++ (m ++ x.encode))]
  | .wssetPort a b c m x => [base 0xEE#8 a b c, 0#15 ++ (1#2 ++ (m ++ x.encode))]
  | .wssetTimer a b c m x => [base 0xEE#8 a b c, 0#15 ++ (2#2 ++ (m ++ x.encode))]
  | .wswait a b x => encOrd 0xEF#8 a b 0#8 x
  | .tmnew a x => encSlots 0xF0#8 a 0#8 0#8 x
  | .tmarm a b c after x => [base 0xF1#8 a b c, 0#19 ++ (bit after ++ x.encode)]
  | .tmstop a x => encSlots 0xF2#8 a 0#8 0#8 x
  | .nmreg a b x => [base 0xF3#8 a b 0#8, 0#19 ++ (0#1 ++ x.encode)]
  | .nmregDel a b x => [base 0xF3#8 a b 0#8, 0#19 ++ (1#1 ++ x.encode)]
  | .nmfind a b inpkg x => [base 0xF4#8 a b 0#8, 0#19 ++ (bit inpkg ++ x.encode)]
  | .odel b => [base 0xF5#8 0#8 b 0#8]
  | .regrpWindowExpiry _ | .mmaComplete _ | .engineStart _ | .engineCompletion _ |
    .multicastMemberDelivery _ _ | .objectRequestReply _ _ | .accessCompletion _ _ |
    .downgradeCompletion _ | .homeCounterOperation _ _ | .homeReduction _ _ _ _ |
    .waiterWake _ _ _ | .uiCounterFire _ | .userInterruptEntry _ | .messageLanding _ |
    .journalCompletion _ _ | .grantMapping _ | .grantCopy _ | .waitSetEvaluation _ |
    .timerExpiry _ | .contextRefillDone _ | .hostWaiterFire _ _ _ _ _ | .kernelReplyRetry _ |
    .unassignedOpcode _ | .registerWrite _ _ _ | .leaseExpiry | .atsCompletion | .priResponse |
    .atsInvalidation | .codeCopyOnWrite | .downgradeMessage | .faultReply | .pendingFaultSend |
    .pendingBreakPerform | .svcBatchPendingWrite | .svcReply | .wavePlacement | .eviction |
    .preemption | .teamSave | .teamReload | .priorityAgeing | .rootPortLaunch | .teamPlacement |
    .pairComparison | .codeObjectLoad | .rowActivationAlert | .backoffWindowEnd |
    .periodicRefresh | .scrubWriteback | .patrolScrub | .aliasEntryWrite | .apertureAdd |
    .apertureRead | .apertureWindowEnable | .apertureWindowDisable | .hostWaiterArm |
    .hostWaiterDisarm | .hostWaiterFiredClear | .hostHdmWrite | .hostHdmRead |
    .commandWindowWrite | .hostLinkDown | .functionLevelReset | .oczerLinkFailure |
    .d3PathTimeout | .mediaDecode | .mediaEncode | .mediaReset | .mediaRowReport |
    .mediaRelcWake | .mediaJobComplete | .readinessReport | .slackMonitor | .clusterRetirement |
    .fieldTestResult | .firmwareImageUpdate | .spdmGetVersion | .spdmGetCapabilities |
    .spdmNegotiateAlgorithms | .spdmGetDigests | .spdmGetCertificate | .spdmChallenge |
    .spdmGetMeasurements | .spdmKeyExchange | .spdmFinish | .powerCapWrite | .thermalTrip |
    .deviceReset | .hostLinkUp | .oczerLinkRecovery | .ethernetLinkFailure |
    .retransmissionTimerExpiry | .peerDomainAccess => []

/-- The words of an instruction as the decoder takes them: the second word is 0 where there is none. -/
def encodePair (i : Instr) : Option (Word × Word) :=
  match encode i with
  | [w] => some (w, 0#32)
  | [w, x] => some (w, x)
  | _ => none

end Sys2Proof
end

