-- ==== Sys2Proof/Machine/Sparse.lean ====
section
/-! DEFINITION. Finite maps from natural numbers in one canonical form: keys strictly rising, and no entry that
holds what an unlisted key reads as. Memory, register files and tables are such maps. -/

namespace Sys2Proof.Machine

/-- A map from natural numbers, written out as its entries. -/
abbrev Sparse (α : Type) := List (Nat × α)

namespace Sparse

variable {α : Type}

/-- The value at a key, `d` where none is listed. -/
def get (d : α) : Sparse α → Nat → α
  | [], _ => d
  | (a, v) :: t, k => if a = k then v else get d t k

/-- The map without a key. -/
def erase : Sparse α → Nat → Sparse α
  | [], _ => []
  | (a, v) :: t, k => if a = k then erase t k else (a, v) :: erase t k

/-- An entry put before the first larger key. -/
def insert : Sparse α → Nat → α → Sparse α
  | [], k, v => [(k, v)]
  | (a, w) :: t, k, v => if k < a then (k, v) :: (a, w) :: t else (a, w) :: insert t k v

/-- The map with a key set; the value `d` leaves no entry. -/
def put [DecidableEq α] (d : α) (m : Sparse α) (k : Nat) (v : α) : Sparse α :=
  if v = d then erase m k else insert (erase m k) k v

/-- The map with every key from `lo` up to below `hi` reading `d` again. -/
def clear : Sparse α → Nat → Nat → Sparse α
  | [], _, _ => []
  | (a, v) :: t, lo, hi =>
    if lo ≤ a ∧ a < hi then clear t lo hi else (a, v) :: clear t lo hi

/-- Every key is larger than `lo`, keys rise, and no entry holds `d`. -/
def wfFrom [DecidableEq α] (d : α) : Nat → Sparse α → Bool
  | _, [] => true
  | lo, (a, v) :: t => decide (lo ≤ a) && !decide (v = d) && wfFrom d (a + 1) t

/-- The canonical form. -/
def wf [DecidableEq α] (d : α) (m : Sparse α) : Bool := wfFrom d 0 m

/-- The map with consecutive keys set. -/
def putList [DecidableEq α] (d : α) (m : Sparse α) (k : Nat) : List α → Sparse α
  | [] => m
  | v :: t => putList d (put d m k v) (k + 1) t

/-- The values at `n` consecutive keys. -/
def getList (d : α) (m : Sparse α) (k : Nat) : Nat → List α
  | 0 => []
  | n + 1 => get d m k :: getList d m (k + 1) n

end Sparse

end Sys2Proof.Machine
end

