-- ==== Sys2Proof/Machine/State.lean ====
section
/-! DEFINITION. The state of the machine: plain data, everything the manual gives the GX9, and the state after
reset. INVENTORY.md lists every field with its rule and its reset value. -/

namespace Sys2Proof.Machine

/-- A value for each die of the package. -/
structure Two (α : Type) where
  c0 : α
  c1 : α
deriving DecidableEq, Repr

/-- The states of a wave (R140). -/
inductive WaveState | created | runnable | resident | waiting | parked | retired
deriving DecidableEq, Repr

/-- The causes of R37; `spbound` (R45); `quota`, of a write whose copy of code would exceed a quota, which traps (R153,
R209); and two of a host page that end an access in other ways (R26): `hostmiss`, whose ATS answer is out, and
`hostpending`, whose page request is out. -/
inductive Cause
  | notpresent | noncanon | malformed | hostrefused | peerrefused | perm | privilege | mxwrite
  | spbound | quota | hostpending | hostmiss
deriving DecidableEq, Repr

/-- An entry of a page-fault message before pages are joined (R358): lane or row, address, cause. -/
structure FaultAt where
  pos : Nat
  addr : DWord
  cause : Cause
deriving DecidableEq, Repr

/-- What a waiting or parked wave awaits (R140). -/
inductive Await
  /-- nothing -/
  | nothing
  /-- a counter: home cell, threshold, destination register, and whether it acquires beyond the core (R278) -/
  | counter (key : Nat) (thr : DWord) (dst : BitVec 8) (acq : Bool)
  /-- a counter, with a continuation PC (R279) -/
  | cont (key : Nat) (thr : DWord) (dst : BitVec 8) (acq : Bool) (npc : DWord)
  /-- a matrix batch (R301) -/
  | batch (n : DWord)
  /-- a message of a port, and the wave's place in the order of those that wait for one (R163, R331) -/
  | message (port : Handle) (dst : BitVec 8) (acq : Bool) (seq : Nat)
  /-- a wait set (R334) -/
  | waitSet (set : Handle) (dst : BitVec 8) (acq : Bool)
  /-- a partner at REGRP: the migration mask and the clock at which the window ends (R147) -/
  | partner (mask : Word) (ends : Nat)
  /-- the reply to a page fault (R36) -/
  | faultReply
  /-- the reply to a trap, with the default resume PC (R355) -/
  | trapReply (npc : DWord)
  /-- the reply to MC_ECC (R356) -/
  | eccReply
  /-- the answer to an ATS request for a virtual page, with the instruction not yet performed, and whether the access
  writes (R26) -/
  | ats (die page : Nat) (writes : Bool)
  /-- a PRI page response for a virtual page, and the place of its request among those of the die (R26, R402) -/
  | pri (die page seq : Nat)
  /-- the reply to an SVC: result registers and the mask of the call (R228) -/
  | svcReply (vres : BitVec 8) (act : Word)
  /-- the other side of a redundant pair (R376) -/
  | pairPoint
deriving DecidableEq, Repr

/-- How the instruction at the PC of a parked wave is unfinished (R36, R40, R263). -/
inductive Unfinished | no | lanes | uniform | fetch
deriving DecidableEq, Repr

/-- Kinds of comparison point (R376, R377): at the end of a block; before an operation that both sides make; before
one that side 0 makes alone. -/
inductive PairPoint | block | each | once
deriving DecidableEq, Repr

/-- An access that may be made: its lane and address, its home, and what the page says of it. -/
structure Hit where
  pos : Nat
  va : DWord
  key : Nat
  type : Nat
  target : Nat
  attr : Nat
  /-- the package of a peer's frame -/
  pkg : Nat := 0
  /-- a counter reference, not yet resolved -/
  ref : Bool := false
deriving DecidableEq, Repr

/-- How an access stands that has been checked while the host answers about another: it may be made, or is sent on first, or
is unfinished (R26, R28). -/
inductive Asked
  | may (h : Hit)
  | no (f : FaultAt)
deriving DecidableEq, Repr

/-- A write held in a pair buffer: its place, its bytes, which of its instruction's records is its own, and the sectors that
its instruction covers whole and that it is the last to write (R65, R377). -/
structure Held where
  key : Nat
  bytes : List Byte
  pos : Nat
  whole : List Nat
deriving DecidableEq, Repr

/-- One side of a redundant pair (R375 to R377). -/
structure PairSide where
  side1 : Bool
  partner : Handle
  /-- the signature of the records so far, their number, and the signatures of whole blocks not yet compared -/
  sig : DWord
  recs : Nat
  sigs : List DWord
  /-- writes held in the pair buffer, oldest first; how many of them completed instructions made, and how many belong to
  the blocks that are being compared -/
  held : List Held
  ended : Nat
  cut : Nat
  /-- lanes of an operation that happens once which have translated, while others of its lanes are unfinished -/
  pend : List Hit
  /-- the side stands at a comparison point -/
  atPoint : Bool
  /-- the kind of comparison point at which the side stands, with the PC and opcode of its instruction -/
  point : PairPoint
  ppc : DWord
  pop : Nat
  /-- the comparison was equal: the pending operation may go ahead -/
  go : Bool
deriving DecidableEq, Repr

/-- A wave's context (R131, R171). -/
structure Wave where
  hdl : Handle
  proc : Handle
  team : Nat
  widx : Nat
  consumer : Bool
  priv : Bool
  vblk : Nat
  ntiles : Nat
  basePri : Nat
  curPri : Nat
  codever : Handle
  xctr : DWord
  pc : DWord
  mode : Word
  cc : BitVec 6
  s : Sparse DWord
  k : Sparse Word
  x : Sparse (BitVec 256)
  /-- vector registers: key 32 * register + lane -/
  v : Sparse Word
  /-- tiles: key 65,536 * tile + byte -/
  tile : Sparse Byte
  /-- thread ids by position (R132) -/
  tid : Sparse Word
  /-- slots in flight (R105) -/
  slots : BitVec 8
  nb : DWord
  mb : DWord
  /-- the open set of MMAs (R300) -/
  openSet : List Nat
  /-- closed batches not yet complete: number and MMAs (R300) -/
  batches : List (DWord × List Nat)
  uivec : DWord
  uiepc : DWord
  uisave : DWord
  uictr : DWord
  uithr : DWord
  uiArmed : Bool
  uiAct : Bool
  uiPend : Bool
  uiEn : Bool
  st : WaveState
  await : Await
  halted : Bool
  /-- in its slot, while its context is being read back (R174) -/
  refilling : Bool
  /-- the awaited event has come (R143, R232) -/
  due : Bool
  unf : Word
  unfKind : Unfinished
  /-- the accesses of the instruction at the PC, checked already, while the host answers about a page of theirs (R26,
  R28) -/
  asked : List Asked
  /-- what the host has answered about the fetch at an address (R26, R40) -/
  told : Option (DWord × Cause)
  /-- flags B and F gathered at first issue (R281) -/
  gathB : Bool
  gathF : Bool
  die : Nat
  cluster : Nat
  core : Nat
  part : Nat
  slot : Nat
  stampA : Nat
  stampB : Nat
  runA : Nat
  runB : Nat
  /-- clock at which the wave entered its state (R172, R173) -/
  since : Nat
  /-- clock up to which its memory-stall time has been counted (R346) -/
  stallAt : Nat
  pair : Option PairSide
  /-- key of its context image in the object pool of its home die (R151, R171) -/
  ctx : Nat
deriving DecidableEq, Repr

/-- A team (R131). -/
structure Team where
  uid : Nat
  grid : Nat
  proc : Handle
  ix : Nat
  iy : Nat
  iz : Nat
  nwaves : Nat
  wave0 : Handle
  die : Nat
  /-- 8 * cluster + core -/
  core : Nat
  unit0 : Nat
  units : Nat
  tag0 : Nat
  tags : Nat
  cset : List DWord
  /-- the scratchpad is in its saved image (R86) -/
  saved : Bool
  /-- clock at which the team was placed or saved -/
  placedAt : Nat
  /-- matrix-busy and memory-stall aclk of this residency (R346) -/
  busy : Nat
  stall : Nat
  side1 : Bool
  twin : Nat
deriving DecidableEq, Repr

/-- A grid (R131, R327). -/
structure Grid where
  uid : Nat
  proc : Handle
  die : Nat
  gx : Nat
  gy : Nat
  gz : Nat
  curve : Nat
  codever : Handle
  kernel : KernelNote
  priv : Bool
  args : DWord
  doneCtr : DWord
  cset : List DWord
  templates : List (Nat × Template)
  groups : List (Nat × List Member)
  /-- clock from which its teams may be placed (R210) -/
  arrival : Nat
  /-- clock at which its next team became the next to place -/
  since : Nat
  /-- teams placed so far, and the code or index of the launch order from which the next one is sought (R342) -/
  placed : Nat
  code : Nat
  ended : Nat
  lastCore : Option Nat
  /-- launch sequence number of the die (R426), 0 before the first team is placed -/
  seq : Nat
  measured : Nat
  busy : Nat
  stall : Nat
  cls : Nat
  /-- an in-field test (R429) -/
  test : Bool
deriving DecidableEq, Repr

/-- A process object (R156). -/
structure Proc where
  hdl : Handle
  ptroot : DWord
  dlease : Nat
  fport : Handle
  ocbase : DWord
  flist : DWord
  quota : List Nat
  parent : Handle
  ckey : Word
  /-- the frames on the free-frame list at `flist` -/
  frames : List Nat
  /-- frames of the object counter area: page number and physical address (R157) -/
  ocFrames : List (Nat × Nat)
deriving DecidableEq, Repr

/-- Who serves a port (R436). -/
inductive PortRole | plain | root | downgrade | service | ring | media (e : Nat)
deriving DecidableEq, Repr

/-- A page granted by a message (R164): its address and leaf in the sending process, the latest lease on it, the address
of the receiver's slot once it is mapped, and whether its move or copy has been made. -/
structure Grant where
  va : DWord
  sproc : Handle
  pte : DWord
  horizon : Nat
  dst : DWord
  done : Bool
deriving DecidableEq, Repr

/-- A message that has landed and has not been taken; of a wave of this package also its process and its privilege. -/
structure Landed where
  slot : Nat
  seq : Option Nat
  sender : Handle
  cls : Nat
  grants : List Grant
  sproc : Handle
  spriv : Bool
deriving DecidableEq, Repr

/-- A port (R158). -/
structure Port where
  hdl : Handle
  proc : Handle
  dlog : Nat
  opn : Nat
  gwin : DWord
  gslots : Nat
  role : PortRole
  /-- command-window unit, 0 for none (R406) -/
  cwUnit : Nat
  /-- memory key of ring slot 0 -/
  ring : Nat
  /-- admitted messages not yet landed -/
  held : Nat
  msgs : List Landed
  /-- grant-window slots in use or reserved -/
  slotsUsed : List Nat
  /-- broken by a host overflow (R178) -/
  broken : Bool
  /-- frames held free for grants from other packages (R164) -/
  credited : List Nat
deriving DecidableEq, Repr

/-- A live member of a wait set (R167). -/
structure SetMember where
  key : Nat
  thr : DWord
  obj : Handle
deriving DecidableEq, Repr

/-- A wait set (R167). -/
structure WaitSet where
  hdl : Handle
  proc : Handle
  members : List (Nat × SetMember)
  waiter : Handle
  /-- the members registered by the WSWAIT that waits -/
  reg : List (Nat × SetMember)
  /-- members found broken by a deletion (R176) -/
  gone : List Nat
deriving DecidableEq, Repr

/-- A timer (R169). -/
structure Timer where
  hdl : Handle
  proc : Handle
  armed : Bool
  deadline : DWord
  period : DWord
deriving DecidableEq, Repr

/-- A code version (R170, R208). -/
structure CodeVer where
  hdl : Handle
  proc : Handle
  base : DWord
  frames : List Nat
  stepping : Nat
  kernels : List KernelNote
  templates : List (Nat × Template)
  groups : List (Nat × List Member)
  symbols : List SymDef
  writable : Bool
  sealed : Bool
  current : Bool
  withdrawn : Bool
  /-- the clock at which the last write lease on the frames of a sealed version has ended, and whether their lines have
  drained since (R210) -/
  ready : Nat
  drained : Bool
  /-- the frames copied for an open version, which may be written until it is sealed (R209, R210) -/
  own : List Nat
deriving DecidableEq, Repr

/-- Which TLB of a die holds a copy: the die's, that of a cluster, or that of a core, in the numbers of the package
(R25). -/
inductive TlbAt
  | die
  | cluster (n : Nat)
  | core (n : Nat)
deriving DecidableEq, Repr

/-- A cached translation of a die (R25, R27). -/
structure TlbEntry where
  die : Nat
  proc : Handle
  base : Nat
  size : Nat
  pte : DWord
  r : Bool
  w : Bool
  expiry : Nat
  held : TlbAt
deriving DecidableEq, Repr

/-- An entry of a device translation cache (R26). -/
structure AtcEntry where
  die : Nat
  proc : Handle
  page : Nat
  r : Bool
  w : Bool
  expiry : Nat
deriving DecidableEq, Repr

/-- Who is woken by a waiter (R80). -/
inductive Party
  | wave (h : Handle)
  | member (set : Handle)
  | host (die n : Nat)
  | ui (h : Handle)
  | journal (die seq : Nat)
  | media (e : Nat)
deriving DecidableEq, Repr

/-- A registered waiter (R80). -/
structure Waiter where
  key : Nat
  thr : DWord
  party : Party
deriving DecidableEq, Repr

/-- A sector that a core's L1 holds (R52, R109, R367): its bytes, which of them are valid and which have been written,
the store that wrote it last, whether it holds an error that cannot be corrected, and whether its line is the next
victim (R53). -/
structure L1Sector where
  core : Nat
  sector : Nat
  data : List Byte
  valid : Word
  written : Word
  hdl : Handle
  proc : Handle
  pc : DWord
  bad : Bool
  next : Bool := false
deriving DecidableEq, Repr

/-- An entry of a cluster's run queue (R172). -/
structure Queued where
  die : Nat
  cluster : Nat
  wave : Handle
  prio : Nat
  /-- clock at which it entered this list -/
  since : Nat
  /-- clock at which it came to stand at the head of its list (R173) -/
  head : Option Nat
  /-- it stands in the overflow chain of its priority (R172) -/
  spilled : Bool
deriving DecidableEq, Repr

/-- An admitted message that has not landed (R163). -/
structure Flight where
  uid : Nat
  port : Handle
  /-- package of the port's home, for D2 and D3 -/
  pkg : Nat
  bytes : List Byte
  cls : Nat
  sent : Nat
  sender : Handle
  senderDie : Nat
  sproc : Handle
  spriv : Bool
  /-- the process of a port of this package, as it was at the admission -/
  rproc : Handle
  grants : List Grant
deriving DecidableEq, Repr

/-- A message that a port could not take (R38, R177, R228): the HKU keeps it pending. -/
structure Pending where
  die : Nat
  port : Handle
  /-- the port named by a reply, 0 where `port` is a handle -/
  name : DWord
  slots : List (List Byte)
  wave : Handle
  uid : Nat := 0
deriving DecidableEq, Repr

/-- A counter break that waits for a domain path (R91). -/
structure PendBreak where
  proc : Handle
  key : Nat
  pkg : Nat
  st : CtrStatus
deriving DecidableEq, Repr

/-- A downgrade under way (R31). -/
structure Downgrade where
  uid : Nat
  proc : Handle
  va : Nat
  len : Nat
  key : Nat
  delta : DWord
  horizon : Nat
  reply : DWord
  /-- bytes 8 to 12 of the request: its sender and tag (R177) -/
  sender : Handle
  tag : Byte
  die : Nat
deriving DecidableEq, Repr

/-- The latest lease expiry recorded for pages of a process: whether they are grant-pool pages, and the first host page
that they name (R31, R33). -/
structure Horizon where
  proc : Handle
  page : Nat
  pages : Nat
  expiry : Nat
  grant : Bool
  host : Option Nat
deriving DecidableEq, Repr

/-- An MMA or MMAS that has issued, with what it read at issue (R293, R295, R299). -/
structure Mma where
  uid : Nat
  wave : Handle
  /-- die, cluster, core and partition in one number -/
  array : Nat
  pc : DWord
  op : Nat
  /-- the tile of D, and the operands A and B (R186) -/
  d : Nat
  a : BitVec 8
  b : BitVec 8
  fmta : Nat
  fmtb : Nat
  blka : Nat
  blkb : Nat
  isat : Bool
  ta : Bool
  tb : Bool
  ovw : Bool
  sparse : Bool
  /-- metadata: 8 * tile + panel, and the quarter (R298) -/
  metaP : Nat
  mq : Nat
  /-- the vector registers of fragments, which nothing changes before they are read (R292) -/
  frag : Sparse Word
  /-- scale bytes of A and of B -/
  sa : List Byte
  sb : List Byte
  /-- an injected check failure: column mod 32, and whether the replay fails as well (R226, R299) -/
  strike : Option (Nat × Bool)
deriving DecidableEq, Repr

/-- The kinds of engine request. A multicast keeps its group entry as it was at issue, the entry's index, and the grid
and index of the issuing team (R318, R319). -/
inductive EngKind
  | copy (t : Template)
  | multi (t : Template) (g : List Member) (grp grid ix iy iz : Nat)
  | gather (rlen : Nat) (idx : List Nat)
  | coll (kind op ety count : Nat) (cid : DWord) (members : BitVec 256) (ckey : Word) (rank : Nat)
  | unread (at_ : DWord)
deriving DecidableEq, Repr

/-- An engine request that has not finished (R312). -/
structure Eng where
  uid : Nat
  kind : EngKind
  wave : Handle
  proc : Handle
  priv : Bool
  team : Nat
  die : Nat
  core : Nat
  pc : DWord
  op : Nat
  src : DWord
  dst : DWord
  ctr : DWord
  delta : DWord
  started : Bool
  /-- the receivers of a multicast, resolved at its start -/
  targets : List (Nat × Option Nat)
  /-- members delivered, and members failed with an address -/
  done : List Nat
  failed : List (Nat × DWord)
  /-- the check failed twice (R368) -/
  broken : Bool
  /-- the injection that the instruction met at its issue (R226) -/
  strike : Option DWord
deriving DecidableEq, Repr

/-- An engine failure held on a counter (R315). -/
structure EngRecord where
  key : Nat
  ctr : DWord
  proc : Handle
  die : Nat
  opc : DWord
  owave : Handle
  addr : DWord
  path : Nat
  cause : Nat
  member : Nat
deriving DecidableEq, Repr

/-- A job of a media engine (R417 to R423). -/
structure MediaJob where
  e : Nat
  op : Nat
  sender : Handle
  proc : Handle
  desc : DWord
  ctr : DWord
  delta : DWord
  /-- the 128 bytes of the descriptor -/
  image : List Byte
  /-- the stream of a decode, and what an encoder is free to choose by -/
  stream : List Byte
  choice : Nat
  /-- rows of superblocks or CTUs that hold their final values, and those reported to `rowc` -/
  made : Nat
  rows : Nat
  /-- the `relc` counter that it waits on (R420) -/
  waiting : Option Nat
deriving DecidableEq, Repr

/-- A message of a reliable datagram connection that waits for its acknowledgement (R413). -/
structure Datagram where
  die : Nat
  pkg : Nat
  peer : Nat
  kind : Nat
  seq : Nat
  sent : Nat
  tsend : Nat
  flight : Nat
  /-- the UDP destination port to which it goes -/
  port : Nat
  /-- payload bytes -/
  len : Nat
deriving DecidableEq, Repr

/-- The receiving side of a reliable datagram connection (R413): the highest sequence received in order, and which of the 64
after it have been received. -/
structure Received where
  ack : Word
  sack : DWord
deriving DecidableEq, Repr

/-- A path to a package that an Ethernet port of a die has lost, and since when (R414). -/
structure EthLoss where
  die : Nat
  port : Nat
  pkg : Nat
  since : Nat
deriving DecidableEq, Repr

/-- A corrected value on its way back to storage (R64). -/
structure Scrub where
  sector : Nat
  bytes : List Byte
deriving DecidableEq, Repr

/-- The algorithms of the SPDM responder (R431). -/
inductive SpdmSignature | ecdsaP384
deriving DecidableEq, Repr
inductive SpdmHash | sha384
deriving DecidableEq, Repr

/-- Replies of the SPDM responder (R431): the version as major and minor number, and the measurement blocks 1 to 4, of which
the last names the retired clusters beside what its digest covers. -/
inductive SpdmReply
  | version (major minor : Nat)
  | capabilities
  | algorithms (sign : SpdmSignature) (hash : SpdmHash)
  | digests (v : DWord)
  | certificate (v : DWord)
  | challengeAuth (v : DWord)
  | measurements (blocks : List (BitVec 384)) (retired : List Nat) (v : DWord)
  | keyExchange (v : DWord)
  | finish (v : DWord)
deriving DecidableEq, Repr

/-- An error that has arisen in a checked datapath: the wave whose next work there meets it, the unit of R371, the lane,
whether the replay fails as well, and whether it is the other check of an instruction that has two: the parity of sign and
exponent, or the residue of an engine's addresses (R371, R372; log entry 46). -/
structure Upset where
  wave : Handle
  unit : Nat
  lane : Nat
  twice : Bool
  other : Bool := false
deriving DecidableEq, Repr

/-- The structures of SRAM that carry a code (R63). -/
inductive Sram | l2 | l2Tags | l1 | scratchpad | tagTable | vectorFile | tileFile | objectCache
deriving DecidableEq, Repr

/-- Whose turn comes next: the model's own plan (log entry 8). -/
inductive Turn
  /-- the wave of this handle reaches its next instruction -/
  | issue (h : Handle)
  /-- event number `n` of those owed happens -/
  | work (n : Nat)
  /-- an event happens, with what the outside hands to it -/
  | event (i : Instr) (inp : Input)
  /-- time passes: nanoseconds of each die -/
  | elapse (d0 d1 : Nat)
  /-- an error that cannot be corrected strikes a sector: in a core's dirty L1 sector, else in storage (R65) -/
  | strike (core sector : Nat)
  /-- a core's L1 drops the line of a sector, writing it back where it is dirty (R52) -/
  | evict (core sector : Nat)
  /-- an error arises in a datapath (R371) -/
  | upset (u : Upset)
  /-- a structure of SRAM of a die is read at a place with an error that can be corrected (R63, R64, R66) -/
  | mend (die : Nat) (what : Sram) (place : Nat)
deriving DecidableEq, Repr

/-- The state of a package. -/
structure State where
  /-- clock counters of C0 and C1, in ns (R2) -/
  clock : Two Nat
  /-- the wave whose turn it is -/
  wave : Wave
  /-- every other wave -/
  waves : List Wave
  /-- base and second word of the instruction at issue -/
  iword : Word
  iext : Word
  mem : List Host.Cell
  /-- status of counters not OK, by key / 8 (R67) -/
  cst : Sparse CtrStatus
  /-- poisoned sectors, by key / 32 (R65) -/
  poison : Sparse Bool
  /-- of a poisoned counter sector, the cells rewritten by CINIT, by key / 8 (R89) -/
  rewritten : Sparse Bool
  waiters : List Waiter
  scrubs : List Scrub
  acts : Sparse Nat
  backoff : Sparse Nat
  l1 : List L1Sector
  /-- scratchpad ways S by core (R43) -/
  ways : Sparse Nat
  /-- tag entries: key 4,096 * team + slot; valid in bit 64 (R49) -/
  tags : Sparse (BitVec 65)
  /-- object slots whose generation is not 1 (R154) -/
  gens : Sparse Nat
  procs : List Proc
  teams : List Team
  grids : List Grid
  ports : List Port
  sets : List WaitSet
  timers : List Timer
  codes : List CodeVer
  runq : List Queued
  /-- the last winner of each issue slot: by 2 × array, and 1 for slot B, its partition slot index plus 1 (R349) -/
  lastWin : Sparse Nat
  tlb : List TlbEntry
  atc : List AtcEntry
  horizons : List Horizon
  /-- leaves that the HKU writes where no table reaches (R157, R164) -/
  leaves : List (Handle × Nat × DWord)
  downgrades : List Downgrade
  /-- host invalidations under way: die, first page, pages, time (R33) -/
  invals : List (Nat × Nat × Nat × Nat)
  flights : List Flight
  pendFaults : List Pending
  pendSvc : List Pending
  pendReplies : List Pending
  pendBreaks : List PendBreak
  /-- tokens spent of each admission budget, in thousandths, and when last refilled (R161) -/
  spent : Sparse Nat
  spentAt : Sparse Nat
  /-- registrations: die, key and port name (R166) -/
  names : List (Nat × DWord × DWord)
  /-- names found on other packages of the domain and beyond (R166) -/
  farNames : List (Nat × DWord × DWord)
  /-- ports of other packages: name, open attribute, free places, free grant credits -/
  farPorts : List (DWord × Nat × Nat × Nat)
  engs : List Eng
  engRecords : List EngRecord
  mmas : List Mma
  media : List MediaJob
  -- device registers
  mxAlias : Sparse (BitVec 256)
  window : Sparse (BitVec 128)
  hostw : Sparse (BitVec 256)
  pasid : Sparse DWord
  resinj : Sparse DWord
  /-- the wave that wrote `resinj` last, by die (R226) -/
  resinjBy : Sparse Handle
  mwin : Sparse DWord
  msixTable : Sparse Byte
  /-- base address registers: 3 × die and the number of the BAR, of BARs 0, 2 and 4; 0 as after a reset (R404, R409) -/
  bars : Sparse DWord
  exports : List Nat
  peerExports : List (Nat × Nat)
  pkg : Nat
  route : Sparse Nat
  scaleOut : Sparse (BitVec 256)
  jseq : Two Nat
  eseq : Two Nat
  gridSeq : Two Nat
  hostDown : Two Bool
  linksDown : List (Nat × Nat)
  /-- paths that Ethernet ports have lost (R414) -/
  ethDown : List EthLoss
  /-- next sequence number of each reliable datagram connection, less 1 (R413) -/
  etherSeq : Sparse Nat
  /-- what each connection has received (R413) -/
  etherIn : Sparse Received
  unacked : List Datagram
  /-- the UDP destination port of the datagram transport (R413) -/
  datagramPort : Nat
  /-- MSI-X messages sent: die and vector (R84) -/
  msix : List (Nat × Nat)
  /-- what the host or a peer last read -/
  readBack : List Byte
  fwVersion : Nat
  fwMin : Nat
  /-- an accepted image that has not been activated (R430) -/
  fwStaged : Option Nat
  /-- the set of test kernels in use and its launch descriptors, and an accepted one that has not been activated (R429, R430) -/
  testVersion : Nat
  testKernels : List Nat
  testStaged : Option (Nat × List Nat)
  /-- the hashes of the public keys that the fuses hold, for the two signatures (R430) -/
  fuseRsa : BitVec 384
  fuseSlh : BitVec 384
  /-- clusters whose field test has failed once and runs again, by 6 × die + cluster (R429) -/
  retest : Sparse Bool
  spdm : List SpdmReply
  powerCap : Nat
  tripped : Bool
  -- the model's own fields
  agenda : List Turn
  /-- an error of a datapath that nothing has met yet -/
  upset : Option Upset
  work : List (Instr × Input)
  inp : Input
  idxHint : Nat
  fresh : Nat
  uid : Nat
deriving DecidableEq, Repr

/-- Why the machine stops. -/
inductive Fault
  /-- Raised by `step` after a thermal trip: both dies are stopped and device state is lost (R434). Safe. -/
  | poweredOff
deriving DecidableEq, Repr

/-- Why an instruction has no meaning. -/
inductive Refusal
  /-- Raised by an arm of `exec` whose meaning is not written. Safe. -/
  | notModelled (mnemonic : String)
deriving DecidableEq, Repr

/-- A wave record that stands for no wave: handle 0, every register at its creation value (R328). -/
def Wave.blank : Wave where
  hdl := 0#32
  proc := 0#32
  team := 0
  widx := 0
  consumer := true
  priv := false
  vblk := 0
  ntiles := 0
  basePri := 0
  curPri := 0
  codever := 0#32
  xctr := 0#64
  pc := 0#64
  mode := 0x40#32
  cc := 0#6
  s := []
  k := [(0, 0xFFFFFFFF#32)]
  x := []
  v := []
  tile := []
  tid := []
  slots := 0#8
  nb := 0#64
  mb := 0#64
  openSet := []
  batches := []
  uivec := 0#64
  uiepc := 0#64
  uisave := 0#64
  uictr := 0#64
  uithr := 0#64
  uiArmed := false
  uiAct := false
  uiPend := false
  uiEn := false
  st := .retired
  await := .nothing
  halted := false
  refilling := false
  due := false
  unf := 0#32
  unfKind := .no
  asked := []
  told := none
  gathB := false
  gathF := false
  die := 0
  cluster := 0
  core := 0
  part := 0
  slot := 0
  stampA := 0
  stampB := 0
  runA := 0
  runB := 0
  since := 0
  stallAt := 0
  pair := none
  ctx := 0

/-- The machine after reset, before bring-up (log entry 9). -/
def State.reset : State where
  clock := ⟨0, 0⟩
  wave := Wave.blank
  waves := []
  iword := 0#32
  iext := 0#32
  mem := []
  cst := []
  poison := []
  rewritten := []
  waiters := []
  scrubs := []
  acts := []
  backoff := []
  l1 := []
  ways := []
  tags := []
  gens := []
  procs := []
  teams := []
  grids := []
  ports := []
  sets := []
  timers := []
  codes := []
  runq := []
  lastWin := []
  tlb := []
  atc := []
  horizons := []
  leaves := []
  downgrades := []
  invals := []
  flights := []
  pendFaults := []
  pendSvc := []
  pendReplies := []
  pendBreaks := []
  spent := []
  spentAt := []
  names := []
  farNames := []
  farPorts := []
  engs := []
  engRecords := []
  mmas := []
  media := []
  mxAlias := []
  window := []
  hostw := []
  pasid := []
  resinj := []
  resinjBy := []
  mwin := []
  msixTable := []
  bars := []
  exports := []
  peerExports := []
  pkg := 0
  route := []
  scaleOut := []
  jseq := ⟨1, 1⟩
  eseq := ⟨1, 1⟩
  gridSeq := ⟨0, 0⟩
  hostDown := ⟨false, false⟩
  linksDown := []
  ethDown := []
  etherSeq := []
  etherIn := []
  unacked := []
  datagramPort := 52003
  msix := []
  readBack := []
  fwVersion := 0
  fwMin := 0
  fwStaged := none
  testVersion := 0
  testKernels := []
  testStaged := none
  fuseRsa := 0#384
  fuseSlh := 0#384
  retest := []
  spdm := []
  powerCap := 2400
  tripped := false
  agenda := []
  upset := none
  work := []
  inp := {}
  idxHint := 0
  fresh := 0
  uid := 1

end Sys2Proof.Machine
end

