-- ==== Sys2Proof/Machine/Bits.lean ====
section
/-! DEFINITION. Bit fields, byte order and the accessors of a wave's registers. -/

namespace Sys2Proof.Machine

/-- Bits `lo` to `lo + len - 1` of a number. -/
def bits (v lo len : Nat) : Nat := v / 2 ^ lo % 2 ^ len

/-- A bit of a number. -/
def bitN (v i : Nat) : Bool := v.testBit i

/-- A number from bytes, least significant first (R5). -/
def natOfBytes : List Byte → Nat
  | [] => 0
  | b :: t => b.toNat + 256 * natOfBytes t

/-- `n` bytes of a list from an offset, zeros past its end. -/
def bytesAt (l : List Byte) (o n : Nat) : List Byte :=
  let t := (l.drop o).take n
  t ++ List.replicate (n - t.length) 0#8

/-- The number in `n` bytes of a list from an offset. -/
def natAt (l : List Byte) (o n : Nat) : Nat := natOfBytes (bytesAt l o n)

/-- The signed number in `n` bytes of a list from an offset. -/
def intAt (l : List Byte) (o n : Nat) : Int := (BitVec.ofNat (8 * n) (natAt l o n)).toInt

/-- `n` bytes of a list from an offset replaced. -/
def setBytes (l : List Byte) (o : Nat) (bs : List Byte) : List Byte :=
  l.take o ++ bs ++ l.drop (o + bs.length)

/-- Numbers 0 up to `n - 1`. -/
def upto : Nat → List Nat
  | 0 => []
  | n + 1 => upto n ++ [n]

/-- The element that no other one precedes, the first of equals. -/
def leastBy {α : Type} (lt : α → α → Bool) : List α → Option α
  | [] => none
  | a :: t =>
    match leastBy lt t with
    | none => some a
    | some b => if lt b a then some b else some a

def Two.get {α : Type} (t : Two α) (d : Nat) : α := if d = 0 then t.c0 else t.c1
def Two.set {α : Type} (t : Two α) (d : Nat) (v : α) : Two α :=
  if d = 0 then { t with c0 := v } else { t with c1 := v }

/-! ### Registers of a wave -/

def Wave.getS (w : Wave) (i : Nat) : DWord := Sparse.get 0#64 w.s i
def Wave.setS (w : Wave) (i : Nat) (v : DWord) : Wave := { w with s := Sparse.put 0#64 w.s i v }
def Wave.getK (w : Wave) (i : Nat) : Word := Sparse.get 0#32 w.k i
def Wave.setK (w : Wave) (i : Nat) (v : Word) : Wave := { w with k := Sparse.put 0#32 w.k i v }
def Wave.getX (w : Wave) (i : Nat) : BitVec 256 := Sparse.get 0#256 w.x i
def Wave.setX (w : Wave) (i : Nat) (v : BitVec 256) : Wave := { w with x := Sparse.put 0#256 w.x i v }
def Wave.getV (w : Wave) (r lane : Nat) : Word := Sparse.get 0#32 w.v (32 * r + lane)
def Wave.setV (w : Wave) (r lane : Nat) (v : Word) : Wave :=
  { w with v := Sparse.put 0#32 w.v (32 * r + lane) v }
def Wave.getT (w : Wave) (t o : Nat) : Byte := Sparse.get 0#8 w.tile (65536 * t + o)
def Wave.setT (w : Wave) (t o : Nat) (b : Byte) : Wave :=
  { w with tile := Sparse.put 0#8 w.tile (65536 * t + o) b }

/-- The thread id at a position (R132). -/
def Wave.threadId (w : Wave) (lane : Nat) : Word := Sparse.get 0#32 w.tid lane

/-- Fields of the mode register (R187). -/
def Wave.guard (w : Wave) : Nat := bits w.mode.toNat 0 3
def Wave.etypeCode (w : Wave) : Nat := bits w.mode.toNat 3 5
def Wave.round (w : Wave) : Nat := bits w.mode.toNat 8 3
def Wave.sat (w : Wave) : Bool := w.mode.getLsbD 11
def Wave.ftz (w : Wave) : Bool := w.mode.getLsbD 12
def Wave.seed (w : Wave) : Nat := bits w.mode.toNat 16 16

/-- The mask that guards vector work (R138, R217). -/
def Wave.act (w : Wave) : Word :=
  if w.guard = 0 then w.getK 0 else w.getK 0 &&& w.getK w.guard

/-- The lanes an instruction acts on: the active lanes, or at a replay the unfinished ones (R39). -/
def Wave.activeMask (w : Wave) : Word := if w.unfKind = .lanes then w.unf else w.act

/-- The lane positions of a mask in ascending order. -/
def lanesOf (m : Word) : List Nat := (upto 32).filter fun i => m.getLsbD i

/-- The mask of some lane positions. -/
def maskOf (l : List Nat) : Word := l.foldl (fun m i => m ||| BitVec.ofNat 32 (2 ^ i)) 0#32

def Wave.lanes (w : Wave) : List Nat := lanesOf w.activeMask

/-! ### Fields of a translation register (R22) -/

def xVbase (x : BitVec 256) : DWord := BitVec.ofNat 64 (bits x.toNat 0 56)
def xPbase (x : BitVec 256) : Nat := bits x.toNat 64 52
def xPkg (x : BitVec 256) : Nat := bits x.toNat 116 7
def xTarget (x : BitVec 256) : Nat := bits x.toNat 123 2
def xLimit (x : BitVec 256) : Nat := bits x.toNat 128 32
def xWint (x : BitVec 256) : Bool := x.getLsbD 160
def xValid (x : BitVec 256) : Bool := x.getLsbD 164
def xR (x : BitVec 256) : Bool := x.getLsbD 165
def xW (x : BitVec 256) : Bool := x.getLsbD 166
def xPriv (x : BitVec 256) : Bool := x.getLsbD 167
def xType (x : BitVec 256) : Nat := bits x.toNat 168 2
def xAttr (x : BitVec 256) : Nat := bits x.toNat 170 2
def xExpiry (x : BitVec 256) : Nat := bits x.toNat 192 64

/-- A translation register from its fields (R22). -/
def xMake (vbase pbase pkg target limit : Nat) (wint valid r w priv : Bool) (type attr expiry : Nat) :
    BitVec 256 :=
  BitVec.ofNat 256
    (vbase % 2 ^ 56 + pbase % 2 ^ 52 * 2 ^ 64 + pkg % 128 * 2 ^ 116 + target % 4 * 2 ^ 123 +
      limit % 2 ^ 32 * 2 ^ 128 + wint.toNat * 2 ^ 160 + valid.toNat * 2 ^ 164 + r.toNat * 2 ^ 165 +
      w.toNat * 2 ^ 166 + priv.toNat * 2 ^ 167 + type % 4 * 2 ^ 168 + attr % 4 * 2 ^ 170 +
      expiry % 2 ^ 64 * 2 ^ 192)

/-! ### The state around the wave at issue -/

/-- The clock counter of a die (R2). -/
def State.nowOf (s : State) (die : Nat) : Nat := s.clock.get die

/-- The clock counter as the wave at issue reads it. -/
def State.now (s : State) : Nat := s.nowOf s.wave.die

def State.setWave (s : State) (w : Wave) : State := { s with wave := w }

/-- The wave at issue changed. -/
def State.onWave (s : State) (f : Wave → Wave) : State := { s with wave := f s.wave }

/-- An event owed, put behind the others. -/
def State.owe (s : State) (i : Instr) : State := { s with work := s.work ++ [(i, {})] }
def State.oweIn (s : State) (i : Instr) (inp : Input) : State := { s with work := s.work ++ [(i, inp)] }

/-- A free value drawn: its number, and the state that has drawn it (log entry 6). -/
def State.draw (s : State) : Nat × State := (s.fresh, { s with fresh := s.fresh + 1 })

/-- A new number for a team, a grid, an MMA, a request or a message (log entry 7). -/
def State.newUid (s : State) : Nat × State := (s.uid, { s with uid := s.uid + 1 })

def State.findWave (s : State) (h : Handle) : Option Wave :=
  if s.wave.hdl = h ∧ h ≠ 0#32 then some s.wave else s.waves.find? (·.hdl = h)

/-- A wave changed, wherever it stands. -/
def State.updWave (s : State) (h : Handle) (f : Wave → Wave) : State :=
  if s.wave.hdl = h ∧ h ≠ 0#32 then { s with wave := f s.wave }
  else { s with waves := s.waves.map fun w => if w.hdl = h then f w else w }

/-- The wave of a handle takes its turn; the one at issue joins the others. -/
def State.turnTo (s : State) (h : Handle) : State :=
  if s.wave.hdl = h then s
  else
    match s.waves.find? (·.hdl = h) with
    | some w =>
      let others := s.waves.filter (·.hdl ≠ h)
      { s with wave := w, waves := if s.wave.hdl = 0#32 then others else s.wave :: others }
    | none => s

/-- Every wave but the ones that stand for none. -/
def State.allWaves (s : State) : List Wave :=
  if s.wave.hdl = 0#32 then s.waves else s.wave :: s.waves

def State.team (s : State) (uid : Nat) : Option Team := s.teams.find? (·.uid = uid)
def State.updTeam (s : State) (uid : Nat) (f : Team → Team) : State :=
  { s with teams := s.teams.map fun t => if t.uid = uid then f t else t }
def State.grid (s : State) (uid : Nat) : Option Grid := s.grids.find? (·.uid = uid)
def State.updGrid (s : State) (uid : Nat) (f : Grid → Grid) : State :=
  { s with grids := s.grids.map fun g => if g.uid = uid then f g else g }
def State.proc (s : State) (h : Handle) : Option Proc := s.procs.find? (·.hdl = h)
def State.updProc (s : State) (h : Handle) (f : Proc → Proc) : State :=
  { s with procs := s.procs.map fun p => if p.hdl = h then f p else p }
def State.port (s : State) (h : Handle) : Option Port := s.ports.find? (·.hdl = h)
def State.updPort (s : State) (h : Handle) (f : Port → Port) : State :=
  { s with ports := s.ports.map fun p => if p.hdl = h then f p else p }
def State.set (s : State) (h : Handle) : Option WaitSet := s.sets.find? (·.hdl = h)
def State.updSet (s : State) (h : Handle) (f : WaitSet → WaitSet) : State :=
  { s with sets := s.sets.map fun p => if p.hdl = h then f p else p }
def State.timer (s : State) (h : Handle) : Option Timer := s.timers.find? (·.hdl = h)
def State.updTimer (s : State) (h : Handle) (f : Timer → Timer) : State :=
  { s with timers := s.timers.map fun p => if p.hdl = h then f p else p }
def State.code (s : State) (h : Handle) : Option CodeVer := s.codes.find? (·.hdl = h)
def State.updCode (s : State) (h : Handle) (f : CodeVer → CodeVer) : State :=
  { s with codes := s.codes.map fun p => if p.hdl = h then f p else p }

/-- The record of the process of the wave at issue. -/
def State.myProc (s : State) : Option Proc := s.proc s.wave.proc
def State.myTeam (s : State) : Option Team := s.team s.wave.team

/-- A core of the package in one number. -/
def coreKey (die cluster core : Nat) : Nat := die * 48 + cluster * 8 + core
def Wave.coreNo (w : Wave) : Nat := coreKey w.die w.cluster w.core
def Wave.arrayNo (w : Wave) : Nat := w.coreNo * 4 + w.part

/-- Handle fields (R152). -/
def hType (h : Handle) : Nat := bits h.toNat 28 4
def hIndex (h : Handle) : Nat := bits h.toNat 8 20
def hDie (h : Handle) : Nat := bits h.toNat 27 1
def hGen (h : Handle) : Nat := bits h.toNat 0 8
def hMake (type index gen : Nat) : Handle := BitVec.ofNat 32 (type * 2 ^ 28 + index * 2 ^ 8 + gen)

/-- An entry of the management window: the die's register space, by offset (R426). -/
def mwKey (die off : Nat) : Nat := die * 2 ^ 23 + off

/-- A count of the management window advanced; it wraps at 2^64 (R426). -/
def State.count (s : State) (die off : Nat) : State :=
  { s with mwin := Sparse.put 0#64 s.mwin (mwKey die off) (Sparse.get 0#64 s.mwin (mwKey die off) + 1#64) }

end Sys2Proof.Machine
end

