-- ==== Sys2Proof/Machine/Float.lean ====
section
/-! DEFINITION. Floating point exactly: a value is a signed natural number times a power of two, and one function
rounds it into a format (R245, R284 to R288, R437). -/

namespace Sys2Proof.Machine

/-- How a format uses its top exponent (R284): as IEEE, for one NaN pattern only, or not at all. -/
inductive Special | ieee | nanOnly | none
deriving DecidableEq, Repr

/-- A binary format (R284). -/
structure Fmt where
  eb : Nat
  mb : Nat
  special : Special
deriving DecidableEq, Repr

def Fmt.f16 : Fmt := ⟨5, 10, .ieee⟩
def Fmt.bf16 : Fmt := ⟨8, 7, .ieee⟩
def Fmt.f32 : Fmt := ⟨8, 23, .ieee⟩
def Fmt.f64 : Fmt := ⟨11, 52, .ieee⟩
def Fmt.e4m3 : Fmt := ⟨4, 3, .nanOnly⟩
def Fmt.e5m2 : Fmt := ⟨5, 2, .ieee⟩
def Fmt.e3m2 : Fmt := ⟨3, 2, .none⟩
def Fmt.e2m3 : Fmt := ⟨2, 3, .none⟩
def Fmt.e2m1 : Fmt := ⟨2, 1, .none⟩

def Fmt.bias (f : Fmt) : Int := 2 ^ (f.eb - 1) - 1
def Fmt.width (f : Fmt) : Nat := 1 + f.eb + f.mb
/-- The exponent of the smallest step. -/
def Fmt.qmin (f : Fmt) : Int := 1 - f.bias - f.mb
/-- The bits of the largest finite value (R284). -/
def Fmt.maxFinite (f : Fmt) : Nat :=
  match f.special with
  | .ieee => (2 ^ f.eb - 1) * 2 ^ f.mb - 1
  | .nanOnly => 2 ^ (f.eb + f.mb) - 2
  | .none => 2 ^ (f.eb + f.mb) - 1
def Fmt.infBits (f : Fmt) : Nat := (2 ^ f.eb - 1) * 2 ^ f.mb

/-- The default NaN (R245); 0x7F for the 8-bit formats and +0 where there is none (R255). f16 takes the pattern
0x7FC0 that R120 and R245 name. -/
def Fmt.nanBits (f : Fmt) : Nat :=
  match f.special with
  | .none => 0
  | .nanOnly => 2 ^ (f.eb + f.mb) - 1
  | .ieee =>
    if f = Fmt.f16 then 0x7FC0
    else if f = Fmt.e5m2 then 0x7F
    else (2 ^ f.eb - 1) * 2 ^ f.mb + 2 ^ (f.mb - 1)

/-- A value: not a number, an infinity, or ± `m` × 2^`e`. -/
inductive FVal
  | nan
  | inf (neg : Bool)
  | num (neg : Bool) (m : Nat) (e : Int)
deriving DecidableEq, Repr

/-- The value of a pattern (R284). -/
def Fmt.decode (f : Fmt) (b : Nat) : FVal :=
  let neg := b.testBit (f.eb + f.mb)
  let mag := b % 2 ^ (f.eb + f.mb)
  let ex := mag / 2 ^ f.mb
  let ma := mag % 2 ^ f.mb
  if f.special = .ieee ∧ ex = 2 ^ f.eb - 1 then (if ma = 0 then .inf neg else .nan)
  else if f.special = .nanOnly ∧ mag = 2 ^ (f.eb + f.mb) - 1 then .nan
  else if ex = 0 then .num neg ma f.qmin
  else .num neg (2 ^ f.mb + ma) (f.qmin + ex - 1)

/-- A rounding in force: its code (R187), the 32-bit value of R288, and whether `sat` applies. -/
structure Rnd where
  mode : Nat
  r : Nat
  sat : Bool
deriving DecidableEq, Repr

/-- Round to nearest, ties to even. -/
def Rnd.rne : Rnd := ⟨0, 0, false⟩

/-- Whether a magnitude with remainder `rem` of 2^`sh` below an `odd` or even step moves away from zero. -/
def Rnd.up (rn : Rnd) (neg odd : Bool) (rem sh : Nat) : Bool :=
  let half := 2 ^ (sh - 1)
  match rn.mode with
  | 0 => decide (rem > half) || (decide (rem = half) && odd)
  | 1 => false
  | 2 => !neg && rem != 0
  | 3 => neg && rem != 0
  | 4 => decide (rem ≥ half)
  | _ => rem != 0 && decide (rn.r < rem * 2 ^ 32 / 2 ^ sh)

/-- Whether an overflow gives an infinity, and not the largest finite value (R437). -/
def Rnd.overInf (rn : Rnd) (neg : Bool) : Bool :=
  !rn.sat &&
    (match rn.mode with
     | 1 => false
     | 2 => !neg
     | 3 => neg
     | _ => true)

def Fmt.signBit (f : Fmt) (neg : Bool) : Nat := if neg then 2 ^ (f.eb + f.mb) else 0

/-- The infinity of a sign, or what stands for it in a format that has none (R255). -/
def Fmt.infOf (f : Fmt) (neg : Bool) : Nat :=
  match f.special with
  | .ieee => f.signBit neg + f.infBits
  | .nanOnly => f.signBit neg + f.nanBits
  | .none => f.signBit neg + f.maxFinite

/-- A magnitude on the format's grid under a rounding, as bits without sign; it may exceed the largest finite. -/
def Fmt.grid (f : Fmt) (rn : Rnd) (neg : Bool) (m : Nat) (e : Int) : Nat :=
  let q : Int := max (e + Nat.log2 m + 1 - (f.mb + 1)) f.qmin
  let n :=
    if q ≤ e then m * 2 ^ (e - q).toNat
    else
      let sh := (q - e).toNat
      let n0 := m / 2 ^ sh
      if rn.up neg (n0 % 2 == 1) (m % 2 ^ sh) sh then n0 + 1 else n0
  if n < 2 ^ f.mb then n else ((q - f.qmin).toNat + 1) * 2 ^ f.mb + (n - 2 ^ f.mb)

/-- ± `m` × 2^`e` rounded into a format (R245, R437). -/
def Fmt.roundNum (f : Fmt) (rn : Rnd) (neg : Bool) (m : Nat) (e : Int) : Nat :=
  if m = 0 then f.signBit neg
  else
    let g := f.grid rn neg m e
    if g ≤ f.maxFinite then f.signBit neg + g
    else if rn.overInf neg then f.infOf neg
    else f.signBit neg + f.maxFinite

/-- A value rounded into a format; NaN gives the default NaN. -/
def Fmt.round (f : Fmt) (rn : Rnd) : FVal → Nat
  | .nan => f.nanBits
  | .inf neg => f.infOf neg
  | .num neg m e => f.roundNum rn neg m e

/-- A subnormal pattern becomes a zero of its sign (R245). -/
def Fmt.flush (f : Fmt) (ftz : Bool) (b : Nat) : Nat :=
  if ftz && b % 2 ^ (f.eb + f.mb) / 2 ^ f.mb == 0 then f.signBit (b.testBit (f.eb + f.mb)) else b

/-! ### Exact arithmetic -/

def FVal.neg : FVal → FVal
  | .nan => .nan
  | .inf n => .inf (!n)
  | .num n m e => .num (!n) m e

def FVal.negIf (b : Bool) (v : FVal) : FVal := if b then v.neg else v

def FVal.isZero : FVal → Bool
  | .num _ m _ => m == 0
  | _ => false

/-- The signed integer of a value scaled to exponent `q`, which is at most its own. -/
def scaled (neg : Bool) (m : Nat) (e q : Int) : Int :=
  let k : Int := (m : Int) * 2 ^ (e - q).toNat
  if neg then -k else k

/-- The exact sum; an exact zero is +0, or −0 under rdn, unless both operands are zeros of one sign (R246). -/
def FVal.add (rdn : Bool) : FVal → FVal → FVal
  | .nan, _ => .nan
  | _, .nan => .nan
  | .inf a, .inf b => if a = b then .inf a else .nan
  | .inf a, _ => .inf a
  | _, .inf b => .inf b
  | .num na ma ea, .num nb mb eb =>
    if ma = 0 ∧ mb = 0 then .num (if na = nb then na else rdn) 0 0
    else
      let q := min ea eb
      let k := scaled na ma ea q + scaled nb mb eb q
      if k = 0 then .num rdn 0 0 else .num (decide (k < 0)) k.natAbs q

/-- The exact product. -/
def FVal.mul : FVal → FVal → FVal
  | .nan, _ => .nan
  | _, .nan => .nan
  | .inf a, .inf b => .inf (a != b)
  | .inf a, .num b m _ => if m = 0 then .nan else .inf (a != b)
  | .num a m _, .inf b => if m = 0 then .nan else .inf (a != b)
  | .num a ma ea, .num b mb eb => .num (a != b) (ma * mb) (ea + eb)

/-- A value times a power of two. -/
def FVal.scaleBy (k : Int) : FVal → FVal
  | .num n m e => .num n m (e + k)
  | v => v

/-- The quotient with 160 bits and a last bit that says whether it is inexact; rounding it once gives the rounding of
the exact quotient, since no format and no stochastic fraction looks below its last bit but one. -/
def FVal.div : FVal → FVal → FVal
  | .nan, _ => .nan
  | _, .nan => .nan
  | .inf _, .inf _ => .nan
  | .inf a, .num b _ _ => .inf (a != b)
  | .num a _ _, .inf b => .num (a != b) 0 0
  | .num a ma ea, .num b mb eb =>
    if mb = 0 then (if ma = 0 then .nan else .inf (a != b))
    else
      let k := 160 + Nat.log2 mb
      let n := ma * 2 ^ k
      let q := n / mb
      .num (a != b) (2 * q + (if n % mb = 0 then 0 else 1)) (ea - eb - k - 1)

/-- The integer square root, by the bits `k - 1` down to 0. -/
def isqrtFrom (n : Nat) : Nat → Nat → Nat
  | 0, acc => acc
  | k + 1, acc =>
    let c := acc + 2 ^ k
    isqrtFrom n k (if c * c ≤ n then c else acc)

/-- The integer square root. -/
def isqrt (n : Nat) : Nat := isqrtFrom n (Nat.log2 n / 2 + 1) 0

/-- The square root with a last bit that says whether it is inexact (R248). -/
def FVal.sqrt : FVal → FVal
  | .nan => .nan
  | .inf neg => if neg then .nan else .inf false
  | .num neg m e =>
    if m = 0 then .num neg 0 0
    else if neg then .nan
    else
      let odd := (e % 2).toNat
      let n := m * 2 ^ (200 + odd)
      let y := isqrt n
      .num false (2 * y + (if y * y = n then 0 else 1)) ((e - odd - 200) / 2 - 1)

/-- One over the square root with a last bit that says whether it is inexact (R248). -/
def FVal.rsqrt : FVal → FVal
  | .nan => .nan
  | .inf neg => if neg then .nan else .num false 0 0
  | .num neg m e =>
    if m = 0 then .inf neg
    else if neg then .nan
    else
      let odd := (e % 2).toNat
      let m2 := m * 2 ^ odd
      let k := 160 + Nat.log2 m2
      let y := isqrt (2 ^ (2 * k) / m2)
      .num false (2 * y + (if y * y * m2 = 2 ^ (2 * k) then 0 else 1)) (-(e - odd) / 2 - k - 1)

/-- 1. -/
def FVal.one : FVal := .num false 1 0

/-- Whether `a` < `b` for values that are not NaN; zeros are equal. -/
def FVal.lt : FVal → FVal → Bool
  | .nan, _ => false
  | _, .nan => false
  | .inf a, .inf b => a && !b
  | .inf a, .num _ _ _ => a
  | .num _ _ _, .inf b => !b
  | .num na ma ea, .num nb mb eb =>
    let q := min ea eb
    decide (scaled na ma ea q < scaled nb mb eb q)

def FVal.isNan : FVal → Bool
  | .nan => true
  | _ => false

/-- Whether the values are equal; zeros are equal. -/
def FVal.eqv (a b : FVal) : Bool := !a.isNan && !b.isNan && !a.lt b && !b.lt a

def FVal.negative : FVal → Bool
  | .nan => false
  | .inf n => n
  | .num n _ _ => n

/-- The order of minimumNumber: −0 is less than +0 (R246). -/
def FVal.before (a b : FVal) : Bool :=
  a.lt b || (a.isZero && b.isZero && a.negative && !b.negative)

def FVal.minNum (a b : FVal) : FVal :=
  if a.isNan then b else if b.isNan then a else if b.before a then b else a
def FVal.maxNum (a b : FVal) : FVal :=
  if a.isNan then b else if b.isNan then a else if a.before b then b else a

/-- The integer that a magnitude `m` × 2^`e` rounds to. -/
def roundInt (rn : Rnd) (neg : Bool) (m : Nat) (e : Int) : Nat :=
  if e ≥ 0 then m * 2 ^ e.toNat
  else
    let sh := (-e).toNat
    let n := m / 2 ^ sh
    if rn.up neg (n % 2 == 1) (m % 2 ^ sh) sh then n + 1 else n

/-- Rounded to an integral value (R248 VFRND). -/
def FVal.integral (rn : Rnd) : FVal → FVal
  | .num neg m e => .num neg (roundInt rn neg m e) 0
  | v => v

/-- Constants 2^(2^(-i)) × 2^200 rounded down, for i = 1, 2, …: each is the square root of the one before. -/
def rootChain : Nat → Nat → List Nat
  | 0, _ => []
  | n + 1, c =>
    let r := isqrt (c * 2 ^ 200)
    r :: rootChain n r

/-- The product of the constants whose bit is set in `a`, the first standing for bit `k - 1`. -/
def powBits (a : Nat) : Nat → List Nat → Nat → Nat
  | 0, _, acc => acc
  | _, [], acc => acc
  | k + 1, c :: t, acc => powBits a k t (if a.testBit k then acc * c / 2 ^ 200 else acc)

/-- floor(2^30 × 2^(a / 2^24)) for `a` below 2^24 (R249). The 200-bit chain is exact to far below the least distance
of any of the 2^24 values from a step (log entry 15). -/
def exp2Frac (a : Nat) : Nat := powBits a 24 (rootChain 24 (2 * 2 ^ 200)) (2 ^ 200) / 2 ^ 170

/-- R249: `y` × 2^`n` before its rounding. -/
def FVal.exp2 : FVal → FVal
  | .nan => .nan
  | .inf neg => if neg then .num false 0 0 else .inf false
  | .num neg m e =>
    let k := scaled neg m e (min e (-24))
    let d : Int := 2 ^ ((-24) - min e (-24)).toNat
    let t := k / d
    let n := t / 2 ^ 24
    let a := (t - n * 2 ^ 24).toNat
    let n' := max (-100000) (min 100000 n)
    .num false (exp2Frac a) (n' - 30)

/-- The bits of log2 of `x` / 2^200, for 1 ≤ x / 2^200 < 2, by repeated squaring (R250). -/
def log2Bits : Nat → Nat → Nat → Nat
  | 0, _, acc => acc
  | n + 1, x, acc =>
    let y := x * x / 2 ^ 200
    if y ≥ 2 ^ 201 then log2Bits n (y / 2) (2 * acc + 1) else log2Bits n y (2 * acc)

/-- R250: `e` + `L` before its rounding. -/
def FVal.log2 : FVal → FVal
  | .nan => .nan
  | .inf neg => if neg then .nan else .inf false
  | .num neg m e =>
    if m = 0 then .inf true
    else if neg then .nan
    else
      let l := Nat.log2 m
      let x := m * 2 ^ 200 / 2 ^ l
      let k : Int := (e + l) * 2 ^ 30 + log2Bits 30 x 0
      .num (decide (k < 0)) k.natAbs (-30)

/-- The stochastic-rounding value r = H(seed, tid, idx) (R288). -/
def stoHash (seed tid idx : Nat) : Nat :=
  let m := 2 ^ 64
  let x := (seed * 2 ^ 32 + tid) % m ^^^ (idx * 0x9E3779B97F4A7C15 % m)
  let x := (x ^^^ (x / 2 ^ 30)) * 0xBF58476D1CE4E5B9 % m
  let x := (x ^^^ (x / 2 ^ 27)) * 0x94D049BB133111EB % m
  let x := x ^^^ (x / 2 ^ 31)
  x / 2 ^ 32

/-- The rounding in force for a lane and element of a wave (R245). -/
def Wave.rnd (w : Wave) (lane idx : Nat) : Rnd :=
  ⟨w.round, if w.round = 5 then stoHash w.seed (w.threadId lane).toNat idx else 0, false⟩

/-- The same with `sat` applied (R437). -/
def Wave.rndSat (w : Wave) (lane idx : Nat) : Rnd := { w.rnd lane idx with sat := w.sat }

/-- An MX element times 2^(scale − 127) as BF16 (R60). -/
def mxToBf16 (f : Fmt) (elem scale : Nat) : Nat :=
  if scale = 255 then 0x7FC0
  else Fmt.bf16.round Rnd.rne ((f.decode elem).scaleBy ((scale : Int) - 127))

end Sys2Proof.Machine
end

