-- ==== Sys2Proof/Machine/Mem.lean ====
section
/-! DEFINITION. Memory: the key of every byte the machine can name, reads and writes of bytes, MX alias windows and
poison. One canonical list holds all of it; a byte that nothing has written reads 0 (log entry 2). -/

namespace Sys2Proof.Machine

/-- Memory as one canonical list of cells. -/
abbrev Memory := List Host.Cell

/-- What an unlisted byte reads as (log entry 2, DESIGN CHOICE, unsafe). -/
def Memory.unlisted : Byte := 0#8

/-- The canonical form: keys strictly rising, no entry that reads as an unlisted one. -/
def Memory.wf (m : Memory) : Bool := Sparse.wf Memory.unlisted m

/-! ### Keys: one number for every byte (R15, R17, R34, R45) -/

/-- The first physical address of a die's reserved region (R151). -/
def reservedBase (die : Nat) : Nat := 0x8000000000 * die + 0x5568000000

/-- The key of a byte of the package's own physical map; a command window names its backing (R15, R151). -/
def localKey (pa : Nat) : Nat :=
  if 0x010100000000 ≤ pa ∧ pa < 0x010104000000 then reservedBase 0 + 0x10000000 + (pa - 0x010100000000)
  else if 0x010104000000 ≤ pa ∧ pa < 0x010108000000 then
    reservedBase 1 + 0x10000000 + (pa - 0x010104000000)
  else pa

def peerKey (pkg pa : Nat) : Nat := (pkg + 1) * 2 ^ 52 + pa
def hostKey (iova : Nat) : Nat := 2 ^ 64 + iova
def spKey (team off : Nat) : Nat := 2 ^ 70 + team * 2 ^ 22 + off

/-- Whether a physical address is DRAM of the package (R15). -/
def isDram (pa : Nat) : Bool := decide (pa < 2 ^ 40) && decide (pa % 2 ^ 39 < 0x5968000000)
/-- Whether it lies in the device registers (R15). -/
def isReg (pa : Nat) : Bool := decide (0x010000000000 ≤ pa) && decide (pa < 0x010100000000)
def isWindow (pa : Nat) : Bool := decide (0x010100000000 ≤ pa) && decide (pa < 0x010108000000)
def dieOfPa (pa : Nat) : Nat := bits pa 39 1

/-- A byte of the directory of a die's command window, unit 0, which is read-only (R406). -/
def isDirectory (key : Nat) : Bool :=
  let here : Nat → Bool := fun d =>
    decide (reservedBase d + 0x10000000 ≤ key) && decide (key < reservedBase d + 0x10040000)
  here 0 || here 1

/-- A byte that only the device changes as it sees fit: of the device registers, or of a directory. -/
def isDevKey (key : Nat) : Bool := isReg key || isDirectory key

/-- Whether a key is a cell of some team's scratchpad. -/
def isSpKey (k : Nat) : Bool := decide (2 ^ 70 ≤ k)
/-- Whether a key lies on another package. -/
def isPeerKey (k : Nat) : Bool := decide (2 ^ 52 ≤ k) && decide (k < 2 ^ 64)
def peerOfKey (k : Nat) : Nat := k / 2 ^ 52 - 1

/-! ### MX alias entries (R59) -/

def aliasEn (e : BitVec 256) : Bool := e.getLsbD 255
def aliasFmt (e : BitVec 256) : Nat := bits e.toNat 252 3
def aliasScale (e : BitVec 256) : Nat := bits e.toNat 128 52
def aliasElem (e : BitVec 256) : Nat := bits e.toNat 64 52
def aliasShadow (e : BitVec 256) : Nat := bits e.toNat 16 36 * 65536
def aliasFrames (e : BitVec 256) : Nat := bits e.toNat 0 16

/-- The enabled entry whose shadow range holds an address: its number among both dies' and its contents. -/
def State.aliasAt (s : State) (pa : Nat) : Option (Nat × BitVec 256) :=
  s.mxAlias.find? fun e =>
    aliasEn e.2 && decide (aliasShadow e.2 ≤ pa) &&
      decide (pa < aliasShadow e.2 + 65536 * aliasFrames e.2)

/-- A byte as the storage holds it. -/
def State.rawByte (s : State) (key : Nat) : Byte := Sparse.get Memory.unlisted s.mem key

def State.rawNat (s : State) (key n : Nat) : Nat :=
  natOfBytes (Sparse.getList Memory.unlisted s.mem key n)

/-- Element `i` of an alias entry as BF16 (R60). -/
def State.aliasElement (s : State) (e : BitVec 256) (i : Nat) : Nat :=
  let el := aliasElem e
  let sc := (s.rawByte (aliasScale e + i / 32)).toNat
  match aliasFmt e with
  | 0 => mxToBf16 Fmt.e4m3 (s.rawByte (el + i)).toNat sc
  | 1 => mxToBf16 Fmt.e5m2 (s.rawByte (el + i)).toNat sc
  | 2 => mxToBf16 Fmt.e3m2 (bits (s.rawNat (el + 3 * (i / 4)) 3) (6 * (i % 4)) 6) sc
  | 3 => mxToBf16 Fmt.e2m3 (bits (s.rawNat (el + 3 * (i / 4)) 3) (6 * (i % 4)) 6) sc
  | _ => mxToBf16 Fmt.e2m1 (bits (s.rawByte (el + i / 2)).toNat (4 * (i % 2)) 4) sc

/-- A byte as a read finds it: a shadow frame of an enabled entry is converted (R60); through an MX-alias mapping,
one of no enabled entry reads 0x7FC0 in every element (R62). -/
def State.readByte (s : State) (mx : Bool) (key : Nat) : Byte :=
  match s.aliasAt key with
  | some (_, e) =>
    let o := key - aliasShadow e
    BitVec.ofNat 8 (s.aliasElement e (o / 2) / 2 ^ (8 * (o % 2)))
  | none => if mx then (if key % 2 = 0 then 0xC0#8 else 0x7F#8) else s.rawByte key

/-- `n` bytes as a read finds them. -/
def State.readBytes (s : State) (mx : Bool) (key : Nat) : Nat → List Byte
  | 0 => []
  | n + 1 => s.readByte mx key :: s.readBytes mx (key + 1) n

/-- One byte of plain memory, as statements read it. -/
def State.byteAt (s : State) (key : Nat) : Byte := s.rawByte key

/-- A sector's poison (R65). -/
def State.poisoned (s : State) (key : Nat) : Bool := Sparse.get false s.poison (key / 32)

/-- The sectors that `n` bytes from a key touch. -/
def sectorsOf (key n : Nat) : List Nat :=
  (upto ((key + n + 31) / 32 - key / 32)).map (· + key / 32)

/-- The bytes that element `i` of an alias entry is made of: its scale and its own, at most two (R60). -/
def aliasBytes (e : BitVec 256) (i : Nat) : List Nat :=
  let el := aliasElem e
  (aliasScale e + i / 32) ::
    (match aliasFmt e with
     | 0 | 1 => [el + i]
     | 2 | 3 => [el + 3 * (i / 4) + 6 * (i % 4) / 8, el + 3 * (i / 4) + (6 * (i % 4) + 5) / 8]
     | _ => [el + i / 2])

/-- Whether any sector of the bytes is poisoned; of an alias read the sectors of its elements and scales (R62, R65). -/
def State.anyPoison (s : State) (key n : Nat) : Bool :=
  if s.poison = [] then false
  else
    match s.aliasAt key with
    | some (_, e) =>
      let o := key - aliasShadow e
      (upto ((o + n + 1) / 2 - o / 2)).any fun j => (aliasBytes e (o / 2 + j)).any s.poisoned
    | none => (sectorsOf key n).any fun q => Sparse.get false s.poison q

def State.setPoison (s : State) (sector : Nat) (b : Bool) : State :=
  { s with poison := Sparse.put false s.poison sector b }

/-- A sector poisoned anew; of a counter sector no cell counts as rewritten (R65, R89). -/
def State.poisonSector (s : State) (sector : Nat) : State :=
  { s with poison := Sparse.put false s.poison sector true,
           rewritten := Sparse.clear s.rewritten (4 * sector) (4 * sector + 4) }

/-- Poison cleared in every sector that the bytes cover whole (R65). -/
def State.cleanse (s : State) (key n : Nat) : State :=
  if s.poison = [] then s
  else
    (sectorsOf key n).foldl
      (fun t q => if key ≤ 32 * q ∧ 32 * q + 32 ≤ key + n then t.setPoison q false else t) s

/-- Corrected write-backs of the sectors are dropped when a write reaches them (R64). -/
def State.dropScrubs (s : State) (key n : Nat) : State :=
  if s.scrubs = [] then s
  else { s with scrubs := s.scrubs.filter fun c => !(sectorsOf key n).contains c.sector }

/-- Bytes put into storage. -/
def State.putBytes (s : State) (key : Nat) (bs : List Byte) : State :=
  let s := s.dropScrubs key bs.length
  { s with mem := Sparse.putList Memory.unlisted s.mem key bs }

/-- A write of bytes as its home performs it: a shadow frame of an enabled entry discards it and counts it (R62). -/
def State.writeBytes (s : State) (key : Nat) (bs : List Byte) : State :=
  match s.aliasAt key with
  | some (n, e) =>
    { s with mxAlias := Sparse.put 0#256 s.mxAlias n (e + BitVec.ofNat 256 (2 ^ 192) -
        (if bits e.toNat 192 32 = 2 ^ 32 - 1 then BitVec.ofNat 256 (2 ^ 224) else 0#256)) }
  | none => (s.putBytes key bs).cleanse key bs.length

/-- A word of 8 bytes as storage holds it. -/
def State.rawDWord (s : State) (key : Nat) : DWord := BitVec.ofNat 64 (s.rawNat key 8)

def State.putDWord (s : State) (key : Nat) (v : DWord) : State := s.putBytes key (bytesOfNat 8 v.toNat)

/-- The bytes of one range copied to another place, whole, as the HKU copies a frame: each cell as a read finds it. -/
def State.copyRange (s : State) (src dst n : Nat) : State :=
  let cells := s.mem.filter fun c => decide (src ≤ c.1) && decide (c.1 < src + n)
  let m := Sparse.clear s.mem dst (dst + n)
  { s with mem := cells.reverse.foldl (fun m c => Sparse.put Memory.unlisted m (dst + (c.1 - src)) c.2) m,
           scrubs := s.scrubs.filter fun c => decide (32 * c.sector + 32 ≤ dst) || decide (dst + n ≤ 32 * c.sector) }

/-- A range of bytes reads 0 again. -/
def State.zeroRange (s : State) (key n : Nat) : State :=
  { s with mem := Sparse.clear s.mem key (key + n),
           cst := Sparse.clear s.cst (key / 8) ((key + n) / 8),
           poison := Sparse.clear s.poison (key / 32) ((key + n) / 32),
           scrubs := s.scrubs.filter fun c => decide (32 * c.sector + 32 ≤ key) || decide (key + n ≤ 32 * c.sector) }

end Sys2Proof.Machine
end

