-- ==== Sys2Proof/Machine/Counter.lean ====
section
/-! DEFINITION. Counters at their homes: value, status, the operations of R68, and the waiters they wake
(03_counters R67 to R89). -/

namespace Sys2Proof

/-- The code of a status (R67). -/
def CtrStatus.code : CtrStatus → Nat
  | .ok => 0
  | .abandoned => 1
  | .faulted => 2

end Sys2Proof

namespace Sys2Proof.Machine

/-- V has reached T (R72). -/
def reached (v t : DWord) : Bool := decide ((v - t).toNat < 2 ^ 63)

/-- The status a counter's home keeps (R67); FAULTED while its sector is poisoned and it has not been rewritten by
CINIT (R89). -/
def State.ctrStatus (s : State) (key : Nat) : CtrStatus := Sparse.get .ok s.cst (key / 8)

def State.setStatus (s : State) (key : Nat) (st : CtrStatus) : State :=
  { s with cst := Sparse.put .ok s.cst (key / 8) st }

/-- The value of a counter. -/
def State.ctrValue (s : State) (key : Nat) : DWord := s.rawDWord key

/-- The cell lies in a poisoned sector and CINIT has not rewritten it (R89). -/
def State.ctrPoisoned (s : State) (key : Nat) : Bool :=
  s.poisoned key && !Sparse.get false s.rewritten (key / 8)

/-- The event that wakes a party with what its waiter observed (R80). -/
def Party.event : Party → DWord → CtrStatus → Instr × Input
  | .wave h, v, st => (.waiterWake h v st, {})
  | .member h, _, _ => (.waitSetEvaluation h, {})
  | .host die n, v, st => (.hostWaiterFire die n v st false, {})
  | .ui h, _, _ => (.uiCounterFire h, {})
  | .journal die seq, _, _ => (.journalCompletion die seq, {})
  | .media e, _, st => (.mediaRelcWake, { n := e, ok := st ≠ .faulted })

/-- Every waiter of a cell whose threshold the value has reached, or all of them when the status is not OK, fires and
is removed (R67, R69, R72, R82). -/
def State.fire (s : State) (key : Nat) (v : DWord) (st : CtrStatus) : State :=
  if s.waiters = [] then s
  else
    let hit : Waiter → Bool := fun w => decide (w.key = key) && (reached v w.thr || decide (st ≠ .ok))
    { s with waiters := s.waiters.filter fun w => !hit w,
             work := s.work ++ (s.waiters.filter hit).map fun w => w.party.event v st }

/-- Waiters whose home can be reached no more see FAULTED, whatever the counter's status is: they are removed and woken, and
a wait set remembers the members that were cut off (R76, R91). -/
def State.cutOff (s : State) (cut : Waiter → Bool) : State :=
  let mine := s.waiters.filter cut
  let lost : WaitSet → List Nat := fun t =>
    (t.reg.filter fun e => mine.any fun w => decide (w.party = .member t.hdl) && decide (w.key = e.2.key)).map (·.1)
  { s with waiters := s.waiters.filter fun w => !cut w,
           sets := s.sets.map fun t => { t with gone := t.gone ++ lost t },
           work := s.work ++ mine.map fun w => w.party.event (s.ctrValue w.key) .faulted }

/-- A counter operation at a cell; one that reaches a shadow frame of an enabled alias entry is discarded and counted as any
other write is (R62). -/
def State.unshadowed (s : State) (key : Nat) (f : State → State) : State :=
  if (s.aliasAt key).isSome then s.writeBytes key (List.replicate 8 0#8) else f s

/-- An add at the home (R68): a cell in a poisoned sector changes no value (R89). -/
def State.ctrAdd (s : State) (key : Nat) (d : DWord) : State :=
  s.unshadowed key fun s =>
  if s.ctrPoisoned key then s
  else
    let v := s.ctrValue key + d
    (s.putDWord key v).fire key v (s.ctrStatus key)

/-- A break at the home (R69). -/
def State.ctrBreak (s : State) (key : Nat) (st : CtrStatus) : State :=
  s.unshadowed key fun s =>
  let takes : Bool :=
    match st, s.ctrStatus key with
    | .abandoned, .ok => true
    | .faulted, .ok => true
    | .faulted, .abandoned => true
    | _, _ => false
  if takes then (s.setStatus key st).fire key (s.ctrValue key) st else s

/-- The poison of a counter sector clears when all four cells have been rewritten (R89). -/
def State.markRewritten (s : State) (key : Nat) : State :=
  if s.poisoned key then
    let r := Sparse.put false s.rewritten (key / 8) true
    let q := key / 32
    if (upto 4).all fun i => Sparse.get false r (4 * q + i) then
      { s with rewritten := Sparse.clear r (4 * q) (4 * q + 4), poison := Sparse.put false s.poison q false }
    else { s with rewritten := r }
  else s

/-- CINIT at the home (R70): value, status OK, and every waiter judged against the new value. -/
def State.ctrInit (s : State) (key : Nat) (v : DWord) : State :=
  s.unshadowed key fun s => (((s.putDWord key v).setStatus key .ok).markRewritten key).fire key v .ok

/-- An operation at a counter's home (R68). -/
def State.ctrPerform (s : State) (key : Nat) : CtrOp → State
  | .add d => s.ctrAdd key d
  | .init v => s.ctrInit key v
  | .brk st => s.ctrBreak key st

/-- A counter sector becomes poisoned: its four cells are FAULTED and their waiters wake (R89). A shadow frame of an enabled
alias entry holds no cell, and no write reaches it (R62). -/
def State.faultSector (s : State) (sector : Nat) : State :=
  if (s.aliasAt (32 * sector)).isSome then s.poisonSector sector
  else (upto 4).foldl (fun t i => t.ctrBreak (32 * sector + 8 * i) .faulted) (s.poisonSector sector)

/-- Every waiter of a cell in some range is evaluated as it is registered again at a new home (R80, R88). -/
def State.evaluateIn (s : State) (lo hi : Nat) : State :=
  (((s.waiters.filter fun w => decide (lo ≤ w.key) && decide (w.key < hi)).map (·.key)).eraseDups).foldl
    (fun (s : State) k => s.fire k (if s.ctrPoisoned k then 0#64 else s.ctrValue k)
      (if s.ctrPoisoned k then .faulted else s.ctrStatus k)) s

/-- What a read or wait finds: a poisoned cell reports FAULTED and reads 0 (R89). -/
def State.ctrRead (s : State) (key : Nat) : DWord × CtrStatus :=
  if s.ctrPoisoned key then (0#64, .faulted) else (s.ctrValue key, s.ctrStatus key)

/-- A waiter registered (R80). -/
def State.register (s : State) (w : Waiter) : State := { s with waiters := s.waiters ++ [w] }

/-- Waiters removed without firing (R82). -/
def State.unregister (s : State) (p : Party) : State :=
  { s with waiters := s.waiters.filter fun w => w.party ≠ p }

/-- The fields of a counter reference (R75). -/
def refTag (a : DWord) : Nat := bits a.toNat 60 4
def refPkg (a : DWord) : Nat := bits a.toNat 53 7
def refDie (a : DWord) : Nat := bits a.toNat 52 1
def refTeam (a : DWord) : Handle := BitVec.ofNat 32 (bits a.toNat 20 32)
def refCell (a : DWord) : Nat := bits a.toNat 0 19

/-- The team whose wave 0 a handle names; the handle stays resolvable until the team's last wave retires (R75). -/
def State.teamOfWave0 (s : State) (h : Handle) : Option Team := s.teams.find? (·.wave0 = h)

/-- The key that a counter reference names, or nothing where an add through it is refused (R75). -/
def State.refKey (s : State) (proc : Handle) (a : DWord) : Option Nat :=
  match s.teamOfWave0 (refTeam a) with
  | none => none
  | some t =>
    if refTag a = 9 ∧ !a.getLsbD 19 ∧ refPkg a = s.pkg ∧ refDie a = hDie (refTeam a) ∧
        hType (refTeam a) = 2 ∧ t.proc = proc ∧ refCell a * 8 + 8 ≤ t.units * 16384 then
      some (spKey t.uid (refCell a * 8))
    else none

/-- A reference to a scratchpad counter (R75). -/
def refMake (pkg die : Nat) (team : Handle) (cell : Nat) : DWord :=
  BitVec.ofNat 64 (9 * 2 ^ 60 + pkg * 2 ^ 53 + die * 2 ^ 52 + team.toNat * 2 ^ 20 + cell)

end Sys2Proof.Machine
end

