-- ==== Sys2Proof/Machine/Cache.lean ====
section
/-! DEFINITION. The L1 data caches: lines of four sectors, what they hold of a sector, fills, stores, write-backs, releases
and acquires (02 R43, R52, R53, R65; 04 R103, R109, R118; 14 R367). Nothing says when a cache drops a line that it has room
for: the model drops one only where a rule does, where the L1 is full, or at a turn of the agenda (log entry 4). -/

namespace Sys2Proof.Machine

/-- The 128-byte line of a sector (R52). -/
def lineOf (sector : Nat) : Nat := sector / 4

/-- The sector as a core's L1 holds it. -/
def State.l1At (s : State) (core sector : Nat) : Option L1Sector :=
  s.l1.find? fun e => decide (e.core = core) && decide (e.sector = sector)

def State.l1Drop (s : State) (core sector : Nat) : State :=
  { s with l1 := s.l1.filter fun e => !(decide (e.core = core) && decide (e.sector = sector)) }

def State.l1Put (s : State) (e : L1Sector) : State :=
  let s := s.l1Drop e.core e.sector
  { s with l1 := e :: s.l1 }

/-- A byte that the L1 holds. -/
def State.l1Byte (s : State) (core key : Nat) : Option Byte :=
  match s.l1At core (key / 32) with
  | none => none
  | some e => if e.valid.getLsbD (key % 32) then some (e.data.getD (key % 32) 0#8) else none

/-- A byte as the waves of a core see it: its L1, else its home. -/
def State.seenByte (s : State) (core : Nat) (mx : Bool) (key : Nat) : Byte :=
  if s.l1 = [] then s.readByte mx key
  else
    match s.l1Byte core key with
    | some b => b
    | none => s.readByte mx key

def State.seenBytes (s : State) (core : Nat) (mx : Bool) (key : Nat) : Nat → List Byte
  | 0 => []
  | n + 1 => s.seenByte core mx key :: s.seenBytes core mx (key + 1) n

/-- The mask of the bytes of a sector that a range covers. -/
def coverMask (sector key n : Nat) : Word :=
  maskOf ((upto 32).filter fun i => decide (key ≤ 32 * sector + i) && decide (32 * sector + i < key + n))

/-- The written bytes of a sector go to its home; an error that cannot be corrected goes with them as poison (R65,
R109). A sector whose every byte was written clears poison; a home that discards the write counts it once (R62). -/
def State.writeBackOf (s : State) (e : L1Sector) : State :=
  if e.written = 0#32 then s
  else
    let s :=
      if e.written = BitVec.allOnes 32 || (s.aliasAt (32 * e.sector)).isSome then s.writeBytes (32 * e.sector) e.data
      else (lanesOf e.written).foldl
        (fun (s : State) i => s.writeBytes (32 * e.sector + i) [e.data.getD i 0#8]) s
    if e.bad then s.poisonSector e.sector else s

/-- A sector written back. It is kept clean where every byte of it is valid: bytes of one age are never joined to others
that come from the home later (R103). -/
def State.writeBack (s : State) (core sector : Nat) : State :=
  match s.l1At core sector with
  | none => s
  | some e =>
    if e.valid = BitVec.allOnes 32 then (s.writeBackOf e).l1Put { e with written := 0#32, bad := false }
    else (s.writeBackOf e).l1Drop core sector

/-- A sector written back and dropped (R53, R118). -/
def State.l1Flush (s : State) (core sector : Nat) : State :=
  match s.l1At core sector with
  | none => s
  | some e => (s.writeBackOf e).l1Drop core sector

/-- A line written back and dropped, sector by sector. -/
def State.l1FlushLine (s : State) (core line : Nat) : State :=
  (upto 4).foldl (fun (s : State) i => s.l1Flush core (4 * line + i)) s

/-- The lines of a range written back and dropped. -/
def State.l1FlushRange (s : State) (core key n : Nat) : State :=
  if s.l1 = [] then s
  else (((sectorsOf key n).map lineOf).eraseDups).foldl (fun (s : State) l => s.l1FlushLine core l) s

/-- The scratchpad ways S of a core (R43). -/
def State.waysOf (s : State) (core : Nat) : Nat := Sparse.get 20 s.ways core

/-- The lines that a core's L1 holds, and how many it has room for: 1,024 in each of its ways (R43, R52). -/
def State.l1Lines (s : State) (core : Nat) : List Nat :=
  ((s.l1.filter (·.core = core)).map fun e => lineOf e.sector).eraseDups

def State.l1Cap (s : State) (core : Nat) : Nat := 1024 * (24 - s.waysOf core)

/-- The lines of a core's L1 that were allocated as next victims, the newest first (R53). -/
def State.l1Victims (s : State) (core : Nat) : List Nat :=
  ((s.l1.filter fun e => decide (e.core = core) && e.next).map fun e => lineOf e.sector).eraseDups

/-- Room for a line in a core's L1 (R43, R52, R53): where the L1 is full, the oldest of its lines that were allocated as next
victims, else one of its lines, which the manual leaves open, is written back and dropped (log entry 45). No L1 holds fewer
than 4,096 lines. -/
def State.l1Room (s : State) (core line : Nat) : State :=
  if s.l1.length < 4096 then s
  else
    let held := s.l1Lines core
    if held.contains line || decide (held.length < s.l1Cap core) then s
    else
      match (s.l1Victims core).getLast? with
      | some l => s.l1FlushLine core l
      | none =>
        let (i, s) := s.draw
        s.l1FlushLine core (held.getD ((Config.freeDWord i).toNat % held.length) 0)

/-- An access under policy code 2 allocates its line as the next victim (R53). -/
def strmPolicy (policy : BitVec 2) : Bool := policy == 2#2

/-- A read miss fills the sectors of a range: the bytes that the L1 did not hold come from the home; `next` makes next victims
of lines that are new (R53). A home in error gives none (R52, R65). -/
def State.l1Fill (s : State) (core : Nat) (mx next : Bool) (key n : Nat) : State :=
  (sectorsOf key n).foldl
    (fun (s : State) q =>
      match s.l1At core q with
      | some e =>
        if e.valid = BitVec.allOnes 32 || s.anyPoison (32 * q) 32 then s
        else s.l1Put { e with data := s.seenBytes core mx (32 * q) 32, valid := BitVec.allOnes 32 }
      | none =>
        if s.anyPoison (32 * q) 32 then s
        else
          (s.l1Room core (lineOf q)).l1Put
            ⟨core, q, s.readBytes mx (32 * q) 32, BitVec.allOnes 32, 0#32, 0#32, 0#32, 0#64, false,
              next && !(s.l1Lines core).contains (lineOf q)⟩) s

/-- A store into the L1: its bytes are valid and written, and the sector remembers the store (R52, R367); `next` makes a next
victim of a line that is new (R53). One that covers the sector whole makes it sound again (R65). -/
def State.l1Store (s : State) (core : Nat) (next : Bool) (key : Nat) (bs : List Byte) (hdl proc : Handle) (pc : DWord) :
    State :=
  (sectorsOf key bs.length).foldl
    (fun (s : State) q =>
      let m := coverMask q key bs.length
      let old := s.l1At core q
      let data := (upto 32).map fun i =>
        if m.getLsbD i then bs.getD (32 * q + i - key) 0#8
        else
          match old with
          | some e => e.data.getD i 0#8
          | none => 0#8
      let valid := ((old.map (·.valid)).getD 0#32) ||| m
      let written := ((old.map (·.written)).getD 0#32) ||| m
      let bad := (old.map (·.bad)).getD false && decide (m ≠ BitVec.allOnes 32)
      let nx := match old with
        | some e => e.next && next
        | none => next && !(s.l1Lines core).contains (lineOf q)
      (s.l1Room core (lineOf q)).l1Put ⟨core, q, data, valid, written, hdl, proc, pc, bad, nx⟩) s

/-- A sector that an instruction's stores cover whole holds no error (R65). -/
def State.l1Sound (s : State) (core sector : Nat) : State :=
  { s with l1 := s.l1.map fun e => if e.core = core ∧ e.sector = sector then { e with bad := false } else e }

/-- Every dirty sector of a core written back. -/
def State.cleanCore (s : State) (core : Nat) : State :=
  (s.l1.filter fun e => decide (e.core = core) && decide (e.written ≠ 0#32)).foldl
    (fun (s : State) e => s.writeBack core e.sector) s

/-- What a core's L1 holds without having been written is dropped (R109). -/
def State.invalidateCore (s : State) (core : Nat) : State :=
  let keep := s.l1.filter fun e => !(decide (e.core = core) && decide (e.written = 0#32))
  { s with l1 := keep.map fun e => if e.core = core then { e with valid := e.written } else e }

/-- The sectors of a range that a core's L1 holds go to their homes before an access is made there (R104, R118). -/
def State.l1Home (s : State) (core : Nat) (keys : List Nat) (n : Nat) : State :=
  if s.l1 = [] then s
  else keys.foldl (fun (s : State) k => if isSpKey k then s else s.l1FlushRange core k n) s

/-- Every L1 of the package written back and emptied, as the drain of a downgrade does for its range (R31). -/
def State.drainAll (s : State) : State :=
  let s := s.l1.foldl (fun (s : State) e => s.writeBackOf e) s
  { s with l1 := [] }

/-- The release or acquire reaches beyond the core (R109). -/
def wide : Scope → Bool
  | .wave | .team | .core => false
  | _ => true

/-- A release by a core (R109): its L1 is written back, and the sectors that held an error that cannot be corrected are
named (R367). -/
def State.release (s : State) (core : Nat) (sc : Scope) : State × List L1Sector :=
  if wide sc then
    (s.cleanCore core, s.l1.filter fun e => decide (e.core = core) && e.bad && decide (e.written ≠ 0#32))
  else (s, [])

/-- An acquire by a core (R109). -/
def State.acquire (s : State) (core : Nat) (acq : Bool) : State := if acq then s.invalidateCore core else s

end Sys2Proof.Machine
end

