-- ==== Sys2Proof/Machine/Translate.lean ====
section
/-! DEFINITION. Page tables, leases, the TLBs and the device translation cache, copy-on-write of code frames
(01 R13 to R34, 07 R209). -/

namespace Sys2Proof.Machine

/-- The code of a cause (R37, R45). -/
def Cause.code : Cause → Nat
  | .notpresent => 0 | .noncanon => 1 | .malformed => 2 | .hostrefused => 3 | .peerrefused => 4
  | .perm => 5 | .privilege => 6 | .mxwrite => 7 | .spbound => 8 | .quota => 5 | .hostpending => 15 | .hostmiss => 15

/-- The kinds of access that translation judges (R24). -/
inductive Kind | load | store | rmw | ctrRead | ctrWrite | fetch
deriving DecidableEq, Repr

/-- The access has write intent (R27). -/
def Kind.writes : Kind → Bool
  | .store | .rmw | .ctrWrite => true
  | _ => false

/-! ### Leaf fields (R17) -/

def pteV (p : DWord) : Bool := p.getLsbD 0
def pteLeaf (p : DWord) : Bool := p.getLsbD 1
def pteR (p : DWord) : Bool := p.getLsbD 2
def pteW (p : DWord) : Bool := p.getLsbD 3
def pteX (p : DWord) : Bool := p.getLsbD 4
def ptePriv (p : DWord) : Bool := p.getLsbD 5
def pteType (p : DWord) : Nat := bits p.toNat 6 2
def pteTarget (p : DWord) : Nat := bits p.toNat 8 2
def pteAttr (p : DWord) : Nat := bits p.toNat 10 2
def pteLease (p : DWord) : Nat := bits p.toNat 12 4
def pteFrame (p : DWord) : Nat := bits p.toNat 16 36 * 65536
def ptePkg (p : DWord) : Nat := bits p.toNat 52 7
def pteD (p : DWord) : Bool := p.getLsbD 61

/-- The duration of a lease code, in ns (R21). -/
def leaseNs : Nat → Nat
  | 1 => 2000 | 2 => 5000 | 3 => 10000 | 4 => 20000 | 5 => 50000
  | 6 => 100000 | 7 => 200000 | 8 => 500000 | 9 => 1000000 | _ => 50000

/-- A local address that the map of R15 gives, and that a PTE may name (R19). -/
def mapped (pa : Nat) : Bool := isDram pa || isReg pa || isWindow pa

/-- The conditions of R19 and R61 on a leaf at a level, for the page at `va`. Two points that R19 leaves open are the model's
choice (log entry 45): a large leaf is judged by the frame that it names, wherever its page ends; and a type-2 leaf with
`target` 2 is malformed. -/
def State.leafOk (s : State) (p : DWord) (lvl : Nat) (va : Nat) : Bool :=
  let size := if lvl = 1 then 2 ^ 30 else if lvl = 2 then 2 ^ 21 else 2 ^ 16
  let f := pteFrame p
  let shadowed := s.mxAlias.any fun e =>
    aliasEn e.2 && decide (f < aliasShadow e.2 + 65536 * aliasFrames e.2) && decide (aliasShadow e.2 < f + size)
  let within := s.mxAlias.any fun e =>
    aliasEn e.2 && decide (aliasShadow e.2 ≤ f) && decide (f + size ≤ aliasShadow e.2 + 65536 * aliasFrames e.2)
  lvl != 0 && !p.getLsbD 59 && (ptePkg p == 0 || pteTarget p == 2) && pteTarget p != 3 && pteAttr p != 3 &&
    decide (pteLease p < 10) && f % size == 0 &&
    (pteTarget p != 0 ||
      (mapped f && (!isReg f || (ptePriv p && pteAttr p == 2)) && (!isWindow f || ptePriv p))) &&
    !(pteType p == 1 && (pteX p || pteTarget p == 1)) &&
    !(pteType p == 2 && (pteW p || pteX p || pteTarget p == 1)) &&
    !(pteType p == 3 && (decide (lvl < 3) || decide (pteLease p > 1))) &&
    (decide (va < 2 ^ 55) || ptePriv p) &&
    (if pteTarget p = 0 then (if pteType p = 2 then within else !shadowed) else pteType p != 2)

/-- Shift, index bits, and alignment of the next table, of the levels 0 to 3 (R16). -/
def walkLevels : List (Nat × Nat × Nat) := [(43, 13, 65536), (30, 13, 4096), (21, 9, 256), (16, 5, 1)]

/-- Where a walk ends: a leaf with its level and the address of its PTE (0 for one that the HKU holds), or a cause. -/
abbrev WalkEnd := Except Cause (Nat × Nat × DWord)

/-- The walk through the levels from a table address (R16, R18, R19). -/
def State.walkFrom (s : State) (va : Nat) : List (Nat × Nat × Nat) → Nat → Nat → WalkEnd
  | [], _, _ => .error .malformed
  | (sh, n, al) :: rest, lvl, table =>
    let addr := table + 8 * bits va sh n
    let p := s.rawDWord addr
    if !pteV p then .error .notpresent
    else if pteLeaf p then (if s.leafOk p lvl va then .ok (lvl, addr, p) else .error .malformed)
    else
      let next := bits p.toNat 8 44 * 256
      if lvl = 3 || bits p.toNat 52 10 != 0 || bits p.toNat 2 6 != 0 || next % al != 0 || !isDram next then
        .error .malformed
      else s.walkFrom va rest (lvl + 1) next

/-- The walk of a virtual address of a process (R13, R14, R16). A leaf that the HKU wrote where no table reaches
stands in `leaves` (log entry 16). -/
def State.walk (s : State) (proc : Handle) (va : Nat) : WalkEnd :=
  if va ≥ 2 ^ 56 then .error .noncanon
  else if va < 65536 then .error .notpresent
  else
    match s.leaves.find? fun l => decide (l.1 = proc) && decide (l.2.1 = va / 65536) with
    | some (_, _, p) =>
      if !pteV p then .error .notpresent
      else if s.leafOk p 3 va then .ok (3, 0, p) else .error .malformed
    | none =>
      match s.proc proc with
      | none => .error .malformed
      | some p =>
        let root := p.ptroot.toNat
        if root % 65536 = 0 ∧ isDram root then s.walkFrom va walkLevels 0 root else .error .malformed

def levelSize (lvl : Nat) : Nat := if lvl = 1 then 2 ^ 30 else if lvl = 2 then 2 ^ 21 else 2 ^ 16

/-- A frame of the `size` bytes from `f` is a code frame: a code version names it, but for the frames that an open one has
of its own until it is sealed (R208 to R210). -/
def State.holdsCode (s : State) (f size : Nat) : Bool :=
  s.codes.any fun c => c.frames.any fun g => decide (f ≤ g) && decide (g < f + size) && !c.own.contains g

/-- The leaf of a page rewritten, in its table or where the HKU holds it. -/
def State.putLeaf (s : State) (proc : Handle) (va addr : Nat) (p : DWord) : State :=
  if addr = 0 then
    let others := s.leaves.filter fun l => !(decide (l.1 = proc) && decide (l.2.1 = va / 65536))
    { s with leaves := if pteV p then others ++ [(proc, va / 65536, p)] else others }
  else s.putDWord addr p

/-- The address of the level-3 leaf of a page below a table, 0 where the tables do not reach it. -/
def State.slotFrom (s : State) (va : Nat) : List (Nat × Nat × Nat) → Nat → Nat
  | [], _ => 0
  | (sh, n, _) :: rest, table =>
    let addr := table + 8 * bits va sh n
    match rest with
    | [] => addr
    | (_, _, al) :: _ =>
      let p := s.rawDWord addr
      let next := bits p.toNat 8 44 * 256
      if !pteV p || pteLeaf p || next % al != 0 || !isDram next then 0 else s.slotFrom va rest next

/-- A leaf that the HKU writes for a page of a process: in the page's table, or, where no table reaches it, held by the
HKU (R157, R164, log entry 16). -/
def State.mapLeaf (s : State) (proc : Handle) (va : Nat) (p : DWord) : State :=
  let held := s.leaves.any fun l => decide (l.1 = proc) && decide (l.2.1 = va / 65536)
  let addr := match s.proc proc with
    | some q => if held then 0 else s.slotFrom va walkLevels q.ptroot.toNat
    | none => 0
  s.putLeaf proc va addr p

/-- A new slot for an object of a type: the first index at or after the model's mark that is free and not withdrawn
(R153, R154; log entry 3). The fuel passes every index in use. -/
def freeIndexFrom (used : List Nat) (gens : Sparse Nat) (die : Nat) : Nat → Nat → Option Nat
  | 0, _ => none
  | n + 1, i =>
    let idx := die * 524288 + i % 524288
    if used.contains idx || decide (Sparse.get 1 gens idx > 255) then freeIndexFrom used gens die n (i + 1)
    else some idx

/-- The handles of every object. -/
def State.handles (s : State) : List Handle :=
  s.procs.map (·.hdl) ++ s.allWaves.map (·.hdl) ++ s.ports.map (·.hdl) ++ s.sets.map (·.hdl) ++
    s.timers.map (·.hdl) ++ s.codes.map (·.hdl) ++ s.teams.map (·.wave0)

/-- A new handle of a type on a die, or nothing where the die has no free index (R151, R153). -/
def State.newHandle (s : State) (type die : Nat) : Option Handle :=
  let used := s.handles.map hIndex
  (freeIndexFrom used s.gens die (used.length + s.gens.length + 1) s.idxHint).map fun i =>
    hMake type i (Sparse.get 1 s.gens i)

/-- An object's slot freed: its generation moves on (R154). -/
def State.freeSlot (s : State) (h : Handle) : State :=
  { s with gens := Sparse.put 1 s.gens (hIndex h) (hGen h + 1) }

/-- A code version that is withdrawn or superseded, and that nothing is bound to, ends: its frames go back to the free-frame
list where no other version names them, and its slot is freed (R170, R210). -/
def State.reapCode (s : State) (h : Handle) : State :=
  match s.code h with
  | none => s
  | some c =>
    if (c.withdrawn || !c.current) && !(s.allWaves.any (·.codever = h)) && !(s.grids.any (·.codever = h)) then
      let s := { s with codes := s.codes.filter (·.hdl ≠ h) }
      let back := c.frames.filter fun f => !(s.codes.any fun d => d.frames.contains f)
      (s.updProc c.proc fun p => { p with frames := p.frames ++ back }).freeSlot h
    else s

/-- The current version that a write to the code frame `f` at `va` opens or extends: one of the process that names the
frame, else one whose range holds the address (R209; log entry 45). -/
def State.versionWritten (s : State) (proc : Handle) (va f : Nat) : Option CodeVer :=
  let mine := s.codes.filter fun c => decide (c.proc = proc) && c.current
  match mine.find? (·.frames.contains f) with
  | some c => some c
  | none => mine.find? fun c => decide (c.base.toNat ≤ va) && decide (va < c.base.toNat + 65536 * c.frames.length)

/-- The frame table with the new frame entered: at the page of the address where the range holds it, else in the place
of the frame that is copied. -/
def CodeVer.entered (c : CodeVer) (va f nf : Nat) : List Nat :=
  if c.base.toNat ≤ va ∧ va < c.base.toNat + 65536 * c.frames.length then
    c.frames.set ((va - c.base.toNat) / 65536) nf
  else c.frames.map fun x => if x = f then nf else x

/-- The open version of step 1 of R209: the current one, or a new one of the same range that becomes current and stands in its
place in the order of loading (R207). Nothing where the process has no quota or the die no index left for it (R153). -/
def State.openVersion (s : State) (c : CodeVer) : Option (State × Handle) :=
  if !c.sealed then some (s, c.hdl)
  else
    let quota := ((s.proc c.proc).map fun p => p.quota.getD 4 0).getD 0
    if (s.codes.filter (·.proc = c.proc)).length < quota then
      (s.newHandle 6 (hDie c.hdl)).map fun h =>
        ({ s with codes := s.codes.flatMap fun d =>
            if d.hdl = c.hdl then
              [{ d with current := false },
                { c with hdl := h, sealed := false, withdrawn := false, drained := false, own := [] }]
            else [d] }, h)
    else none

/-- Copy-on-write of the code frame under a page (R209): the open version, a frame of the free-frame list, the copy,
the leaf. Where the list is empty the write may not be made; where the new version would exceed a quota or has no index the
instruction traps OBJ_QUOTA (R153; log entry 45). -/
def State.copyCode (s : State) (proc : Handle) (va addr lvl : Nat) (p : DWord) : Except Cause (State × DWord) :=
  let f := pteFrame p
  match (s.proc proc).map (·.frames), s.versionWritten proc va f with
  | some (nf :: rest), some c =>
    if lvl ≠ 3 then .error .perm
    else
      match s.openVersion c with
      | none => .error .quota
      | some o =>
        let s := (o.1.updProc proc fun q => { q with frames := rest }).updCode o.2 fun d =>
          { d with frames := d.entered va f nf, own := nf :: d.own }
        let s := s.copyRange f nf 65536
        let np : DWord := BitVec.ofNat 64 (p.toNat - f + nf)
        .ok ((s.putLeaf proc va addr np).reapCode c.hdl, np)
  | _, _ => .error .perm

/-! ### The horizon (R31) -/

/-- Two pages share a horizon bucket (R31). -/
def sameBucket (p q : Handle) (a b : Nat) : Bool := decide (Config.horizonBucket p a = Config.horizonBucket q b)

/-- A page of a process is a grant-pool page: a lease on it is recorded as one, its leaf is one, or it lies in the grant
window of a port of the process (R20, R31, R164). A page whose leaf has been taken away and that was never leased is told by
the window alone (log entry 45). -/
def State.grantPage (s : State) (proc : Handle) (page : Nat) : Bool :=
  (s.horizons.any fun h => h.grant && decide (h.proc = proc) && decide (h.page = page)) ||
    (s.ports.any fun p => decide (p.proc = proc) && decide (p.gwin.toNat ≤ 65536 * page) &&
      decide (65536 * page < p.gwin.toNat + 65536 * p.gslots)) ||
    (match s.walk proc (65536 * page) with
     | .ok (_, _, p) => decide (pteType p = 3)
     | .error _ => false)

/-- A record counts toward the horizon of some pages: it is of one of them, or, neither being of grant-pool pages, one of
its pages hashes to a bucket of theirs (R31). -/
def Horizon.counts (h : Horizon) (exact : Nat → Bool) (proc : Handle) (page pages : Nat) : Bool :=
  (decide (h.proc = proc) && decide (h.page < page + pages) && decide (page < h.page + h.pages)) ||
    (!h.grant && (upto pages).any fun i => !exact (page + i) &&
      (upto h.pages).any fun j => sameBucket h.proc proc (h.page + j) (page + i))

/-- The horizon of the pages (R31): the latest expiry recorded exactly for a grant-pool page, else in a page's bucket. -/
def State.horizon (s : State) (proc : Handle) (page pages : Nat) : Nat :=
  s.horizons.foldl
    (fun m h => if h.expiry ≤ m then m else if h.counts (s.grantPage proc) proc page pages then h.expiry else m) 0

/-- The latest lease that led to one of `n` host pages (R33). -/
def State.hostHorizon (s : State) (first n : Nat) : Nat :=
  s.horizons.foldl
    (fun m h =>
      match h.host with
      | some p => if p < first + n ∧ first < p + h.pages then max m h.expiry else m
      | none => m) 0

/-- A lease recorded (R31). -/
def State.recordLease (s : State) (h : Horizon) : State :=
  let same : Horizon → Bool := fun o =>
    decide (o.proc = h.proc) && decide (o.page = h.page) && decide (o.pages = h.pages) &&
      decide (o.grant = h.grant) && decide (o.host = h.host)
  match s.horizons.find? same with
  | some o =>
    { s with horizons := s.horizons.map fun x => if same x then { o with expiry := max o.expiry h.expiry } else x }
  | none => { s with horizons := h :: s.horizons }

/-! ### The TLBs (R25) -/

/-- The TLBs that an access of a core searches, in their order; an agent of the die that is no core searches the die's. -/
def tlbLevels : Option Nat → List TlbAt
  | some c => [.core c, .cluster (c / 8), .die]
  | none => [.die]

/-- Entries of a TLB (R25). -/
def TlbAt.size : TlbAt → Nat
  | .core _ => 512
  | .cluster _ => 8192
  | .die => 65536

/-- The entry translates the address and has not ended (R25, R27). -/
def State.tlbLive (s : State) (die : Nat) (proc : Handle) (va : Nat) (t : TlbEntry) : Bool :=
  decide (t.die = die) && decide (t.proc = proc) && decide (t.base ≤ va) && decide (va < t.base + t.size) &&
    decide (s.nowOf die < t.expiry)

/-- A live copy of the address in some TLB of the die. -/
def State.tlbHit (s : State) (die : Nat) (proc : Handle) (va : Nat) : Option TlbEntry :=
  s.tlb.find? (s.tlbLive die proc va)

/-- The copy that one TLB holds of the address, where it serves the access. -/
def State.tlbIn (s : State) (l : TlbAt) (die : Nat) (proc : Handle) (va : Nat) (ok : TlbEntry → Bool) :
    Option TlbEntry :=
  s.tlb.find? fun t => decide (t.held = l) && s.tlbLive die proc va t && ok t

/-- The first copy, in the order of the levels, that serves the access (R25). -/
def State.tlbSearch (s : State) (core : Option Nat) (die : Nat) (proc : Handle) (va : Nat) (ok : TlbEntry → Bool) :
    Option TlbEntry :=
  (tlbLevels core).findSome? fun l => s.tlbIn l die proc va ok

/-- Room in a TLB of a die: where it is full, an entry that the manual leaves open goes (R25; log entry 45). No TLB holds
fewer than 512. -/
def State.tlbRoom (s : State) (l : TlbAt) (die : Nat) : State :=
  if s.tlb.length < 512 then s
  else
    let mine := s.tlb.filter fun t => decide (t.held = l) && decide (t.die = die)
    if mine.length < l.size then s
    else
      let victim := mine[(Config.freeDWord s.fresh).toNat % mine.length]?
      { s with fresh := s.fresh + 1, tlb := s.tlb.filter fun t => decide (some t ≠ victim) }

/-- A copy put into its TLB in place of what that held of the page (R25). -/
def State.tlbPut (s : State) (e : TlbEntry) : State :=
  let other : TlbEntry → Bool := fun t =>
    !(decide (t.held = e.held) && decide (t.die = e.die) && decide (t.proc = e.proc) && decide (t.base = e.base) &&
      decide (t.size = e.size))
  let s := State.tlbRoom { s with tlb := s.tlb.filter other } e.held e.die
  { s with tlb := e :: s.tlb }

/-- The levels above the one that held a copy are filled from it, with its expiry (R25, R27). -/
def State.tlbFill (s : State) (core : Option Nat) (t : TlbEntry) : State :=
  ((tlbLevels core).takeWhile (· ≠ t.held)).foldl (fun (s : State) l => s.tlbPut { t with held := l }) s

/-- A walk with its lease (R27): the PTE's `a` and `d`, copy-on-write, the copies it leaves in the TLBs. Where the lease
would carry `w` on a code frame that cannot be copied, it carries none (R209; log entry 45). -/
def State.walkLease (s : State) (die : Nat) (proc : Handle) (write : Bool) (va : Nat) (core : Option Nat := none) :
    State × Except Cause TlbEntry :=
  match s.walk proc va with
  | .error c => (s, .error c)
  | .ok (lvl, addr, p) =>
    let wanted := pteW p && (write || pteD p)
    let size := levelSize lvl
    let copied : Except Cause (State × DWord × Bool) :=
      if wanted && decide (pteTarget p = 0) && s.holdsCode (pteFrame p) size then
        match s.copyCode proc va addr lvl p with
        | .ok (s, p) => .ok (s, p, true)
        | .error .quota => if write then .error .quota else .ok (s, p, false)
        | .error _ => .ok (s, p, false)
      else .ok (s, p, wanted)
    match copied with
    | .error c => (s, .error c)
    | .ok (s, p, grantsW) =>
      let p' := p ||| BitVec.ofNat 64 (2 ^ 60) ||| (if write && grantsW then BitVec.ofNat 64 (2 ^ 61) else 0#64)
      let s := if p' = p then s else s.putLeaf proc va addr p'
      let dl := match s.proc proc with
        | some q => q.dlease
        | none => 5
      let grant := decide (pteType p = 3)
      let dur := if grant then 2000 else leaseNs (if pteLease p = 0 then dl else pteLease p)
      let base := va / size * size
      let e : TlbEntry := ⟨die, proc, base, size, p', pteR p, grantsW, s.nowOf die + dur, .die⟩
      let s := s.recordLease ⟨proc, base / 65536, size / 65536, e.expiry, grant,
        if pteTarget p = 1 then some (pteFrame p / 65536) else none⟩
      ((s.tlbPut e).tlbFill core e, .ok e)

/-- Whether an entry's permissions allow an access, in the order of R37. A counter instruction on a page of another type is
no matter of permissions: its type rule traps it (R20, R61, R68). -/
def TlbEntry.judge (t : TlbEntry) (priv : Bool) (k : Kind) : Option Cause :=
  if ptePriv t.pte && !priv then some .privilege
  else if pteType t.pte = 2 && k.writes && k != .ctrWrite then some .mxwrite
  else
    let ok :=
      match k with
      | .load => t.r
      | .ctrRead => t.r || pteType t.pte != 1
      | .store => t.w
      | .rmw => t.r && t.w
      | .ctrWrite => (t.r && t.w) || pteType t.pte != 1
      | .fetch => pteX t.pte
    if ok then none else some .perm

/-- A translated byte address: the entry, the address in its own map, and what is left of the page. -/
structure Xlat where
  entry : TlbEntry
  pa : Nat
  left : Nat
deriving DecidableEq, Repr

def TlbEntry.xlat (t : TlbEntry) (va : Nat) : Xlat :=
  ⟨t, pteFrame t.pte + (va - t.base), t.base + t.size - va⟩

/-- Translation of a virtual address (R24 to R27, R37): the first cached copy that allows the access, which fills the levels
above it, else a walk. At a replay every translation walks `anew` (R39). -/
def State.translate (s : State) (die : Nat) (proc : Handle) (priv anew : Bool) (k : Kind) (va : Nat)
    (core : Option Nat := none) : State × Except Cause Xlat :=
  if va ≥ 2 ^ 56 then (s, .error .noncanon)
  else if va < 65536 then (s, .error .notpresent)
  else
    match (if anew then none else s.tlbSearch core die proc va fun t => (t.judge priv k).isNone) with
    | some t => (s.tlbFill core t, .ok (t.xlat va))
    | none =>
      match s.walkLease die proc k.writes va core with
      | (s, .error c) => (s, .error c)
      | (s, .ok t) =>
        match t.judge priv k with
        | some c => (s, .error c)
        | none => (s, .ok (t.xlat va))

/-- The process has a valid PASID binding on the die (R405). -/
def State.bound (s : State) (die : Nat) (proc : Handle) : Bool :=
  s.pasid.any fun e => decide (e.1 / 4096 = die) && e.2.getLsbD 63 && decide (e.2.setWidth 32 = proc)

/-- The device translation step of a host page (R26): allowed, refused, not granted by the host so far, or unknown until
the host answers. A translation that is held without the write that an access needs counts as an answer that does not grant
it: the manual speaks of a miss alone (log entry 45). -/
def State.hostStep (s : State) (die : Nat) (proc : Handle) (iova : Nat) (k : Kind) : Except Cause Unit :=
  if s.hostDown.get die || !s.bound die proc then .error .hostrefused
  else
    match s.atc.find? fun e =>
        decide (e.die = die) && decide (e.proc = proc) && decide (e.page = iova / 65536) &&
          decide (s.nowOf die < e.expiry) with
    | some e => if (if k.writes then e.w else e.r) then .ok () else .error .hostpending
    | none => .error .hostmiss

/-- A package has a working path (R411, R412): some link of its route entry works. -/
def State.pathUp (s : State) (die pkg : Nat) : Bool :=
  let links := Sparse.get 0 s.route (die * 128 + pkg)
  (upto 12).any fun l => links.testBit l && !s.linksDown.contains (die, l)

/-- The key that an access reaches, judged by the host or the peer where the target is theirs (R26, R34, R76). -/
def State.reach (s : State) (die : Nat) (proc : Handle) (k : Kind) (target pkg pa : Nat) : Except Cause Nat :=
  if target = 1 then
    match s.hostStep die proc pa k with
    | .ok _ => .ok (hostKey pa)
    | .error c => .error c
  else if target = 2 then
    if s.pathUp die pkg && s.peerExports.contains (pkg, pa / 65536) then .ok (peerKey pkg pa)
    else .error .peerrefused
  else .ok (localKey pa)

/-- The kinds of a host or device-register page that a reduction may not touch (R272). -/
def reductionBars (target attr : Nat) (intAdd : Bool) : Bool :=
  decide (attr = 2) || (decide (target = 1) && !intAdd)

/-- Where the host decides and no answer of it is held, the answer to this request stands: it comes with the event that the
agent works in (R26). -/
def hostAnswer (a : AtsAnswer) (k : Kind) : Except Cause Unit :=
  match a with
  | .granted r w => if (if k.writes then w else r) then .ok () else .error .hostrefused
  | .error => .error .hostrefused

/-- The key that an agent other than a lane reaches. -/
def State.reachNow (s : State) (die : Nat) (proc : Handle) (k : Kind) (target pkg pa : Nat) : Except Cause Nat :=
  match s.reach die proc k target pkg pa with
  | .error .hostmiss => (hostAnswer s.inp.ats k).map fun _ => hostKey pa
  | .error .hostpending => (hostAnswer s.inp.ats k).map fun _ => hostKey pa
  | r => r

/-- Translation and the last step together, for agents that access one address at a time. -/
def State.resolve (s : State) (die : Nat) (proc : Handle) (priv : Bool) (k : Kind) (va : Nat)
    (core : Option Nat := none) : State × Except Cause (Nat × DWord × Nat) :=
  match s.translate die proc priv false k va core with
  | (s, .error c) => (s, .error c)
  | (s, .ok x) =>
    match s.reachNow die proc k (pteTarget x.entry.pte) (ptePkg x.entry.pte) x.pa with
    | .error c => (s, .error c)
    | .ok key => (s, .ok (key, x.entry.pte, x.left))

/-- The bytes of a memory image that the HKU or an engine reads, page by page; nothing where it does not translate
readable (R325). The manual says nothing of an image, or of a table of a walk, in a sector in error: the bytes that stand there
are read (R65; log entry 45). The fuel is the length. -/
def State.readImage (s : State) (die : Nat) (proc : Handle) (priv : Bool) (va : Nat) :
    Nat → State × Except Cause (List Byte)
  | 0 => (s, .ok [])
  | n + 1 =>
    match s.resolve die proc priv .load va with
    | (s, .error c) => (s, .error c)
    | (s, .ok (key, pte, _)) =>
      match s.readImage die proc priv (va + 1) n with
      | (s, .error c) => (s, .error c)
      | (s, .ok bs) => (s, .ok (s.readByte (pteType pte = 2) key :: bs))

/-- The first byte of an image, of those that translate, that lies in a sector in error: what an engine that reads it meets
(R65). The fuel is the length. -/
def State.badImage (s : State) (die : Nat) (proc : Handle) (priv : Bool) (va : Nat) : Nat → Option Nat
  | 0 => none
  | n + 1 =>
    if s.poison = [] then none
    else
      match s.resolve die proc priv .load va with
      | (_, .error _) => none
      | (_, .ok (key, _, _)) => if s.anyPoison key 1 then some va else s.badImage die proc priv (va + 1) n

end Sys2Proof.Machine
end

