-- ==== Sys2Proof/Machine/Port.lean ====
section
/-! DEFINITION. Object counters, ports, the messages that land in them, the error log and the fault port
(06 R156 to R165, R177, R178; 14 R356 to R363; 22 R427). -/

namespace Sys2Proof.Machine

/-! ### The object pool and the counter area (R151, R157) -/

/-- The size of the object pool (R151). -/
def poolSize : Nat := 16841179136

/-- The size of a wave's context image (R171). -/
def imageSize (vblk ntiles : Nat) : Nat := 2048 + 1024 * vblk + 65536 * ntiles

/-- The slot of an object's fixed part (R151). -/
def slotKey (h : Handle) : Nat := reservedBase (hDie h) + 512 * (hIndex h % 524288)

/-- The rings, counter-area frames and context images that a die's object pool holds: address and length (R151, R157,
R171). -/
def State.poolPieces (s : State) (die : Nat) : List (Nat × Nat) :=
  ((s.ports.filter fun p => decide (p.cwUnit = 0) && decide (hDie p.hdl = die)).map fun p => (p.ring, 64 * 2 ^ p.dlog)) ++
    (s.procs.flatMap fun p => (p.ocFrames.filter fun e => decide (dieOfPa e.2 = die)).map fun e => (e.2, 65536)) ++
    (s.allWaves.filter fun w => decide (hDie w.hdl = die)).map fun w => (w.ctx, imageSize w.vblk w.ntiles)

/-- The bytes of a die's object pool in use: what stands at an address; the spill records of the wait sets, eight each, and of
the 4,096 host-waiter entries; and the entries of the run queues' overflow chains, 8 bytes each (R81, R151, R153, R172). -/
def State.poolUsed (s : State) (die : Nat) : Nat :=
  ((s.poolPieces die).map (·.2)).sum +
    Config.spillBytes * (8 * (s.sets.filter fun t => decide (hDie t.hdl = die)).length + 4096) +
    8 * (s.runq.filter fun q => decide (q.die = die) && q.spilled).length

/-- The lowest free place of `n` bytes of a die's object pool on a boundary, beside the pieces in use (R151; log entry
46). -/
def poolPlace (die : Nat) (used : List (Nat × Nat)) (n align : Nat) : Option Nat :=
  let base := reservedBase die + 0x14300000
  let free : Nat → Bool := fun a =>
    decide (base ≤ a) && decide (a + n ≤ base + poolSize) && !(used.any fun p => decide (a < p.1 + p.2) && decide (p.1 < a + n))
  leastBy (fun a b => decide (a < b))
    ((base :: used.map fun p => (p.1 + p.2 + align - 1) / align * align).filter free)

/-- A free place for a ring or a frame, on a 64 KiB boundary, or nothing where there is no room (R151). -/
def State.poolTake (s : State) (die n : Nat) : Option Nat :=
  if s.poolUsed die + n ≤ poolSize then poolPlace die (s.poolPieces die) n 65536 else none

/-- Places for context images of the sizes given, one after another. -/
def imagePlaces (die : Nat) : List (Nat × Nat) → List Nat → Option (List Nat)
  | _, [] => some []
  | used, n :: t =>
    match poolPlace die used n 1024 with
    | none => none
    | some a => (imagePlaces die ((a, n) :: used) t).map (a :: ·)

/-- Places for new context images, or nothing where the pool has no room for all of them (R151, R153). -/
def State.imagesFor (s : State) (die : Nat) (sizes : List Nat) : Option (List Nat) :=
  if s.poolUsed die + sizes.sum ≤ poolSize then imagePlaces die (s.poolPieces die) sizes else none

/-- Byte `o` of a wave's context image (R22, R171). The first 256 hold what the wave's record holds beside its registers, in an
order that the manual does not give. -/
def Wave.imageByte (w : Wave) (o : Nat) : Option Byte :=
  let byteOf : Nat → Nat → Option Byte := fun v i => some (BitVec.ofNat 8 (v / 256 ^ i))
  let file := 2048 + 1024 * w.vblk
  if o < 256 then none
  else if o < 768 then byteOf (w.getS ((o - 256) / 8)).toNat ((o - 256) % 8)
  else if o < 1280 then byteOf (w.getX ((o - 768) / 32)).toNat (8 * (3 - (o - 768) % 32 / 8) + o % 8)
  else if o < 1312 then byteOf (w.getK ((o - 1280) / 4)).toNat (o % 4)
  else if o < 2048 then some 0#8
  else if o < file then byteOf (Sparse.get 0#32 w.v ((o - 2048) / 4)).toNat (o % 4)
  else if o < file + 65536 * w.ntiles then some (Sparse.get 0#8 w.tile (o - file))
  else none

/-- A wave that holds no slot has its context in its image (R142, R171, R174). -/
def Wave.inImage (w : Wave) : Bool := !(decide (w.st = .resident) || decide (w.st = .waiting))

/-- The wave whose context image holds a byte of the object pool. -/
def State.imageAt (s : State) (key : Nat) : Option Wave :=
  s.allWaves.find? fun w => decide (w.ctx ≤ key) && decide (key < w.ctx + imageSize w.vblk w.ntiles)

/-- A byte of the object pool: of a context image the wave's record gives it, since nothing but the HKU writes an image. -/
def State.poolByte (s : State) (key : Nat) : Option Byte :=
  match s.imageAt key with
  | some w => if w.inImage then w.imageByte (key - w.ctx) else none
  | none => some (s.rawByte key)

/-- A poisoned sector of a wave's context image (R369). -/
def State.imageFault (s : State) (w : Wave) : Option Nat :=
  (s.poison.find? fun e =>
    e.2 && decide (w.ctx ≤ 32 * e.1) && decide (32 * e.1 < w.ctx + imageSize w.vblk w.ntiles)).map (·.1)

/-- The objects that a die can still create: its half of the table, but for the slots in use and those withdrawn (R151,
R154). -/
def State.freeObjects (s : State) (die : Nat) : Nat :=
  let used := ((s.handles.map hIndex).filter fun i => decide (i / 524288 = die)).eraseDups
  let worn := s.gens.filter fun e => decide (e.1 / 524288 = die) && decide (255 < e.2) && !used.contains e.1
  524288 - used.length - worn.length

/-- The key of an object's counter pair; 0 where its page has no frame (R157). -/
def State.pairKey (s : State) (proc h : Handle) : Nat :=
  match s.proc proc with
  | none => 0
  | some p =>
    match p.ocFrames.find? (·.1 = hIndex h / 4096) with
    | some (_, f) => f + 16 * (hIndex h % 4096)
    | none => 0

/-- The leaf of an object-counter page: type C, `r`, lease code 0 (R157). -/
def ocLeaf (frame : Nat) : DWord := BitVec.ofNat 64 (frame + 2 ^ 6 + 2 ^ 2 + 3)

/-- The counter pair of a new object: its page gets a frame and a mapping where it has none, and both counters read
0, OK (R157). -/
def State.newPair (s : State) (proc h : Handle) : Option State :=
  let pg := hIndex h / 4096
  match s.proc proc with
  | none => none
  | some p =>
    let s' :=
      if p.ocFrames.any (·.1 = pg) then some s
      else
        match s.poolTake (hDie h) 65536 with
        | none => none
        | some f =>
          let s := s.updProc proc fun q => { q with ocFrames := q.ocFrames ++ [(pg, f)] }
          some (s.mapLeaf proc (p.ocbase.toNat + 65536 * pg) (ocLeaf f))
    s'.map fun s =>
      let k := s.pairKey proc h
      (s.ctrInit k 0#64).ctrInit (k + 8) 0#64

/-! ### Ports -/

def Port.depth (p : Port) : Nat := 2 ^ p.dlog

/-- Places of a port that are taken or promised (R162 reason 4). -/
def Port.load (p : Port) : Nat := p.msgs.length + p.held

def State.arrivalKey (s : State) (p : Port) : Nat := s.pairKey p.proc p.hdl
def State.consumedKey (s : State) (p : Port) : Nat := s.pairKey p.proc p.hdl + 8

/-- The name of a port of this package (R159). -/
def State.portName (s : State) (h : Handle) : DWord :=
  BitVec.ofNat 64 (s.pkg * 2 ^ 28 + h.toNat % 2 ^ 28)

/-- The handle of a live port that a name of this package names (R159). -/
def State.portOfName (s : State) (n : DWord) : Option Port :=
  if bits n.toNat 35 29 = 0 ∧ bits n.toNat 28 7 = s.pkg then
    s.port (hMake 3 0 0 ||| BitVec.ofNat 32 (bits n.toNat 0 28))
  else none

/-- A package that the load-store domain reaches from a die has a route entry (R411); any other is reached over
Ethernet (R414). -/
def State.inDomain (s : State) (die pkg : Nat) : Bool := Sparse.get 0 s.route (die * 128 + pkg) != 0

/-- A die has lost the Ethernet path to a package: each of its three ports has (R413, R414). -/
def State.ethLost (s : State) (die pkg : Nat) : Bool :=
  (upto 3).all fun p => s.ethDown.any fun e => decide (e.die = die) && decide (e.pkg = pkg) && decide (e.port = p)

/-- The clock since when a die has lost the path to a package through every port (R414). -/
def State.ethLostSince (s : State) (die pkg : Nat) : Nat :=
  (s.ethDown.filter fun e => decide (e.die = die) && decide (e.pkg = pkg)).foldl (fun m e => max m e.since) 0

/-- The path to another package works: some link of its route entry (R412), or a scale-out entry and an Ethernet port that has
not lost it (R414). -/
def State.peerUp (s : State) (die pkg : Nat) : Bool :=
  if s.inDomain die pkg then s.pathUp die pkg
  else Sparse.get 0#256 s.scaleOut (die * 128 + pkg) != 0#256 && !s.ethLost die pkg

/-- A connection of the datagram transport: one for each pair of dies (R413). -/
def connection (die pkg peer : Nat) : Nat := (die * 128 + pkg) * 2 + peer

/-- A datagram of a kind is sent on a connection under its next sequence number, of 32 bits (R413). -/
def State.datagram (s : State) (die pkg peer kind len sent flight : Nat) : State :=
  let k := connection die pkg peer
  let q := (Sparse.get 0 s.etherSeq k + 1) % 2 ^ 32
  { s with etherSeq := Sparse.put 0 s.etherSeq k q,
           unacked := s.unacked ++ [⟨die, pkg, peer, kind, q, sent, sent, flight, s.datagramPort, len⟩] }

/-- Bytes sent now on a connection, in datagrams of at most 4,096 (R413). -/
def State.sendPieces (s : State) (die pkg peer kind n flight : Nat) : State :=
  (upto ((n + 4095) / 4096)).foldl
    (fun (s : State) i => s.datagram die pkg peer kind (min 4096 (n - 4096 * i)) (s.nowOf die) flight) s

/-- The header of a datagram as it is sent, or sent again, now (R413). -/
def State.datagramHeader (s : State) (d : Datagram) : List Byte :=
  let r := Sparse.get ⟨0#32, 0#64⟩ s.etherIn (connection d.die d.pkg d.peer)
  [1#8, BitVec.ofNat 8 d.kind] ++ bytesOfNat 2 d.len ++ bytesOfNat 2 (128 * d.die + s.pkg) ++
    bytesOfNat 2 (128 * d.peer + d.pkg) ++ bytesOfNat 4 d.seq ++ bytesOfNat 4 r.ack.toNat ++ bytesOfNat 8 r.sack.toNat ++
    bytesOfNat 8 d.tsend

/-- The delivery class of a port of another package (R161). -/
def State.farClass (s : State) (die pkg : Nat) : Nat := if s.inDomain die pkg then 2 else 3

/-- A message sets out for a port of another package: a place and grant credits of what this package keeps of it are taken, and
across Ethernet it is a datagram (R161, R164, R413). -/
def State.sendFar (s : State) (name : DWord) (credits : Nat) (f : Flight) : State :=
  let far := s.farPorts.map fun e => if e.1 = name then (e.1, e.2.1, e.2.2.1 - 1, e.2.2.2 - credits) else e
  let s : State := { s with flights := s.flights ++ [f], farPorts := far }
  if f.cls = 3 then s.datagram f.senderDie f.pkg (hDie f.port) 0 64 f.sent f.uid else s

/-- A port that the HKU of a die serves in a role (R436). -/
def State.rolePort (s : State) (die : Nat) (r : PortRole) : Option Port :=
  s.ports.find? fun p => decide (p.role = r) && decide (hDie p.hdl = die)

/-- The place of a wave in the order in which PRECVs reached the HKU (R163). -/
def Wave.place (w : Wave) : Nat :=
  match w.await with
  | .message _ _ _ n => n
  | _ => 0

/-- The wave that has waited longest for a message of a port (R163). -/
def State.receiver (s : State) (h : Handle) : Option Wave :=
  leastBy
    (fun a b => decide (a.place < b.place) || (decide (a.place = b.place) && decide (a.hdl.toNat < b.hdl.toNat)))
    (s.allWaves.filter fun w =>
      match w.await with
      | .message p _ _ _ => decide (p = h) && !w.due
      | _ => false)

/-- What the device does with a message that has landed: whoever serves the port is told. -/
def State.announce (s : State) (p : Port) : State :=
  match p.role with
  | .root => s.oweIn .rootPortLaunch { die := hDie p.hdl }
  | .downgrade => s.oweIn .downgradeMessage { die := hDie p.hdl }
  | .service => s.oweIn .faultReply { die := hDie p.hdl }
  | .media e => s.oweIn .mediaDecode { n := e }
  | _ =>
    match s.receiver p.hdl with
    | none => s
    | some w => s.owe (.waiterWake w.hdl 0#64 .ok)

/-- Messages written into consecutive ring slots, with one arrival add (R163, R356). -/
def State.landSlots (s : State) (h : Handle) (slots : List (List Byte × Landed)) : State :=
  match s.port h with
  | none => s
  | some p =>
    let a := (s.ctrValue (s.arrivalKey p)).toNat
    let idx : List (Nat × List Byte × Landed) := (upto slots.length).zip slots
    let s := idx.foldl (fun s e => s.putBytes (p.ring + 64 * ((a + e.1) % p.depth)) e.2.1) s
    let new := idx.map fun e => { e.2.2 with slot := (a + e.1) % p.depth }
    let s := s.updPort h fun q => { q with msgs := q.msgs ++ new }
    let s := s.ctrAdd (s.arrivalKey p) (BitVec.ofNat 64 slots.length)
    s.announce p

/-- A message of this device that has no journal record and no grants. -/
def plainLanded (sender : Handle) (cls : Nat) : Landed := ⟨0, none, sender, cls, [], 0#32, false⟩

/-- The record of the journal with a sequence number (R178). -/
def journalKey (die seq : Nat) : Nat := reservedBase die + 0x14000000 + 64 * ((seq - 1) % 16384)

/-- The oldest reply that waits for a port is tried again (R177). -/
def State.retryReplies (s : State) (name : DWord) : State :=
  match s.pendReplies.find? (·.name = name) with
  | some r => s.owe (.kernelReplyRetry r.uid)
  | none => s

/-- The oldest message of a port taken: its slot's bytes, the time in its journal record where that is still its own, and the
consumed counter advanced, which retries what the port could not take (R38, R163, R177, R178, R228). -/
def State.takeMessage (s : State) (h : Handle) : Option (State × List Byte × Landed) :=
  match s.port h with
  | none => none
  | some p =>
    match p.msgs with
    | [] => none
    | m :: rest =>
      let bs := Sparse.getList Memory.unlisted s.mem (p.ring + 64 * m.slot) 64
      let s := s.updPort h fun q => { q with msgs := rest }
      let die := hDie h
      let s := match m.seq with
        | some q =>
          let k := journalKey die q
          if s.rawNat k 8 ≠ q then s
          else
            let s := s.putBytes (k + 32) (bytesOfNat 8 (s.nowOf die))
            if s.rawByte (k + 56) = 0#8 then s.putBytes (k + 56) [1#8] else s
        | none => s
      let s := s.ctrAdd (s.consumedKey p) 1#64
      let s := if s.pendFaults.any (·.port = h) then s.oweIn .pendingFaultSend { h := h } else s
      let s := if s.pendSvc.any (·.port = h) then s.oweIn .svcBatchPendingWrite { h := h } else s
      some (s.retryReplies (s.portName h), bs, m)

/-! ### CRC-64 (R178) -/

/-- One bit of the reflected CRC-64 with polynomial 0x42F0_E1EB_A9EA_3693. -/
def crcBit (c : Nat) : Nat := if c % 2 = 1 then (c / 2) ^^^ 0xC96C5795D7870F42 else c / 2

def crcByte (c : Nat) (b : Byte) : Nat :=
  crcBit (crcBit (crcBit (crcBit (crcBit (crcBit (crcBit (crcBit (c ^^^ b.toNat))))))))

/-- The CRC-64 of some bytes, initial value and final XOR all ones. -/
def crc64 (bs : List Byte) : Nat := bs.foldl crcByte (2 ^ 64 - 1) ^^^ (2 ^ 64 - 1)

/-! ### The error log (R427) -/

/-- A record of the error log: what it is, and its bytes 16 to 63. -/
def State.logRecord (s : State) (die src : Nat) (body : List Byte) : State :=
  let seq := s.eseq.get die
  let k := reservedBase die + 0x14100000 + 64 * ((seq - 1) % 16384)
  let bs := bytesOfNat 8 seq ++ [BitVec.ofNat 8 src, BitVec.ofNat 8 die] ++ List.replicate 6 0#8 ++
    bytesAt body 0 48
  { s.putBytes k bs with eseq := s.eseq.set die (seq + 1) }

/-! ### The fault port (R356, R357) -/

/-- The 16 bytes of a header (R160). -/
def header (reply : DWord) (sender : Handle) (tag cls ngr : Nat) : List Byte :=
  bytesOfNat 8 reply.toNat ++ bytesOfNat 4 sender.toNat ++
    [BitVec.ofNat 8 tag, BitVec.ofNat 8 (cls * 8 + ngr), 0#8, 0#8]

/-- The flags byte of R357. -/
def Wave.flags (w : Wave) : Nat :=
  (if w.uiAct then 2 else 0) +
    (match w.pair with
     | some p => if p.side1 then 4 else 0
     | none => 0)

/-- The live fault port of a process, or nothing (R356). -/
def State.faultPort (s : State) (proc : Handle) : Option Port :=
  match s.proc proc with
  | none => none
  | some p => if p.fport = 0#32 then none else s.port p.fport

/-- The delivery class of a port of this package seen from a die (R161). -/
def classFrom (die : Nat) (h : Handle) : Nat := if hDie h = die then 0 else 1

/-- A message on the fault port of a process: landed, or kept pending while the port is full (R38, R356, R357). The
payload of the first slot begins at byte 16; later slots are whole. -/
def State.sendFault (s : State) (proc : Handle) (die : Nat) (sender : Handle) (kind : Nat)
    (payload : List Byte) (more : List (List Byte)) : State :=
  match s.faultPort proc with
  | none => s
  | some p =>
    let reply := match s.rolePort die .service with
      | some q => s.portName q.hdl
      | none => 0#64
    let cls := classFrom die p.hdl
    let slots := (header reply sender kind cls 0 ++ bytesAt payload 0 48) :: more
    if !p.broken && decide (p.load + slots.length ≤ p.depth) then
      s.landSlots p.hdl (slots.map fun b => (b, plainLanded sender cls))
    else { s with pendFaults := s.pendFaults ++ [⟨die, p.hdl, 0#64, slots, sender, 0⟩] }

/-- A reply is kept until it can be tried again (R177). -/
def State.keepReply (s : State) (die : Nat) (port : Handle) (name : DWord) (bytes : List Byte) : State :=
  let (uid, s) := s.newUid
  { s with pendReplies := s.pendReplies ++ [⟨die, port, name, [bytes], 0#32, uid⟩] }

/-- The package that a name names (R159). -/
def pkgOfName (name : DWord) : Nat := bits name.toNat 28 7

/-- The handle of the port that a name names at its home (R159). -/
def handleOfName (name : DWord) : Handle := hMake 3 0 0 ||| BitVec.ofNat 32 (bits name.toNat 0 28)

/-- A message from the HKU to a port by name, as a reply (R177): landed, or on its way to another package, or kept pending. A
port that is not there, or of which this package knows nothing, takes none. -/
def State.sendReply (s : State) (die : Nat) (name : DWord) (bytes : List Byte) : State :=
  let pkg := pkgOfName name
  if pkg = s.pkg then
    match s.portOfName name with
    | none => s
    | some p =>
      if !p.broken && decide (p.load < p.depth) then
        s.landSlots p.hdl [(bytes, plainLanded 0#32 (classFrom die p.hdl))]
      else s.keepReply die p.hdl name bytes
  else
    match s.farPorts.find? (·.1 = name) with
    | none => s
    | some (_, _, places, _) =>
      if s.peerUp die pkg && decide (places ≠ 0) then
        let (uid, s) := s.newUid
        (s.sendFar name 0
          ⟨uid, handleOfName name, pkg, bytes, s.farClass die pkg, s.nowOf die, 0#32, die, 0#32, false, 0#32, []⟩).owe
            (.messageLanding uid)
      else s.keepReply die (handleOfName name) name bytes

/-- The reply of the kernel protocol to a request (R177). -/
def State.answer (s : State) (die : Nat) (request : List Byte) (status : Nat) : State :=
  let reply : DWord := BitVec.ofNat 64 (natAt request 0 8)
  if reply = 0#64 then s
  else
    let cls := if pkgOfName reply = s.pkg then classFrom die (handleOfName reply) else s.farClass die (pkgOfName reply)
    s.sendReply die reply
      (header 0#64 0#32 0 cls 0 ++ bytesAt request 8 4 ++ bytesAt request 12 1 ++ List.replicate 3 0#8 ++
        bytesOfNat 4 status ++ List.replicate 36 0#8)

/-! ### Engine addresses of counters (R311, R315) -/

/-- The cell that an engine address names for an add or a break, or the cause of R315 that makes it unusable. An address of
no counter, out of alignment or with a reserved bit, which only `xctr` and `done` may hold, is taken to be refused (R311,
R326, R327; log entry 21). -/
def State.ctrTarget (s : State) (die : Nat) (proc : Handle) (priv : Bool) (team : Nat) (a : DWord) :
    State × Except Nat Nat :=
  let tag := bits a.toNat 56 8
  if tag / 16 ≠ 9 ∧ a.toNat % 8 ≠ 0 then (s, .error 9)
  else if tag = 0 then
    match s.resolve die proc priv .ctrWrite a.toNat with
    | (s, .error c) => (s, .error c.code)
    | (s, .ok (key, pte, _)) => if pteType pte = 1 then (s, .ok key) else (s, .error 15)
  else if tag = 0x80 ∧ bits a.toNat 22 34 = 0 then
    let off := bits a.toNat 0 22
    match s.team team with
    | some t => if off + 8 ≤ t.units * 16384 then (s, .ok (spKey t.uid off)) else (s, .error 8)
    | none => (s, .error 8)
  else if tag / 16 = 9 then
    match s.refKey proc a with
    | some k => (s, .ok k)
    | none => (s, .error 9)
  else (s, .error 9)

/-- An engine-fault message (R362). -/
def State.sendEngineFault (s : State) (r : EngRecord) (observer : Handle) (wpc : DWord) : State :=
  s.sendFault r.proc r.die observer 3
    (bytesOfNat 8 r.opc.toNat ++ bytesOfNat 8 wpc.toNat ++ bytesOfNat 4 r.proc.toNat ++
      bytesOfNat 4 r.owave.toNat ++ bytesOfNat 8 r.addr.toNat ++ bytesOfNat 8 r.ctr.toNat ++
      [BitVec.ofNat 8 r.path, BitVec.ofNat 8 r.cause, BitVec.ofNat 8 r.member] ++ List.replicate 5 0#8) []

/-- Every record held on a counter is sent, in order, with the observer's PC (R315). -/
def State.sendRecords (s : State) (key : Nat) (observer : Handle) (wpc : DWord) : State :=
  if s.engRecords = [] then s
  else
    let mine := s.engRecords.filter (·.key = key)
    let s := { s with engRecords := s.engRecords.filter (·.key ≠ key) }
    mine.foldl (fun s r => s.sendEngineFault r observer wpc) s

/-- An add or break by the HKU to an engine address; a counter that cannot be reached is reported (R315, R326, R327). -/
def State.hkuCounter (s : State) (die : Nat) (proc : Handle) (team : Nat) (a : DWord) (op : CtrOp)
    (opc : DWord) (owave : Handle) : State :=
  match s.ctrTarget die proc true team a with
  | (s, .ok key) => s.ctrPerform key op
  | (s, .error c) => s.sendEngineFault ⟨0, a, proc, die, opc, owave, a, 6, c, 0xFF⟩ 0#32 0#64

end Sys2Proof.Machine
end

