-- ==== Sys2Proof/Machine/Life.lean ====
section
/-! DEFINITION. The life of a wave between its instructions: moving past one, its slots, queues, waiting and waking, machine
checks, retiring and being killed (R105, R140 to R144, R361, R365, R372). -/

namespace Sys2Proof.Machine

/-! ### The PC and the flags -/

def Wave.advance (w : Wave) (n : Nat) : Wave :=
  { w with pc := w.pc + BitVec.ofNat 64 n, unf := 0#32, unfKind := .no, gathB := false, gathF := false }

/-- The wave at issue moves past its instruction of `n` bytes. -/
def State.next (s : State) (n : Nat) : State := s.onWave (·.advance n)

/-- The wave at issue continues at a PC. -/
def State.jump (s : State) (pc : DWord) : State :=
  s.onWave fun w => { w with pc := pc, unf := 0#32, unfKind := .no, gathB := false, gathF := false }

/-- cc with one flag written: 0 Z, 1 N, 2 C, 3 V, 4 B, 5 F (R212). -/
def setFlag (cc : BitVec 6) (i : Nat) (b : Bool) : BitVec 6 :=
  if b then cc ||| BitVec.ofNat 6 (2 ^ i) else cc &&& ~~~(BitVec.ofNat 6 (2 ^ i))

def Wave.flag (w : Wave) (i : Nat) (b : Bool) : Wave := { w with cc := setFlag w.cc i b }
def Wave.setZ (w : Wave) (b : Bool) : Wave := w.flag 0 b
def Wave.setB (w : Wave) (b : Bool) : Wave := w.flag 4 b
def Wave.setF (w : Wave) (b : Bool) : Wave := w.flag 5 b
def State.setF (s : State) (b : Bool) : State := s.onWave (·.setF b)

/-! ### Slots (R105) -/

/-- The slots an instruction waits on are clear before it does anything. -/
def State.waitSlots (s : State) (x : Slots) : State := s.onWave fun w => { w with slots := w.slots &&& ~~~x.wait }

/-- The instruction sets its slot. -/
def State.setSlot (s : State) (x : Slots) : State :=
  if x.set then s.onWave fun w => { w with slots := w.slots ||| BitVec.ofNat 8 (2 ^ x.slot.toNat) } else s

/-- Every access of the wave at issue has completed, as if it waited on all eight slots. -/
def State.waitAll (s : State) : State := s.onWave fun w => { w with slots := 0#8 }

/-! ### Queues and waking (R141, R172) -/

/-- An entry stands in the same list as another (R172). -/
def Queued.sameList (a b : Queued) : Bool :=
  decide (a.die = b.die) && decide (a.cluster = b.cluster) && decide (a.prio = b.prio) && !a.spilled && !b.spilled

/-- The entries that now stand at the head of their lists remember since when (R173). -/
def headed (now : Queued → Nat) : List Queued → List Queued → List Queued
  | _, [] => []
  | before, q :: t =>
    let q' := if q.spilled || before.any q.sameList then { q with head := none }
      else { q with head := some (q.head.getD (now q)) }
    q' :: headed now (before ++ [q]) t

/-- The entries that a cluster's run queue holds in SRAM, of at most 4,096 (R172). -/
def queuedIn (l : List Queued) (die cluster : Nat) : Nat :=
  (l.filter fun q => decide (q.die = die) && decide (q.cluster = cluster) && !q.spilled).length

/-- Entries come back from the overflow chains while their run queue has room: of a cluster's chains the one of highest
priority first, its oldest entry first (R172; log entry 46). -/
def comeBackIn : Nat → List Queued → List Queued
  | 0, l => l
  | n + 1, l =>
    match leastBy (fun a b : Queued => decide (a.prio > b.prio))
        (l.filter fun q => q.spilled && decide (queuedIn l q.die q.cluster < 4096)) with
    | none => l
    | some q => comeBackIn n (l.filter (· ≠ q) ++ [{ q with spilled := false }])

/-- Entries that a run queue has no room for go to the overflow chain of their priority (R172). -/
def spillOver : List Queued → List Queued → List Queued
  | done, [] => done
  | done, q :: t =>
    let full := decide (4096 ≤ queuedIn done q.die q.cluster)
    spillOver (done ++ [{ q with spilled := q.spilled || full }]) t

/-- A run queue is given more entries than it holds. -/
def overfull (l : List Queued) : Bool := l.any fun q => decide (4096 < queuedIn l q.die q.cluster)

/-- The run queues replaced: what they have no room for spills, and what spilled before comes back where there is room
(R172). -/
def State.setQueue (s : State) (l : List Queued) : State :=
  let l := if overfull l then spillOver [] l else l
  let l := if l.any (·.spilled) then comeBackIn l.length l else l
  { s with runq := headed (fun q => s.nowOf q.die) [] l }

/-- A wave enters the run queue of its cluster at its base priority (R172). -/
def State.enqueue (s : State) (w : Wave) : State :=
  s.setQueue (s.runq ++ [⟨w.die, w.cluster, w.hdl, w.basePri, s.nowOf w.die, none, false⟩])

/-- A wave's team is saved: its waves stay parked until it is reloaded (R87, R173). -/
def State.teamSaved (s : State) (w : Wave) : Bool := s.teams.any fun t => decide (t.uid = w.team) && t.saved

/-- What a wave still awaits while it is runnable: the rest of a REGRP window (R147). -/
def Await.kept : Await → Await
  | .partner m e => .partner m e
  | _ => .nothing

/-- A wave becomes runnable and is queued. -/
def State.makeRunnable (s : State) (h : Handle) : State :=
  match s.findWave h with
  | none => s
  | some w =>
    if s.teamSaved w then s.updWave h fun w => { w with due := true, st := .parked }
    else
      let s := s.updWave h fun w =>
        { w with st := .runnable, await := w.await.kept, due := false, curPri := w.basePri, since := s.nowOf w.die }
      s.enqueue w

/-- The event or reply that a wave awaits has come (R141, R143): a waiting wave is resident again, a parked one
runnable, a halted one stays parked with its event recorded (R232). -/
def State.wakeUp (s : State) (h : Handle) : State :=
  match s.findWave h with
  | none => s
  | some w =>
    if w.halted then s.updWave h fun w => { w with due := true, st := .parked }
    else
      match w.st with
      | .waiting => s.updWave h fun w => { w with st := .resident, await := .nothing, since := s.nowOf w.die }
      | .parked => s.makeRunnable h
      | _ => s

/-- The wave at issue stops and waits in its slot (R140). -/
def State.wait (s : State) (a : Await) : State :=
  s.onWave fun w => { w with st := .waiting, await := a, due := false, since := s.nowOf w.die }

/-! ### Machine checks (R361, R371, R372, R427) -/

/-- Classes of machine check (R361). -/
inductive Check | residue | parity | ecc | pair
deriving DecidableEq, Repr

def Check.code : Check → Nat
  | .residue => 1 | .parity => 2 | .ecc => 3 | .pair => 4

/-- The count of a class in the management window (R426). -/
def Check.countOff : Check → Nat
  | .residue => 0x108 | .parity => 0x110 | .ecc => 0x118 | .pair => 0x120

/-- What a machine-check record names. -/
structure CheckRec where
  cls : Check
  pc : DWord
  spc : DWord
  op : Nat
  lane : Nat
  unit : Nat
  addr : Nat
  kill : Bool
  path : Nat
  owner : Handle
deriving DecidableEq, Repr

/-- The payload of a machine-check message (R361). -/
def State.checkBody (s : State) (w : Wave) (c : CheckRec) : List Byte :=
  bytesOfNat 8 c.pc.toNat ++ bytesOfNat 8 c.spc.toNat ++ bytesOfNat 4 w.proc.toNat ++
    [BitVec.ofNat 8 c.cls.code, BitVec.ofNat 8 c.op, BitVec.ofNat 8 c.lane, BitVec.ofNat 8 c.unit] ++
    bytesOfNat 8 (s.nowOf w.die) ++ bytesOfNat 8 c.addr ++
    [BitVec.ofNat 8 (w.flags + c.kill.toNat), BitVec.ofNat 8 c.path, 0#8, 0#8] ++
    bytesOfNat 4 c.owner.toNat

/-- A machine check counted, logged and reported on the fault port of the wave's process (R361). -/
def State.reportCheck (s : State) (w : Wave) (c : CheckRec) : State :=
  let body := s.checkBody w c
  let s := s.count w.die c.cls.countOff
  let s := s.logRecord w.die 0 body
  s.sendFault w.proc w.die w.hdl 2 body []

/-- A check that failed once and passed at its replay is logged as corrected (R372). -/
def State.corrected (s : State) (w : Wave) (c : CheckRec) : State :=
  (s.count w.die 0x100).logRecord w.die 1 (s.checkBody w c)

/-! ### Retiring and killing (R144, R365) -/

/-- The record of a release that met a lost sector, attributed to the PC at which a wave stands, which is that of its
instruction where it makes the release itself (R367). -/
def lostRecord (w : Wave) (op : Nat) (d : L1Sector) : CheckRec :=
  ⟨.ecc, w.pc, d.pc, op, 0xFF, 9, 32 * d.sector, false, 0, if d.hdl = w.hdl then 0#32 else d.hdl⟩

/-- The copy of the record for the process of the storing wave, where that is another one: only `pc` differs (R367). -/
def State.lostCopy (s : State) (w : Wave) (op : Nat) (d : L1Sector) : State :=
  if d.proc = w.proc then s
  else s.sendFault d.proc w.die w.hdl 2 (s.checkBody w { lostRecord w op d with pc := 0#64 }) []

/-- Lost sectors that a release met, each counted, logged and reported, and told to the process of its storing wave (R361,
R367). -/
def State.reportLost (s : State) (w : Wave) (op : Nat) (ds : List L1Sector) : State :=
  ds.foldl (fun (s : State) d => (s.lostCopy w op d).reportCheck w (lostRecord w op d)) s

/-- The time of a clock in aclk, of 940 MHz (R3; log entry 1). -/
def aclkOf (ns : Nat) : Nat := ns * 940 / 1000

/-- The memory-stall time of a wave, held until now since its last issue or since it became resident, counts for its team
(R346). -/
def State.countStall (s : State) (h : Handle) : State :=
  match s.findWave h with
  | none => s
  | some w =>
    let now := s.nowOf w.die
    let start := max (max w.stampA w.stampB) (max w.since w.stallAt)
    (s.updWave h fun w => { w with stallAt := now }).updTeam w.team fun t =>
      { t with stall := t.stall + (aclkOf now - aclkOf start) }

/-- The grid's class from its sums (R346). -/
def classify (b m : Nat) : Nat :=
  if b ≥ 2 * m ∧ b > 0 then 1 else if m ≥ 2 * b ∧ m > 0 then 2 else 3

/-- A residency of a team ends: it counts toward the grid's class, which its entry of the ring shows while the ring still holds
it (R346, R426). -/
def State.endResidency (s : State) (t : Team) : State :=
  match s.grid t.grid with
  | none => s
  | some g =>
    if g.cls ≠ 0 ∨ g.measured ≥ 64 then s
    else
      let b := g.busy + t.busy
      let m := g.stall + t.stall
      let n := g.measured + 1
      let c := if n = 64 then classify b m else 0
      let s := s.updGrid g.uid fun g => { g with measured := n, busy := b, stall := m, cls := c }
      if c = 0 ∨ g.seq = 0 then s
      else
        let k := mwKey g.die (0x30000 + 8 * (g.seq % 256))
        let e := (Sparse.get 0#64 s.mwin k).toNat
        if bits e 8 24 = g.seq % 2 ^ 24 then { s with mwin := Sparse.put 0#64 s.mwin k (BitVec.ofNat 64 (e / 4 * 4 + c)) }
        else s

/-- A team ends when its last wave retires (R144): its grant and tags are released, the failures held on its counters are
reported, `done` is added to, and a grid whose teams have all ended is gone (R315, R327). The add releases at pkg scope for the
team's core, on behalf of the wave that retired last: where that meets lost sectors they are reported and the add is not made
(R327, R367; log entry 45). -/
def State.endTeam (s : State) (last : Wave) (uid : Nat) : State :=
  match s.team uid with
  | none => s
  | some t =>
    let s := if t.saved then s else s.endResidency t
    let s := match s.grid t.grid with
      | none => s
      | some g =>
        let s :=
          if g.doneCtr = 0#64 ∨ t.side1 then s
          else
            let (s, lost) := if t.saved then (s, []) else s.release last.coreNo .pkg
            if lost = [] then s.hkuCounter t.die t.proc uid g.doneCtr (.add 1#64) 0#64 t.wave0
            else s.reportLost last 0x09 lost
        let s := if t.side1 then s else s.updGrid g.uid fun g => { g with ended := g.ended + 1 }
        match s.grid g.uid with
        | some g =>
          if g.ended = g.gx * g.gy * g.gz then
            ({ s with grids := s.grids.filter (·.uid ≠ g.uid) }).reapCode g.codever
          else s
        | none => s
    let lost := s.engRecords.filter fun r => decide (r.key / 2 ^ 22 = spKey uid 0 / 2 ^ 22)
    let s := lost.foldl (fun (s : State) r => s.sendRecords r.key 0#32 0#64) s
    { s with teams := s.teams.filter (·.uid ≠ uid), tags := Sparse.clear s.tags (4096 * uid) (4096 * uid + 4096) }

/-- A wave leaves the machine: its waiters are removed without firing, its handle goes stale, and its team ends with its last
wave (R82, R140, R144, R154). -/
def State.retire (s : State) (h : Handle) : State :=
  match s.findWave h with
  | none => s
  | some w =>
    let s := (s.unregister (.wave h)).unregister (.ui h)
    let s := match w.await with
      | .waitSet set _ _ =>
        (s.unregister (.member set)).updSet set fun t => { t with waiter := 0#32, reg := [], gone := [] }
      | _ => s
    let s := s.setQueue (s.runq.filter (·.wave ≠ h))
    let s := { s with pendSvc := s.pendSvc.filter (·.wave ≠ h),
                      mmas := s.mmas.filter (·.wave ≠ h) }
    let s := s.freeSlot h
    let s :=
      if s.wave.hdl = h then { s with wave := Wave.blank }
      else { s with waves := s.waves.filter (·.hdl ≠ h) }
    let s := if s.allWaves.any (·.team = w.team) then s else s.endTeam w w.team
    s.reapCode w.codever

/-- The break of a member of a counter set or of an exit counter: one whose domain path is down stays pending and its
local waiters wake with FAULTED, a stale reference is skipped (R76, R91). -/
def State.breakCounter (s : State) (w : Wave) (a : DWord) : State :=
  if a = 0#64 then s
  else if bits a.toNat 56 8 = 0 then
    match s.walkLease w.die w.proc true a.toNat with
    | (s, .error _) => s
    | (s, .ok t) =>
      let x := t.xlat a.toNat
      if pteType t.pte ≠ 1 then s
      else if pteTarget t.pte = 2 then
        let key := peerKey (ptePkg t.pte) x.pa
        if s.pathUp w.die (ptePkg t.pte) then s.ctrBreak key .abandoned
        else
          let b : PendBreak := ⟨w.proc, key, ptePkg t.pte, .abandoned⟩
          ({ s with pendBreaks := s.pendBreaks ++ [b] } : State).cutOff fun w => decide (w.key = key)
      else s.ctrBreak (localKey x.pa) .abandoned
  else
    match s.ctrTarget w.die w.proc true w.team a with
    | (s, .ok key) => s.ctrBreak key .abandoned
    | (s, .error _) => s

/-- One wave killed: steps 1 to 5 of R365. Its fault messages that are still pending go with it (R374). -/
def State.killOne (s : State) (h : Handle) : State :=
  match s.findWave h with
  | none => s
  | some w =>
    let s := match s.team w.team with
      | some t => t.cset.foldl (fun (u : State) a => u.breakCounter w a) s
      | none => s
    let s :=
      if w.xctr = 0#64 then s
      else s.hkuCounter w.die w.proc w.team w.xctr (.brk .abandoned) w.pc w.hdl
    let s : State := { s with pendFaults := s.pendFaults.filter fun q =>
      !(decide (q.wave = h) && decide (natAt (q.slots.headD []) 12 1 < 3)) }
    s.retire h

/-- A wave killed, and with it its counterpart in a redundant pair (R365, R375). -/
def State.kill (s : State) (h : Handle) : State :=
  match s.findWave h with
  | none => s
  | some w =>
    let s := s.killOne h
    match w.pair with
    | some p => s.killOne p.partner
    | none => s

end Sys2Proof.Machine
end

