-- ==== Sys2Proof/Machine/Operands.lean ====
section
/-! DEFINITION. Operand forms: uniform and vector codes, register budgets, the special values, element types
(R136, R183 to R189, R216, R234). -/

namespace Sys2Proof.Machine

/-! ### Special values (R216) -/

/-- The handle a wave reads as its own; side 1 of a redundant pair reads side 0's (R375). -/
def Wave.shownHandle (w : Wave) : Handle :=
  match w.pair with
  | some p => if p.side1 then p.partner else w.hdl
  | none => w.hdl

/-- The handle of wave 0 of the team, side 0's for a redundant pair (R224, R375). -/
def State.team0 (s : State) : Handle :=
  match s.myTeam with
  | none => s.wave.hdl
  | some t =>
    if t.side1 then
      match s.team t.twin with
      | some u => u.wave0
      | none => t.wave0
    else t.wave0

def State.specialNat (s : State) (code : Nat) : Nat :=
  let w := s.wave
  let t := s.myTeam
  let g := t.bind fun t => s.grid t.grid
  match code with
  | 0x60 => w.widx
  | 0x61 => w.shownHandle.toNat
  | 0x62 => (t.map (·.ix)).getD 0
  | 0x63 => (t.map (·.iy)).getD 0
  | 0x64 => (t.map (·.iz)).getD 0
  | 0x65 => (g.map (·.gx)).getD 1
  | 0x66 => (g.map (·.gy)).getD 1
  | 0x67 => (g.map (·.gz)).getD 1
  | 0x68 => (t.map (·.nwaves)).getD 1
  | 0x69 => w.consumer.toNat
  | 0x6A => w.core
  | 0x6B => w.cluster
  | 0x6C => w.die
  | 0x6D => s.pkg
  | 0x6E => w.part
  | 0x6F => s.now
  | 0x70 => w.mb.toNat
  | 0x71 => w.priv.toNat
  | 0x72 => w.proc.toNat
  | 0x73 => (t.map fun t => t.units * 16384).getD 0
  | 0x74 => (t.map (·.tags)).getD 0
  | 0x75 => Config.stepping
  | _ => 0

/-! ### Uniform operands (R184) -/

/-- A uniform source. -/
def State.readU (s : State) (c : BitVec 8) : DWord :=
  let n := c.toNat
  if n < 0x40 then s.wave.getS n
  else if n < 0x50 then xVbase (s.wave.getX (n - 0x40))
  else if n < 0x58 then (s.wave.getK (n - 0x50)).setWidth 64
  else BitVec.ofNat 64 (s.specialNat n)

/-- The low 32 bits of a uniform source, as mask instructions read it (R221). -/
def State.readMask (s : State) (c : BitVec 8) : Word := (s.readU c).setWidth 32

/-- A uniform destination: an s register, or the low 32 bits into a k register. -/
def Wave.writeU (w : Wave) (c : BitVec 8) (v : DWord) : Wave :=
  if c.toNat < 0x40 then w.setS c.toNat v
  else if 0x50 ≤ c.toNat ∧ c.toNat < 0x58 then w.setK (c.toNat - 0x50) (v.setWidth 32)
  else w

def State.writeU (s : State) (c : BitVec 8) (v : DWord) : State := s.onWave (·.writeU c v)

/-! ### Vector operands (R136, R183) -/

/-- A vector source of `n` registers is aligned and within budget. -/
def Wave.srcOk (w : Wave) (n : Nat) (c : BitVec 8) : Bool :=
  if c.toNat < 0xF0 then c.toNat % n == 0 && decide (c.toNat + n ≤ 8 * w.vblk)
  else decide (c.toNat ≤ 0xF3)

/-- A vector destination of `n` registers is aligned and within budget, or discards its result. -/
def Wave.dstOk (w : Wave) (n : Nat) (c : BitVec 8) : Bool :=
  if c.toNat < 0xF0 then c.toNat % n == 0 && decide (c.toNat + n ≤ 8 * w.vblk) else c == 0xFF#8

/-- `n` registers from `c`, no special code. -/
def Wave.groupOk (w : Wave) (n : Nat) (c : BitVec 8) : Bool :=
  decide (c.toNat < 0xF0) && decide (c.toNat + n ≤ 8 * w.vblk)

/-- A tile within the allotment. -/
def Wave.tileOk (w : Wave) (t : Nat) : Bool := decide (t < w.ntiles)

/-- A 32-bit lane value of a vector source. -/
def Wave.laneWord (w : Wave) (c : BitVec 8) (lane : Nat) : Word :=
  match c.toNat with
  | 0xF0 => 0#32
  | 0xF1 => BitVec.ofNat 32 lane
  | 0xF2 => w.threadId lane
  | 0xF3 => 0xFFFFFFFF#32
  | n => w.getV n lane

/-- A lane value of a vector source of `n` registers, the first lowest. -/
def Wave.laneNat (w : Wave) (c : BitVec 8) (lane : Nat) : Nat → Nat
  | 0 => 0
  | 1 => (w.laneWord c lane).toNat
  | n + 1 =>
    match c.toNat with
    | 0xF0 => 0
    | 0xF1 => lane
    | 0xF2 => (w.threadId lane).toNat
    | 0xF3 => 2 ^ (32 * (n + 1)) - 1
    | r => natOfRegs w r lane (n + 1)
where
  natOfRegs (w : Wave) (r lane : Nat) : Nat → Nat
  | 0 => 0
  | n + 1 => (w.getV r lane).toNat + 2 ^ 32 * natOfRegs w (r + 1) lane n

/-- A pair of a lane as one value. -/
def Wave.lanePair (w : Wave) (c : BitVec 8) (l : Nat) : DWord := BitVec.ofNat 64 (w.laneNat c l 2)

/-- A lane value written to `n` registers from a destination code; 0xFF discards it. -/
def Wave.putRegs (w : Wave) (r lane : Nat) (v : Nat) : Nat → Wave
  | 0 => w
  | n + 1 => (w.setV r lane (BitVec.ofNat 32 v)).putRegs (r + 1) lane (v / 2 ^ 32) n

def Wave.putLane (w : Wave) (c : BitVec 8) (lane n v : Nat) : Wave :=
  if c.toNat < 0xF0 then w.putRegs c.toNat lane v n else w

/-- Values written to the lanes of a destination of `n` registers. -/
def Wave.putLanes (w : Wave) (c : BitVec 8) (n : Nat) (vals : List (Nat × Nat)) : Wave :=
  vals.foldl (fun w e => w.putLane c e.1 n e.2) w

/-! ### Element types (R188) -/

/-- The element type of the mode register; SETM keeps reserved codes out (R189). -/
def Wave.etype (w : Wave) : EType :=
  match w.etypeCode with
  | 0 => .i32 | 1 => .n32 | 2 => .i16 | 3 => .n16 | 4 => .i8 | 5 => .n8 | 6 => .i64 | 7 => .n64
  | 8 => .f32 | 9 => .f16 | 10 => .bf16 | 11 => .f64 | 12 => .f16x2 | 13 => .bf16x2 | _ => .i16x2

end Sys2Proof.Machine

namespace Sys2Proof

open Machine (Fmt bits)

def EType.is64 : EType → Bool
  | .i64 | .n64 | .f64 => true
  | _ => false

/-- Registers of one lane value. -/
def EType.regs (t : EType) : Nat := if t.is64 then 2 else 1

/-- Bits of one element. -/
def EType.bitsOf : EType → Nat
  | .i32 | .n32 | .f32 => 32
  | .i16 | .n16 | .f16 | .bf16 | .f16x2 | .bf16x2 | .i16x2 => 16
  | .i8 | .n8 => 8
  | .i64 | .n64 | .f64 => 64

def EType.signed : EType → Bool
  | .n32 | .n16 | .n8 | .n64 => false
  | _ => true

/-- Integer types of R235, packed included. -/
def EType.isInt : EType → Bool
  | .i32 | .n32 | .i16 | .n16 | .i8 | .n8 | .i64 | .n64 | .i16x2 => true
  | _ => false

def EType.isFloat : EType → Bool
  | .f32 | .f16 | .bf16 | .f64 | .f16x2 | .bf16x2 => true
  | _ => false

/-- The float format of an element. -/
def EType.fmt : EType → Fmt
  | .f16 | .f16x2 => Fmt.f16
  | .bf16 | .bf16x2 => Fmt.bf16
  | .f64 => Fmt.f64
  | _ => Fmt.f32

/-- Elements of a lane. -/
def EType.elems (t : EType) : Nat := if t.packed then 2 else 1

/-- Element `i` of a lane value (R188, R234). -/
def EType.elem (t : EType) (v i : Nat) : Nat := bits v (t.bitsOf * i) t.bitsOf

/-- A lane value from its elements: a narrow one is extended with its sign, or with zeros (R188). -/
def EType.join (t : EType) (l : List Nat) : Nat :=
  match l with
  | [a] =>
    let v := a % 2 ^ t.bitsOf
    if t.bitsOf < 32 ∧ t.signed ∧ v.testBit (t.bitsOf - 1) then v + 2 ^ 32 - 2 ^ t.bitsOf else v
  | [a, b] => a % 65536 + b % 65536 * 65536
  | _ => 0

/-- The number that an integer element stands for (R237). -/
def EType.toInt (t : EType) (v : Nat) : Int :=
  let n := v % 2 ^ t.bitsOf
  if t.signed ∧ n.testBit (t.bitsOf - 1) then (n : Int) - 2 ^ t.bitsOf else n

def EType.lowest (t : EType) : Int := if t.signed then -(2 ^ (t.bitsOf - 1)) else 0
def EType.highest (t : EType) : Int := if t.signed then 2 ^ (t.bitsOf - 1) - 1 else 2 ^ t.bitsOf - 1

/-- A number read modulo 2^w as an element. -/
def EType.wrap (t : EType) (r : Int) : Nat := (r % 2 ^ t.bitsOf).toNat

/-- A number fitted to the element (R237). -/
def EType.fit (t : EType) (sat : Bool) (r : Int) : Nat :=
  t.wrap (if sat then min (max r t.lowest) t.highest else r)

/-- The literal of a WL instruction as a lane value (R239). Under f16x2 and bf16x2 it is split as under i16x2: the rule names
that type alone (log entry 45). -/
def EType.literal (t : EType) (lit : Word) : Nat :=
  match t with
  | .n64 => lit.toNat
  | .i64 | .f64 => (lit.signExtend 64).toNat
  | _ => lit.toNat

end Sys2Proof
end

