-- ==== Sys2Proof/Machine/Array.lean ====
section
/-! DEFINITION. Tiles and their views, the elements of matrix operands, and the matrix array: what an MMA computes, the
order in which MMAs complete, batches, and the interlocks (11 R284 to R301, 14 R370). -/

namespace Sys2Proof.Machine

/-! ### Tiles (R289) -/

/-- The tile of a tile selector (R302). -/
def selTile (a : BitVec 8) : Nat := (a.extractLsb' 3 3).toNat

/-- The tile of a uniform tile code (R184). -/
def codeTile (c : BitVec 8) : Nat := c.toNat - 0x58

/-- A row of a tile. -/
def Wave.tileRow (w : Wave) (t r : Nat) : List Byte := Sparse.getList 0#8 w.tile (65536 * t + 512 * r) 512

/-- A whole tile from its rows. -/
def Wave.setRows (w : Wave) (t : Nat) (rows : Nat → List Byte) : Wave :=
  let cells := (upto 128).flatMap fun r =>
    ((upto 512).zip (rows r)).filterMap fun e =>
      if e.2 = 0#8 then none else some (65536 * t + 512 * r + e.1, e.2)
  { w with tile := w.tile.filter (fun e => decide (e.1 < 65536 * t)) ++ cells ++
      w.tile.filter fun e => decide (65536 * t + 65536 ≤ e.1) }

/-- One panel of a tile from its rows of 64 bytes. -/
def Wave.setPanel (w : Wave) (t p : Nat) (rows : Nat → List Byte) : Wave :=
  let old : Nat → List Byte := fun r => w.tileRow t r
  w.setRows t fun r => setBytes (old r) (64 * p) (rows r)

/-- D(m, n) in the accumulator view. -/
def Wave.tileWord (w : Wave) (t m n : Nat) : Word :=
  BitVec.ofNat 32 (natOfBytes (Sparse.getList 0#8 w.tile (65536 * t + 512 * m + 4 * n) 4))

/-- A whole tile from its words. -/
def Wave.setWords (w : Wave) (t : Nat) (f : Nat → Nat → Nat) : Wave :=
  w.setRows t fun m => (upto 128).flatMap fun n => bytesOfNat 4 (f m n)

/-- Byte `o` of a panel. -/
def Wave.panelByte (w : Wave) (t p o : Nat) : Byte := w.getT t (512 * (o / 64) + 64 * p + o % 64)

/-! ### Elements (R284 to R287, R290 to R293) -/

/-- The classes of R294. -/
inductive MClass | f8 | f4 | i8 | h16 | bi
deriving DecidableEq, Repr

def mClass (code : Nat) : Option MClass :=
  if code < 4 then some .f8
  else if code = 4 then some .f4
  else if code = 5 then some .i8
  else if code < 8 then some .h16
  else if code < 12 then some .bi
  else none

/-- K of MMA (R294). -/
def MClass.depth : MClass → Nat
  | .f8 | .i8 | .bi => 64
  | .f4 => 128
  | .h16 => 32

/-- Block codes that a class allows (R294). -/
def MClass.allows (c : MClass) (blk : Nat) : Bool :=
  match c with
  | .f8 | .f4 => decide (blk < 4)
  | .i8 | .h16 => blk == 0
  | .bi => blk == 1

/-- The width of a block-integer code. -/
def biWidth (code : Nat) : Nat := 8 - 2 * (code - 8)

/-- The value of an element under a format code; the exponent of a block is left out (R284 to R287, R297). -/
def mValue (code bitsv : Nat) : FVal :=
  match code with
  | 0 => Fmt.e4m3.decode bitsv
  | 1 => Fmt.e5m2.decode bitsv
  | 2 => Fmt.e3m2.decode (bitsv % 64)
  | 3 => Fmt.e2m3.decode (bitsv % 64)
  | 4 => Fmt.e2m1.decode bitsv
  | 5 => let q := EType.i8.toInt bitsv; .num (decide (q < 0)) q.natAbs 0
  | 6 => Fmt.bf16.decode bitsv
  | 7 => Fmt.f16.decode bitsv
  | _ =>
    let w := biWidth code
    let n := bitsv % 2 ^ w
    let q : Int := if n.testBit (w - 1) then (n : Int) - 2 ^ w else n
    .num (decide (q < 0)) q.natAbs (2 - (w : Int))

/-- The bits of X(i, k) in a panel or fragment, normal or transposed (R290). -/
def mBits (byte : Nat → Byte) (code : Nat) (trans : Bool) (i k : Nat) : Nat :=
  if code = 4 then
    (if trans then bits (byte (64 * k + i / 2)).toNat (4 * (i % 2)) 4
     else bits (byte (64 * i + k / 2)).toNat (4 * (k % 2)) 4)
  else if code = 6 ∨ code = 7 then
    let o := if trans then 256 * k + 2 * i else 64 * i + 2 * k
    (byte o).toNat + 256 * (byte (o + 1)).toNat
  else (byte (if trans then 128 * k + i else 64 * i + k)).toNat

/-! ### What an MMA computes (R295 to R298) -/

/-- Byte `o` of an operand: a panel of the wave's tiles, `more` panels on, or a fragment read at issue. -/
def Mma.byte (m : Mma) (w : Wave) (opnd : BitVec 8) (more o : Nat) : Byte :=
  if MOpnd.frag opnd then
    let r := 8 * (MOpnd.blk opnd).toNat + o / 128
    BitVec.ofNat 8 (bits (Sparse.get 0#32 m.frag (32 * r + o % 128 / 4)).toNat (8 * (o % 4)) 8)
  else w.panelByte (MOpnd.tile opnd).toNat ((MOpnd.panel opnd).toNat + more) o

/-- The class of an MMA whose format block has been checked. -/
def Mma.cls (m : Mma) : MClass := (mClass m.fmta).getD .f8

/-- Logical K (R296, R298). -/
def Mma.depth (m : Mma) : Nat := m.cls.depth * (if m.sparse then 2 else 1)

/-- The metadata nibble of group `g` of row `i` (R298). -/
def Mma.nibble (m : Mma) (w : Wave) (i g : Nat) : Nat :=
  bits (w.panelByte (m.metaP / 8) (m.metaP % 8) (64 * i + 16 * m.mq + g / 2)).toNat (4 * (g % 2)) 4

/-- Exact zero. -/
def FVal.zero : FVal := .num false 0 0

/-- Row `i` of A: for each logical k the values that stand there. -/
def Mma.rowA (m : Mma) (w : Wave) (i : Nat) : List (List FVal) :=
  let value : Nat → FVal := fun k => mValue m.fmta (mBits (m.byte w m.a 0) m.fmta m.ta i k)
  if m.sparse then
    (upto (m.depth / 4)).flatMap fun g =>
      let nib := m.nibble w i g
      let v0 := value (2 * g)
      let v1 := value (2 * g + 1)
      (upto 4).map fun q =>
        let here := (if nib % 4 = q then [v0] else []) ++ (if nib / 4 = q then [v1] else [])
        if here = [] then [FVal.zero] else here
  else (upto m.depth).map fun k => [value k]

/-- Column `n` of B. -/
def Mma.colB (m : Mma) (w : Wave) (n : Nat) : List FVal :=
  let half := m.cls.depth
  (upto m.depth).map fun k =>
    mValue m.fmtb (mBits (m.byte w m.b (k / half)) m.fmtb m.tb n (k % half))

/-- The exponent of row or column `i` at logical `k`; nothing for a NaN scale (R295). -/
def scaleExp (depth blk : Nat) (scales : List Byte) (i k : Nat) : Option Int :=
  if blk = 0 then some 0
  else
    let l := 16 * 2 ^ blk
    let b := (scales.getD (depth / l * i + k / l) 0#8).toNat
    if b = 255 then none else some ((b : Int) - 127)

/-- The exact sum of the products of one block of 32 (R297). -/
def blockSum (a : List (List FVal)) (b : List FVal) : FVal :=
  (a.zip b).foldl (fun s e => e.1.foldl (fun s v => s.add false (v.mul e.2)) s) FVal.zero

/-- The integer that a value of exponent 0 or more is. -/
def FVal.whole : FVal → Int
  | .num neg m e => scaled neg m e 0
  | _ => 0

/-- D(m, n) after one block of 32 elements (R297). -/
def Mma.accumulate (m : Mma) (s : FVal) (e : Option Int) (acc : Nat) : Nat :=
  if m.cls = .i8 then EType.i32.fit m.isat (EType.i32.toInt acc + s.whole)
  else
    let t : Nat :=
      match e with
      | none => Fmt.f32.nanBits
      | some e => Fmt.f32.round Rnd.rne (s.scaleBy e)
    Fmt.f32.round Rnd.rne (FVal.add false (Fmt.f32.decode acc) (Fmt.f32.decode t))

/-- D(i, n) from its row of A and its column of B (R297). -/
def Mma.element (m : Mma) (a : List (List FVal)) (b : List FVal) (i n acc : Nat) : Nat :=
  (upto (m.depth / 32)).foldl
    (fun acc j =>
      let s := blockSum ((a.drop (32 * j)).take 32) ((b.drop (32 * j)).take 32)
      let e :=
        match scaleExp m.depth m.blka m.sa i (32 * j), scaleExp m.depth m.blkb m.sb n (32 * j) with
        | some x, some y => some (x + y)
        | _, _ => none
      m.accumulate s e acc)
    acc

/-- D written with the whole result (R297). -/
def Mma.result (m : Mma) (w : Wave) : Wave :=
  let cols := (upto 128).map (m.colB w)
  w.setRows m.d fun i =>
    let a := m.rowA w i
    ((upto 128).zip cols).flatMap fun c =>
      bytesOfNat 4 (m.element a c.2 i c.1 (if m.ovw then 0 else (w.tileWord m.d i c.1).toNat))

/-- The time that an MMA holds the array, in aclk (R299). -/
def Mma.aclk (m : Mma) : Nat :=
  match m.fmta with
  | 9 => 24
  | 10 => 16
  | 11 => 8
  | _ => 32

/-! ### Completion and batches (R299 to R301) -/

/-- Closed batches complete in number order: mb, and what remains. -/
def settle (mb : DWord) : List (DWord × List Nat) → DWord × List (DWord × List Nat)
  | (n, []) :: t => settle n t
  | l => (mb, l)

def Wave.settled (w : Wave) : Wave :=
  let r := settle w.mb w.batches
  { w with mb := r.1, batches := r.2 }

/-- MWAIT completes (R301). -/
def Wave.waited (w : Wave) : Wave := ((w.flag 0 true).flag 4 false).flag 5 false

/-- A wave whose batch has been reached goes on past its MWAIT. -/
def State.wakeBatch (s : State) (h : Handle) : State :=
  match s.findWave h with
  | none => s
  | some w =>
    match w.await with
    | .batch t =>
      if reached w.mb t && !w.due then (s.updWave h fun w => w.waited.advance 4).wakeUp h else s
    | _ => s

/-- A batch waits for a completed MMA no more; to the open set it belongs until MCLOSE (R300). -/
def Wave.without (w : Wave) (uid : Nat) : Wave :=
  { w with batches := w.batches.map fun b => (b.1, b.2.filter (· ≠ uid)) }

/-- An MMA completes: D, its batch, the waves that wait on it; one whose check fails twice kills its wave (R299). -/
def State.mmaDone (s : State) (m : Mma) : State :=
  let s := { s with mmas := s.mmas.filter (·.uid ≠ m.uid) }
  match s.findWave m.wave with
  | none => s
  | some w =>
    let rec1 : Nat → Bool → CheckRec := fun l k => ⟨.residue, m.pc, 0#64, m.op, l, 6, 0, k, 0, 0#32⟩
    match m.strike with
    | some (l, true) => (s.kill m.wave).reportCheck w (rec1 l true)
    | st =>
      let s := match st with
        | some (l, _) => s.corrected w (rec1 l false)
        | none => s
      (s.updWave m.wave fun w => ((m.result w).without m.uid).settled).wakeBatch m.wave

/-- The MMAs of an array up to a number complete, one at a time in issue order (R299). -/
def State.mmaThrough (s : State) (array uid : Nat) : State :=
  if s.mmas.any (·.uid = uid) then
    (s.mmas.filter fun m => decide (m.array = array) && decide (m.uid ≤ uid)).foldl
      (fun (s : State) m => s.mmaDone m) s
  else s

/-- Every MMA of a wave drains (R142, R174). -/
def State.drainMmas (s : State) (h : Handle) : State :=
  (s.mmas.filter (·.wave = h)).foldl (fun (s : State) m => s.mmaThrough m.array m.uid) s

/-- The tiles that an MMA names (R292, R298). -/
def Mma.names (m : Mma) (t : Nat) : Bool :=
  m.d == t || (!MOpnd.frag m.a && (MOpnd.tile m.a).toNat == t) || (!MOpnd.frag m.b && (MOpnd.tile m.b).toNat == t) ||
    (m.sparse && m.metaP / 8 == t)

/-- The MMAs for which an instruction that touches some tiles waits; in a handler, also those of the closed batches of
these (R292, R370). -/
def State.blockersOf (s : State) (w : Wave) (tiles : List Nat) : List Mma :=
  let mine := s.mmas.filter fun m => decide (m.wave = w.hdl)
  let named := mine.filter fun m => tiles.any m.names
  if w.uiAct then
    let closed := (w.batches.map (·.2)).filter fun b => named.any fun m => b.contains m.uid
    mine.filter fun m => named.any (·.uid = m.uid) || closed.any (·.contains m.uid)
  else named

def State.blockers (s : State) (tiles : List Nat) : List Mma := s.blockersOf s.wave tiles

/-- The wave at issue waits for some MMAs; it does not issue if one of them kills it (R292). -/
def State.waitMmas (s : State) (ms : List Mma) (body : State → State) : State :=
  let h := s.wave.hdl
  let s := ms.foldl (fun (s : State) m => s.mmaThrough m.array m.uid) s
  if s.wave.hdl = h then body s else s

/-- An instruction other than an MMA waits for the MMAs that name its tiles (R292). -/
def State.interlock (s : State) (tiles : List Nat) (body : State → State) : State := s.waitMmas (s.blockers tiles) body

/-- An operand is a fragment that takes in one of `n` registers from `r` (R186, R291). -/
def fragHas (opnd : BitVec 8) (r n : Nat) : Bool :=
  MOpnd.frag opnd && decide (r < 8 * (MOpnd.blk opnd).toNat + 64) && decide (8 * (MOpnd.blk opnd).toNat < r + n)

/-- The MMAs of a wave that have not completed and read as a fragment one of `n` registers from `a`, a vector destination
(R292). -/
def State.fragReadersOf (s : State) (w : Wave) (a : BitVec 8) (n : Nat) : List Mma :=
  s.mmas.filter fun m =>
    decide (m.wave = w.hdl) && a != 0xFF#8 && (fragHas m.a a.toNat n || fragHas m.b a.toNat n)

def State.fragReaders (s : State) (a : BitVec 8) (n : Nat) : List Mma := s.fragReadersOf s.wave a n

/-- The tiles whose panels an MMA reads: its operands and its metadata (R292, R298). -/
def mmaSources (b c : BitVec 8) (sparse : Bool) (metaP : Nat) : List Nat :=
  let opnd : BitVec 8 → List Nat := fun m => if MOpnd.frag m then [] else [(MOpnd.tile m).toNat]
  opnd b ++ opnd c ++ if sparse then [metaP / 8] else []

/-- The MMAs for which an MMA waits that reads some tiles and writes tile `d`: those that write what it reads; in a handler all
for which any instruction that touches these tiles would wait (R292, R370). -/
def State.mmaBlockers (s : State) (w : Wave) (d : Nat) (sources : List Nat) : List Mma :=
  if w.uiAct then s.blockersOf w (d :: sources)
  else s.mmas.filter fun m => decide (m.wave = w.hdl) && sources.contains m.d

def execMmaComplete (id : Nat) (s : State) : Host.Outcome State Fault Refusal :=
  .next
    (match s.mmas.find? (·.uid = id) with
     | some m => if s.mmas.any fun o => decide (o.array = m.array) && decide (o.uid < id) then s else s.mmaDone m
     | none => s)

end Sys2Proof.Machine
end

