-- ==== Sys2Proof/Machine/Device.lean ====
section
/-! DEFINITION. The device registers: where each table stands, what a read finds and what a write does
(00 R7, 02 R59, 03 R83 to R85, 20 R405, 22 R425 to R427, 13 R346). -/

namespace Sys2Proof.Machine

/-- The register space of a die (R426). -/
def regBase (die : Nat) : Nat := 0x010000000000 + 0x00800000 * die

/-- The tables of the register space, each with its first offset, its entries of 2^`sh` bytes and their number. -/
inductive RegTable | mxalias | window | hostw | pasid
deriving DecidableEq, Repr

def RegTable.base : RegTable → Nat
  | .mxalias => 0x200000 | .window => 0x300000 | .hostw => 0x400000 | .pasid => 0x600000
def RegTable.entry : RegTable → Nat
  | .mxalias => 32 | .window => 16 | .hostw => 32 | .pasid => 8
def RegTable.count : RegTable → Nat
  | .mxalias => 64 | .window => 16 | .hostw => 4096 | .pasid => 4096

/-- The table that holds an offset, with the entry's number and the offset within it. -/
def regTable (off : Nat) : Option (RegTable × Nat × Nat) :=
  let inside : RegTable → Bool := fun t => decide (t.base ≤ off) && decide (off < t.base + t.entry * t.count)
  ([RegTable.mxalias, .window, .hostw, .pasid].find? inside).map fun t =>
    (t, (off - t.base) / t.entry, (off - t.base) % t.entry)

/-! ### The management window (R425, R426) -/

/-- The readiness frame of a die lies at the end of its reserved region (R425). -/
def readyFrame (die : Nat) : Nat := reservedBase die + 0x14200000

/-- The ports whose names the window publishes, in their order (R426, R436). -/
def State.publishedPort (s : State) (die i : Nat) : Option Port :=
  match i with
  | 0 => s.rolePort die .root
  | 1 => s.rolePort die .service
  | 2 => s.rolePort die .downgrade
  | 3 => s.rolePort die .ring
  | n => s.rolePort die (.media (4 * die + (n - 4)))

/-- An 8-byte entry of the window (R426). -/
def State.mwRead (s : State) (die off : Nat) : DWord :=
  if off = 0x0000 then
    (if Sparse.get 0#64 s.mwin (mwKey die 0) = 0#64 then 0#64 else BitVec.ofNat 64 (readyFrame die + 1))
  else if off = 0x0008 then BitVec.ofNat 64 (reservedBase die + 0x14100000)
  else if off = 0x0010 then BitVec.ofNat 64 (s.eseq.get die)
  else if off = 0x0018 then BitVec.ofNat 64 (reservedBase die + 0x14000000)
  else if off = 0x0020 then BitVec.ofNat 64 (s.jseq.get die)
  else if 0x40000 ≤ off ∧ off < 0x40040 then
    match s.publishedPort die ((off - 0x40000) / 8) with
    | some p => s.portName p.hdl
    | none => 0#64
  else Sparse.get 0#64 s.mwin (mwKey die off)

/-- The 8 bytes at an aligned offset of a die's register space. -/
def State.regWord (s : State) (die off : Nat) : DWord :=
  match regTable off with
  | some (.mxalias, n, o) => BitVec.ofNat 64 (bits (Sparse.get 0#256 s.mxAlias (die * 64 + n)).toNat (8 * o) 64)
  | some (.window, n, o) => BitVec.ofNat 64 (bits (Sparse.get 0#128 s.window (die * 16 + n)).toNat (8 * o) 64)
  | some (.hostw, n, o) => BitVec.ofNat 64 (bits (Sparse.get 0#256 s.hostw (die * 4096 + n)).toNat (8 * o) 64)
  | some (.pasid, n, _) => Sparse.get 0#64 s.pasid (die * 4096 + n)
  | none => if off < 0x200000 then s.mwRead die off else 0#64

/-- Bytes of the register space, of which an address that no register holds reads 0; or of a directory (R406). -/
def State.devRead (s : State) (pa : Nat) : Nat → List Byte
  | 0 => []
  | n + 1 =>
    if isDirectory pa then s.rawByte pa :: s.devRead (pa + 1) n
    else
    let o := pa - regBase 0
    let die := o / 0x800000
    let w := if die < 2 then s.regWord die (o % 0x800000 / 8 * 8) else 0#64
    BitVec.ofNat 8 (bits w.toNat (8 * (pa % 8)) 8) :: s.devRead (pa + 1) n

/-! ### Writes (R7) -/

/-- The value of an entry with some of its bytes written over. -/
def mergeBytes (old o : Nat) (bs : List Byte) : Nat :=
  old - bits old (8 * o) (8 * bs.length) * 2 ^ (8 * o) + natOfBytes bs * 2 ^ (8 * o)

/-- Physical ranges of DRAM of one die. -/
def inDram (die a n : Nat) : Bool := isDram a && dieOfPa a == die && (n == 0 || (isDram (a + n - 1) && dieOfPa (a + n - 1) == die))

/-- Two ranges share a byte. -/
def overlap (a n b m : Nat) : Bool := decide (a < b + m) && decide (b < a + n) && decide (0 < n) && decide (0 < m)

/-- Bytes of the element store of an entry (R60). -/
def aliasElemBytes (e : BitVec 256) : Nat :=
  let n := 32768 * aliasFrames e
  match aliasFmt e with
  | 0 | 1 => n
  | 2 | 3 => n / 4 * 3
  | _ => n / 2

/-- The checks of an alias entry that is being enabled (R59). None of them names `frames`: an entry of 0 frames passes, with
a shadow range that holds nothing (log entry 45). -/
def State.aliasOk (s : State) (die n : Nat) (e : BitVec 256) : Bool :=
  let sh := aliasShadow e
  let len := 65536 * aliasFrames e
  let scales := 1024 * aliasFrames e
  inDram die (aliasElem e) (aliasElemBytes e) && inDram die (aliasScale e) scales && inDram die sh len &&
    aliasElem e % 128 == 0 && decide (aliasFmt e < 5) &&
    !(s.mxAlias.any fun x => decide (x.1 ≠ die * 64 + n) && aliasEn x.2 &&
        overlap sh len (aliasShadow x.2) (65536 * aliasFrames x.2)) &&
    !overlap sh len (aliasElem e) (aliasElemBytes e) && !overlap sh len (aliasScale e) scales

/-- The fields of an alias entry that a write stores (R59). -/
def aliasMask : Nat :=
  2 ^ 255 + 7 * 2 ^ 252 + (2 ^ 52 - 1) * 2 ^ 128 + (2 ^ 52 - 1) * 2 ^ 64 + (2 ^ 36 - 1) * 2 ^ 16 + (2 ^ 16 - 1)

/-- An alias entry written (R59): while enabled only `en` changes; enabling checks the entry. -/
def State.writeAlias (s : State) (die n v : Nat) : State :=
  let old := Sparse.get 0#256 s.mxAlias (die * 64 + n)
  let new := BitVec.ofNat 256 v
  let e : BitVec 256 :=
    if aliasEn old then (if aliasEn new then old else old &&& ~~~(BitVec.ofNat 256 (2 ^ 255)))
    else
      let m := (new &&& BitVec.ofNat 256 aliasMask) ||| (old &&& BitVec.ofNat 256 ((2 ^ 32 - 1) * 2 ^ 192))
      if aliasEn m && !s.aliasOk die n m then m &&& ~~~(BitVec.ofNat 256 (2 ^ 255)) else m
  { s with mxAlias := Sparse.put 0#256 s.mxAlias (die * 64 + n) e }

/-! ### Aperture windows and host waiters (R83, R84) -/

def winEn (w : BitVec 128) : Bool := w.getLsbD 127
def winFirst (w : BitVec 128) : Nat := bits w.toNat 0 36
def winLast (w : BitVec 128) : Nat := bits w.toNat 64 36
def winHas (w : BitVec 128) (pa : Nat) : Bool :=
  winEn w && decide (winFirst w ≤ pa / 65536) && decide (pa / 65536 ≤ winLast w)

/-- A physical address lies in an enabled window of a die (R83). -/
def State.windowed (s : State) (die pa : Nat) : Bool :=
  s.window.any fun e => decide (e.1 / 16 = die) && winHas e.2 pa

def hwArmed (e : BitVec 256) : Bool := e.getLsbD 0
def hwCtr (e : BitVec 256) : Nat := bits e.toNat 76 52
def hwReport (e : BitVec 256) : Nat := bits e.toNat 128 64
def hwVector (e : BitVec 256) : Nat := bits e.toNat 32 11
def hwThresh (e : BitVec 256) : DWord := BitVec.ofNat 64 (bits e.toNat 192 64)

def State.hostEntry (s : State) (die n : Nat) : BitVec 256 := Sparse.get 0#256 s.hostw (die * 4096 + n)
def State.putHostEntry (s : State) (die n : Nat) (e : BitVec 256) : State :=
  { s with hostw := Sparse.put 0#256 s.hostw (die * 4096 + n) e }

/-- The journal records that wait for a counter of a window that is being disabled are marked discarded (R178). -/
def State.discardJournal (s : State) (w : BitVec 128) : State :=
  s.waiters.foldl
    (fun (s : State) e =>
      match e.party with
      | .journal die seq =>
        if winHas w e.key then
          let s := s.unregister e.party
          if s.rawNat (journalKey die seq) 8 = seq then s.putBytes (journalKey die seq + 56) [3#8] else s
        else s
      | _ => s) s

/-- Every armed entry of a die whose counter lies in a window that is being disabled is withdrawn: each reports with
`wd` (R84). -/
def State.withdrawAll (s : State) (die : Nat) (w : BitVec 128) : State :=
  let s := s.discardJournal w
  let mine := s.hostw.filter fun e => decide (e.1 / 4096 = die) && hwArmed e.2 && winHas w (hwCtr e.2)
  mine.foldl
    (fun (s : State) e =>
      let n := e.1 % 4096
      let (v, st) := s.ctrRead (hwCtr e.2)
      (s.unregister (.host die n)).owe (.hostWaiterFire die n v st true)) s

/-- A window written (R83): while enabled only `en` changes; enabling checks it, disabling withdraws its waiters. -/
def State.writeWindow (s : State) (die n v : Nat) : State :=
  let old := Sparse.get 0#128 s.window (die * 16 + n)
  let new := BitVec.ofNat 128 v
  let put : BitVec 128 → State := fun w => { s with window := Sparse.put 0#128 s.window (die * 16 + n) w }
  if winEn old then
    if winEn new then s
    else (put (old &&& ~~~(BitVec.ofNat 128 (2 ^ 127)))).withdrawAll die old
  else
    let m := new &&& BitVec.ofNat 128 (2 ^ 127 + (2 ^ 36 - 1) * 2 ^ 64 + (2 ^ 36 - 1))
    let ok := inDram die (winFirst m * 65536) 65536 && inDram die (winLast m * 65536) 65536 &&
      decide (winFirst m ≤ winLast m)
    put (if winEn m && !ok then m &&& ~~~(BitVec.ofNat 128 (2 ^ 127)) else m)

/-- An entry armed: registered at its counter's home, or fired at once (R80, R84). -/
def State.armHost (s : State) (die n : Nat) : State :=
  let e := s.hostEntry die n
  let (v, st) := s.ctrRead (hwCtr e)
  if reached v (hwThresh e) || decide (st ≠ .ok) then s.owe (.hostWaiterFire die n v st false)
  else s.register ⟨hwCtr e, hwThresh e, .host die n⟩

/-- The fields of a host waiter entry that a write stores while it is not armed. -/
def hostMask : Nat := (2 ^ 64 - 1) * 2 ^ 192 + (2 ^ 64 - 1) * 2 ^ 128 + (2 ^ 52 - 1) * 2 ^ 76 + (2 ^ 11 - 1) * 2 ^ 32

/-- A removal that races with a firing comes before all of its steps (R84). -/
def State.dropFiring (s : State) (die n : Nat) : State :=
  { s with work := s.work.filter fun e =>
      match e.1 with
      | .hostWaiterFire d m _ _ _ => !(decide (d = die) && decide (m = n))
      | _ => true }

/-- A host waiter entry written (R84): `wfired` says whether the write gives 1 to `fired`. A write that arms an entry which
fails the check is refused and stores nothing. -/
def State.writeHost (s : State) (die n v : Nat) (wfired : Bool) : State :=
  let old := s.hostEntry die n
  let new := BitVec.ofNat 256 v
  let keep := if wfired then old &&& ~~~(2#256) else old
  if hwArmed old then
    if hwArmed new then s.putHostEntry die n keep
    else ((s.putHostEntry die n (keep &&& ~~~(1#256))).unregister (.host die n)).dropFiring die n
  else
    let m := (new &&& BitVec.ofNat 256 hostMask) ||| (keep &&& 0xE#256)
    let ok := s.windowed die (hwCtr m) && hwCtr m % 8 == 0 && hwReport m % 16 == 0
    if !hwArmed new then s.putHostEntry die n m
    else if ok then (s.putHostEntry die n (m ||| 1#256)).armHost die n
    else s

/-- Bytes written to an entry of a table, those that lie in it. -/
def State.writeEntry (s : State) (die : Nat) (t : RegTable) (n o : Nat) (bs : List Byte) : State :=
  match t with
  | .mxalias => s.writeAlias die n (mergeBytes (Sparse.get 0#256 s.mxAlias (die * 64 + n)).toNat o bs)
  | .window => s.writeWindow die n (mergeBytes (Sparse.get 0#128 s.window (die * 16 + n)).toNat o bs)
  | .hostw =>
    s.writeHost die n (mergeBytes (s.hostEntry die n).toNat o bs)
      (o == 0 && ((bs.head?.map fun b => b.getLsbD 1).getD false))
  | .pasid =>
    let v := mergeBytes (Sparse.get 0#64 s.pasid (die * 4096 + n)).toNat o bs
    let e : DWord := BitVec.ofNat 64 v &&& BitVec.ofNat 64 (2 ^ 63 + 2 ^ 52 - 1)
    { s with pasid := Sparse.put 0#64 s.pasid (die * 4096 + n) e }

/-- Bytes written to the register space (R7): read-only and reserved registers keep their values, and so does a directory
(R406). -/
def State.devWrite (s : State) (pa : Nat) (bs : List Byte) : State :=
  let o := pa - regBase 0
  let die := o / 0x800000
  if regBase 0 ≤ pa ∧ die < 2 then
    match regTable (o % 0x800000) with
    | some (t, n, off) =>
      let here := bs.take (t.entry - off)
      let s := s.writeEntry die t n off here
      match regTable (o % 0x800000 + here.length), bs.drop here.length with
      | some (t, n, off), b :: rest => s.writeEntry die t n off ((b :: rest).take (t.entry - off))
      | _, _ => s
    | none => s
  else s

end Sys2Proof.Machine
end

