-- ==== Sys2Proof/Machine/Ops.lean ====
section
/-! DEFINITION. The named operations that every meaning shares: leaving the core, TAKING A TRAP and returning from one, and
the order in which an instruction's checks are made (R142, R195, R354 to R372). -/

namespace Sys2Proof.Machine

/-! ### Leaving the core (R142, R356) -/

/-- The wave at issue once its MMAs have drained; a drained one may have killed it (R142, R174, R299). -/
def State.drained (s : State) (body : State → State) : State :=
  let h := s.wave.hdl
  let s := s.drainMmas h
  if s.wave.hdl = h then body s else s

/-- The wave at issue leaves the core: accesses complete, its context is saved, it awaits something (R174, R356). -/
def State.park (s : State) (a : Await) : State :=
  s.onWave fun w =>
    { w with st := .parked, await := a, due := false, slots := 0#8, since := s.nowOf w.die }

/-- A wave takes MC_ECC (R354, R356, R361): the record is counted and logged, the wave parks and its fault port is told.
What it awaited it awaits no more: resumed, it runs its instruction again (R364). Without a fault port it is killed, and the
log alone has the record, with `kill` (R365). -/
def State.eccPark (s : State) (w : Wave) (c : CheckRec) : State :=
  let s := s.count w.die Check.ecc.countOff
  match s.faultPort w.proc with
  | none => (s.kill w.hdl).logRecord w.die 0 (s.checkBody w { c with kill := true })
  | some _ =>
    let body := s.checkBody w c
    let s := (s.logRecord w.die 0 body).unregister (.wave w.hdl)
    let s := match w.await with
      | .waitSet set _ _ =>
        (s.unregister (.member set)).updSet set fun t => { t with waiter := 0#32, reg := [], gone := [] }
      | _ => s
    (s.updWave w.hdl fun w =>
        { w with st := .parked, await := .eccReply, due := false, slots := 0#8, since := s.nowOf w.die }).sendFault
      w.proc w.die w.hdl 2 body []

/-- A release made for a wave met lost sectors: the wave takes MC_ECC for the first, and the others are reported beside it
(R367). -/
def State.lostFor (s : State) (w : Wave) (op : Nat) : List L1Sector → State
  | [] => s
  | d :: ds => ((s.reportLost w op ds).lostCopy w op d).eccPark w (lostRecord w op d)

/-! ### Taking a trap or a fault (R355 to R360) -/

/-- Trap codes (R355). -/
inductive Trap
  | undefOp | illRsvd | illConv | illPriv | align | pageNp | ctrDelta | ctrStore | ctrSpace | fmtBad
  | objBad | objQuota | svc | bkpt | uirq
deriving DecidableEq, Repr

def Trap.code : Trap → Nat
  | .undefOp => 0x01 | .illRsvd => 0x02 | .illConv => 0x03 | .illPriv => 0x04 | .align => 0x05
  | .pageNp => 0x06 | .ctrDelta => 0x08 | .ctrStore => 0x09 | .ctrSpace => 0x0A | .fmtBad => 0x0B
  | .objBad => 0x0C | .objQuota => 0x0D | .svc => 0x0E | .bkpt => 0x0F | .uirq => 0x10

/-- Major opcode of the instruction at issue. -/
def State.opcode (s : State) : Nat := s.iword.toNat / 2 ^ 24

/-- The wave at issue is about to leave the core: its MMAs drain, and the HKU makes a release at die scope for it; where that
meets a lost sector the wave takes MC_ECC instead (R142, R174, R356, R367). -/
def State.leaving (s : State) (body : State → State) : State :=
  s.drained fun s =>
    match s.release s.wave.coreNo .die with
    | (s, []) => body s
    | (s, d :: ds) => s.lostFor s.wave s.opcode (d :: ds)

/-- A message of an event that parks the wave at issue; without a fault port the wave is killed instead, and the
record goes to the error log alone (R356). -/
def State.deliver (s : State) (a : Await) (kind : Nat) (payload : List Byte) (more : List (List Byte)) : State :=
  let w := s.wave
  match s.faultPort w.proc with
  | none => (s.logRecord w.die 0 payload).kill w.hdl
  | some _ => s.leaving fun s => (s.park a).sendFault w.proc w.die w.hdl kind payload more

/-- TAKING A TRAP (R355, R356, R360): nothing of the instruction happens; the wave parks and its handler is told the
code, a detail, the lane, the active mask, an address, and the PC where a plain reply resumes it. -/
def State.takeTrap (s : State) (t : Trap) (detail lane : Nat) (addr npc : DWord) : State :=
  let w := s.wave
  s.deliver (.trapReply npc) 1
    (bytesOfNat 8 w.pc.toNat ++
      [BitVec.ofNat 8 t.code, BitVec.ofNat 8 detail, BitVec.ofNat 8 lane, BitVec.ofNat 8 w.flags] ++
      bytesOfNat 4 w.act.toNat ++ bytesOfNat 4 w.proc.toNat ++ bytesOfNat 4 s.iword.toNat ++
      bytesOfNat 8 s.now ++ bytesOfNat 8 addr.toNat ++ bytesOfNat 8 npc.toNat) []

/-- A trap at the instruction as a whole, resumed at its own PC. -/
def State.trap (s : State) (t : Trap) : State := s.takeTrap t 0 0xFF 0#64 s.wave.pc

/-- A trap that names a lane and its address. -/
def State.trapAt (s : State) (t : Trap) (detail lane : Nat) (addr : DWord) : State :=
  s.takeTrap t detail lane addr s.wave.pc

/-- One entry of 16 bytes (R358). -/
def faultEntry (lanes : Word) (page first cause : Nat) (write fetch uni row : Bool) : List Byte :=
  bytesOfNat 16 (lanes.toNat * 2 ^ 64 + page * 2 ^ 16 + first * 2 ^ 8 + cause * 2 ^ 4 + write.toNat * 8 +
    fetch.toNat * 4 + uni.toNat * 2 + row.toNat)

/-- The faults joined by 64 KiB page, in ascending order of their first lane or row (R359). -/
def faultPages : List FaultAt → List (Nat × FaultAt × List Nat)
  | [] => []
  | f :: t =>
    let p := f.addr.toNat / 65536
    let rest := faultPages t
    let mine := match rest.find? (·.1 = p) with
      | some (_, _, l) => l
      | none => []
    (p, f, f.pos :: mine) :: rest.filter (·.1 ≠ p)

/-- A page fault taken (R36 to R40, R358, R359): the wave parks at its instruction and the pages are reported. When
the only thing outstanding is a page request to the host, it parks without a message; the requests of a die are served in
their order (R26, R402). -/
def State.takePageFault (s : State) (faults : List FaultAt) (unf : Word) (kind : Unfinished)
    (write row : Bool) : State :=
  let s := s.onWave fun w => { w with unf := unf, unfKind := kind }
  let real := faults.filter (·.cause ≠ .hostpending)
  match real, faults with
  | [], f :: _ =>
    s.leaving fun s =>
      let (n, s) := s.newUid
      (s.onWave fun w => { w with asked := if kind = .fetch then [] else faults.map Asked.no }).park
        (.pri s.wave.die (f.addr.toNat / 65536) n)
  | [], [] => s
  | _ :: _, _ =>
    let pages := faultPages real
    let shown := pages.take 32
    let w := s.wave
    let entries := shown.map fun e =>
      faultEntry (if kind = .lanes then maskOf e.2.2 else 0#32) e.1 e.2.1.pos e.2.1.cause.code write
        (kind = .fetch) (kind = .uniform && !row) row
    let n := shown.length
    let nrec := (n + 3) / 4
    let recs := (upto nrec).map fun j =>
      let l := ((entries.drop (4 * j)).take 4).flatten
      l ++ List.replicate (64 - l.length) 0#8
    let payload := bytesOfNat 8 w.pc.toNat ++
      bytesOfNat 4 (if kind = .lanes then unf.toNat else 0) ++
      [BitVec.ofNat 8 n, BitVec.ofNat 8 nrec, BitVec.ofNat 8 (if pages.length > 32 then 1 else 0),
        BitVec.ofNat 8 w.flags] ++
      bytesOfNat 4 w.proc.toNat ++ bytesOfNat 4 s.iword.toNat ++ bytesOfNat 8 s.now ++ List.replicate 16 0#8
    s.deliver .faultReply 0 payload recs

/-- MC_ECC taken by the wave at issue at an instruction or a fetch (R65, R354, R356, R369). Lost sectors that the HKU's
release meets meanwhile are reported as well. -/
def State.takeEcc (s : State) (lane : Nat) (sector : Nat) (path : Nat) : State :=
  let c : CheckRec := ⟨.ecc, s.wave.pc, 0#64, s.opcode, lane, 9, 32 * sector, false, path, 0#32⟩
  match s.faultPort s.wave.proc with
  | none => s.eccPark s.wave c
  | some _ =>
    s.drained fun s =>
      let (s, lost) := s.release s.wave.coreNo .die
      (s.reportLost s.wave s.opcode lost).eccPark s.wave c

/-- A release by the wave at issue that met lost sectors: MC_ECC at this instruction, whose releasing operation is not
performed (R367). -/
def State.takeLost (s : State) (ds : List L1Sector) : State := s.drained fun s => s.lostFor s.wave s.opcode ds

/-- A release by the wave at issue, and then what it carries, unless the release met a lost sector (R109, R367). -/
def State.releaseFirst (s : State) (sc : Scope) (body : State → State) : State :=
  match s.release s.wave.coreNo sc with
  | (s, []) => body s
  | (s, d :: ds) => s.takeLost (d :: ds)

/-- A wave continues at a PC; what was unfinished at another one is forgotten, and so is the leave of a redundant pair's side
to perform it. -/
def Wave.continueAt (w : Wave) (pc : DWord) : Wave :=
  if pc = w.pc then w
  else
    { w with pc := pc, unf := 0#32, unfKind := .no, asked := [], told := none, gathB := false, gathF := false,
             pair := w.pair.map fun p => { p with go := false, pend := [] } }

/-- RETURNING FROM A TRAP, a fault or MC_ECC: the reply with action 0 (R364). A page fault replays; a trap goes on at
`npc`, or at its default PC. -/
def State.resumeWave (s : State) (w : Wave) (npc : DWord) : State :=
  let s := match w.await with
    | .trapReply d => s.updWave w.hdl fun w => w.continueAt (if npc = 0#64 then d else npc)
    | .eccReply => s.updWave w.hdl fun w => w.continueAt (if npc = 0#64 then w.pc else npc)
    | _ => s
  s.wakeUp w.hdl

/-- A wave killed by a machine check of its own instruction: the kill, then the record with `kill` (R365, R372). -/
def State.checkKill (s : State) (cls : Check) (lane unit path : Nat) : State :=
  let w := s.wave
  (s.kill w.hdl).reportCheck w ⟨cls, w.pc, 0#64, s.opcode, lane, unit, 0, true, path, 0#32⟩

/-! ### Injection of a check failure (R226, R372) -/

def rjArm (r : DWord) : Bool := r.getLsbD 0
def rjCount (r : DWord) : Nat := bits r.toNat 4 2
def rjLane (r : DWord) : Nat := bits r.toNat 6 5
def rjOp (r : DWord) : Nat := bits r.toNat 16 8
def rjWave (r : DWord) : Handle := BitVec.ofNat 32 (bits r.toNat 32 32)

def State.resinjOf (s : State) (die : Nat) : DWord := Sparse.get 0#64 s.resinj die
def State.setResinj (s : State) (die : Nat) (v : DWord) : State :=
  { s with resinj := Sparse.put 0#64 s.resinj die v }

/-- The wave that the pending injection of a die names: 0 names the wave that wrote it (R226). -/
def State.rjTarget (s : State) (die : Nat) : Handle :=
  let h := rjWave (s.resinjOf die)
  if h = 0#32 then Sparse.get 0#32 s.resinjBy die else h

/-- Whether the pending injection of the die strikes this instruction, and whether its replay fails as well. Lanes are
those that the instruction works in; none for a uniform instruction. -/
def State.strikes (s : State) (lanes : Option (List Nat)) : Option Bool :=
  let r := s.resinjOf s.wave.die
  if rjArm r && decide (s.rjTarget s.wave.die = s.wave.hdl) && decide (rjOp r = s.opcode) &&
      (match lanes with
       | none => true
       | some l => l.contains (rjLane r)) then
    some (rjCount r = 2)
  else none

/-- Instructions of the vector datapaths with a residue check on the mantissa and parity on sign and exponent (R371). -/
def twoChecks (op : Nat) : Bool :=
  decide (0x70 ≤ op) && decide (op ≤ 0x82) && !([0x74, 0x75, 0x7C, 0x7D].contains op)

/-- Whether an error that arose in a datapath of a unit strikes this instruction: its lane, and whether the replay fails as
well (R371, R372). -/
def State.upsetAt (s : State) (unit : Nat) (lanes : Option (List Nat)) : Option (Nat × Bool) :=
  match s.upset with
  | none => none
  | some u =>
    if decide (u.wave = s.wave.hdl) && decide (u.unit = unit) && (!u.other || twoChecks s.opcode) &&
        (match lanes with
         | none => true
         | some l => l.contains u.lane) then
      some (if lanes.isNone then 0xFF else u.lane, u.twice)
    else none

/-- A check of an instruction that only an error of its datapath fails: corrected at its replay, or the wave is killed
(R372). -/
def State.sound (s : State) (cls : Check) (unit path : Nat) (lanes : Option (List Nat)) (body : State → State) : State :=
  match s.upsetAt unit lanes with
  | none => body s
  | some (lane, twice) =>
    let cls := if s.upset.any (·.other) then .parity else cls
    let s := { s with upset := none }
    if twice then s.checkKill cls lane unit path
    else body (s.corrected s.wave ⟨cls, s.wave.pc, 0#64, s.opcode, lane, unit, 0, false, path, 0#32⟩)

/-- Checked work: a failure, injected or of the datapath, is corrected at its replay, or kills the wave (R226, R372). -/
def State.checked (s : State) (cls : Check) (unit path : Nat) (lanes : Option (List Nat)) (body : State → State) :
    State :=
  match s.strikes lanes with
  | none => s.sound cls unit path lanes body
  | some twice =>
    let r := s.resinjOf s.wave.die
    let lane := if lanes.isNone then 0xFF else rjLane r
    let s := s.setResinj s.wave.die (r &&& ~~~1#64)
    if twice then s.checkKill cls lane unit path
    else body (s.corrected s.wave ⟨cls, s.wave.pc, 0#64, s.opcode, lane, unit, 0, false, path, 0#32⟩)

/-! ### The order of an instruction's checks (R195) -/

/-- No vector destination. -/
def noVector : BitVec 8 × Nat := (0xFF#8, 0)

/-- Rows 4 to 6 of R195 as far as they depend on the state: registers within budget, privilege, convention; and the
vector registers that the instruction writes, the first and their number (R292). -/
structure Need where
  budget : Bool := true
  privileged : Bool := false
  convention : Bool := true
  writes : BitVec 8 × Nat := noVector

/-- The instruction's body behind the checks of R195, in their order; then it waits for the MMAs that read as fragments what
it writes (R292). -/
def State.perform (s : State) (n : Need) (body : State → State) : State :=
  if !n.budget then s.trap .illRsvd
  else if n.privileged && !s.wave.priv then s.trap .illPriv
  else if !n.convention then s.trap .illConv
  else s.waitMmas (s.fragReaders n.writes.1 n.writes.2) body

end Sys2Proof.Machine
end

