-- ==== Sys2Proof/Machine/Pair.lean ====
section
/-! DEFINITION. Redundant pairs: the records that a side contributes, the buffer of its writes, and the points at which
the sides are compared (14 R375 to R378). Every operation here leaves a wave that is no side of a pair as it is. -/

namespace Sys2Proof.Machine

/-! ### Records (R376) -/

/-- The signature with which a block begins: the initial value of the CRC-64 (R178). -/
def sigStart : DWord := BitVec.allOnes 64

/-- A write record: the address, the size, and the data. -/
def writeRec (a : Nat) (data : List Byte) : List Byte :=
  bytesOfNat 8 a ++ bytesOfNat 2 data.length ++ List.replicate 6 0#8 ++ bytesAt data 0 16

/-- The instruction records of an engine or kernel-object instruction: its words, then the uniform registers that it
reads, two by two. -/
def instrRecs (pc : DWord) (word ext : Word) (regs : List DWord) : List (List Byte) :=
  let head := bytesOfNat 8 pc.toNat ++ bytesOfNat 2 0 ++ [1#8, 0#8] ++ bytesOfNat 4 word.toNat ++
    bytesOfNat 4 ext.toNat ++ List.replicate 12 0#8
  let pairs := (upto ((regs.length + 1) / 2)).map fun j =>
    bytesOfNat 8 pc.toNat ++ bytesOfNat 2 (j + 1) ++ [1#8, 0#8] ++ List.replicate 4 0#8 ++
      bytesOfNat 8 (regs.getD (2 * j) 0#64).toNat ++ bytesOfNat 8 (regs.getD (2 * j + 1) 0#64).toNat
  head :: pairs

/-- A record taken into a side's signature; the 64th ends a block, and the signature begins anew (R376). -/
def PairSide.take (p : PairSide) (r : List Byte) : PairSide :=
  let sig : DWord := BitVec.ofNat 64 (r.foldl crcByte p.sig.toNat)
  if p.recs = 63 then { p with sig := sigStart, recs := 0, sigs := p.sigs ++ [sig] }
  else { p with sig := sig, recs := p.recs + 1 }

/-- Records taken into a side's signature. -/
def PairSide.contribute (p : PairSide) (recs : List (List Byte)) : PairSide := recs.foldl PairSide.take p

/-- A held write touches a byte. -/
def Held.covers (h : Held) (key : Nat) : Bool := decide (h.key ≤ key) && decide (key < h.key + h.bytes.length)

/-- The writes of one instruction, each with the sectors that all of them cover whole and that none after it touches (R65). -/
def markWhole (all : List Held) : List Held → List Held
  | [] => []
  | h :: t =>
    let whole := (sectorsOf h.key h.bytes.length).filter fun q =>
      ((upto 32).all fun i => all.any fun g => g.covers (32 * q + i)) &&
        !t.any fun g => (sectorsOf g.key g.bytes.length).contains q
    { h with whole := whole } :: markWhole all t

/-- An instruction's writes are complete: the held ones whose records lie beyond the last whole block stay for the next
comparison, the others belong to this one (R376, R377). `lanes` names the records. -/
def PairSide.settle (p : PairSide) (lanes : List Nat) : PairSide :=
  let next := lanes.drop (lanes.length - p.recs)
  let mine := p.held.drop p.ended
  let now := mine.filter fun h => !next.contains h.pos
  let mine := now ++ mine.filter fun h => next.contains h.pos
  let held := p.held.take p.ended ++ markWhole mine mine
  { p with held := held, ended := held.length, cut := min p.ended p.held.length + now.length }

/-- A side changed. -/
def State.onPair (s : State) (f : PairSide → PairSide) : State :=
  s.onWave fun w => { w with pair := w.pair.map f }

/-- When both sides stand at a point they are compared. -/
def State.meet (s : State) : State :=
  match s.wave.pair with
  | none => s
  | some p =>
    match s.findWave p.partner with
    | some o =>
      match o.pair with
      | some q => if q.atPoint then s.oweIn .pairComparison { h := if p.side1 then o.hdl else s.wave.hdl } else s
      | none => s
    | none => s

/-- A side stops at a point of the instruction at a PC. -/
def State.stopAt (s : State) (k : PairPoint) (pc : DWord) : State :=
  let op := s.opcode
  (s.onPair fun p => { p with atPoint := true, point := k, go := false, ppc := pc, pop := op }).meet

/-- The writes that the instruction at a PC has completed: their records, and the comparison that the end of a block of 64
brings (R376). -/
def State.recorded (s : State) (pc : DWord) (lanes : List Nat) (recs : List (List Byte)) : State :=
  match s.wave.pair with
  | none => s
  | some p =>
    let q := (p.contribute recs).settle lanes
    let s := s.onPair fun _ => q
    if q.sigs = [] then s else s.stopAt .block pc

/-! ### The pair buffer (R377) -/

/-- The byte that a side has written and still holds, the newest of its writes. -/
def heldByte : List Held → Nat → Option Byte
  | [], _ => none
  | h :: t, key =>
    match heldByte t key with
    | some b => some b
    | none => if h.key ≤ key ∧ key < h.key + h.bytes.length then some (h.bytes.getD (key - h.key) 0#8) else none

/-- Bytes as a side reads them: what it holds, else what it sees. -/
def Wave.overlay (w : Wave) (key : Nat) (bs : List Byte) : List Byte :=
  match w.pair with
  | none => bs
  | some p =>
    if p.held = [] then bs
    else (bs.zip (upto bs.length)).map fun e => (heldByte p.held (key + e.2)).getD e.1

/-! ### Points before an operation (R376, R377) -/

/-- What a register map holds after a change, where it differs from before. -/
def deltaOf {α : Type} [DecidableEq α] (d : α) (old new : Sparse α) : List (Nat × α) :=
  (new.filter fun e => Sparse.get d old e.1 ≠ e.2) ++
    (old.filter fun e => Sparse.get d new e.1 = d ∧ e.2 ≠ d).map fun e => (e.1, d)

def applyDelta {α : Type} [DecidableEq α] (d : α) (m : Sparse α) (l : List (Nat × α)) : Sparse α :=
  l.foldl (fun m e => Sparse.put d m e.1 e.2) m

/-- The registers that an operation changed in one wave are changed alike in another (R377). -/
def Wave.mirror (w before after : Wave) : Wave :=
  { w with
    s := applyDelta 0#64 w.s (deltaOf 0#64 before.s after.s)
    k := applyDelta 0#32 w.k (deltaOf 0#32 before.k after.k)
    v := applyDelta 0#32 w.v (deltaOf 0#32 before.v after.v)
    cc := after.cc
    slots := after.slots
    pc := after.pc }

/-- A side whose operation was not made, since its release met a lost sector, may make it when its instruction runs again. -/
def State.stillDue (s : State) (h : Handle) : State :=
  s.updWave h fun w => { w with pair := w.pair.map fun p => { p with go := true } }

/-- A wave is parked on a trap. -/
def Await.isTrap : Await → Bool
  | .trapReply _ => true
  | _ => false

/-- The other side takes the trap that side 0's operation has raised, with its own message and its own reply: the same
check of the same instruction finds it (R378). Both leave the point. -/
def State.trapBoth (s : State) (h partner : Handle) (body : State → State) : State :=
  let clear : Wave → Wave := fun w => { w with pair := w.pair.map fun p => { p with atPoint := false, go := false } }
  let s := s.updWave partner fun w => { clear w with st := .resident, await := .nothing }
  let t := body (s.turnTo partner)
  if t.wave.hdl = partner ∧ t.wave.await.isTrap = true then ((t.turnTo h).updWave h clear).updWave partner clear
  else s.stillDue h

/-- Side 0 has done its operation: the other side takes the same results and goes on, and with a side that waits for a
reply it waits (R377, R378). -/
def State.mirrorTo (s : State) (before : Wave) (partner : Handle) (body : State → State) : State :=
  match s.findWave before.hdl with
  | none => s.retire partner
  | some w =>
    if w.await.isTrap then s.trapBoth before.hdl partner body
    else if w.pc = before.pc ∧ w.st ≠ .waiting then s.stillDue before.hdl
    else
      s.updWave partner fun o =>
        let o := o.mirror before w
        { o with
          pair := o.pair.map fun p => { p with atPoint := false, go := false, point := .block, pend := [] }
          st := if w.st = .waiting then .waiting else .resident
          await := if w.st = .waiting then .pairPoint else .nothing }

/-- The wave awaits a counter off-core (R279): its operation has been made. -/
def Await.isCont : Await → Bool
  | .cont _ _ _ _ _ => true
  | _ => false

/-- An operation whose effect must happen once, or that releases: a side of a pair contributes its records and stops;
after an equal comparison side 0 performs it for both, or each side performs it (R376, R377). The leave to perform it is
good for the instruction that was compared and no other. -/
def State.once (s : State) (k : PairPoint) (recs : List (List Byte)) (body : State → State) : State :=
  match s.wave.pair with
  | none => body s
  | some p =>
    if p.go && decide (p.ppc = s.wave.pc) then
      let w := s.wave
      let s := body (s.onPair fun p => { p with go := false, point := .block, atPoint := false, pend := [] })
      if k = .each then
        match s.findWave w.hdl with
        | some v => if v.pc = w.pc ∧ v.st = .parked ∧ v.await = .eccReply then s.stillDue w.hdl else s
        | none => s
      else s.mirrorTo w p.partner body
    else (s.onPair (·.contribute recs)).stopAt k s.wave.pc

/-- A change to a waiting wave that its awaited event brings, made alike to the other side of a pair, which it wakes
(R377). -/
def State.bothSides (s : State) (h : Handle) (f : Wave → Wave) : State :=
  match s.findWave h with
  | none => s
  | some w =>
    let s := s.updWave h f
    match w.pair with
    | none => s
    | some p =>
      match s.findWave p.partner with
      | some o =>
        if o.await = .pairPoint then (s.updWave o.hdl f).wakeUp o.hdl else s
      | none => s

end Sys2Proof.Machine
end

