-- ==== Sys2Proof/Machine/Flags.lean ====
section
/-! DEFINITION. Every computation of cc (R212, R213, R281). -/

namespace Sys2Proof.Machine

/-- Z, N, C and V written. -/
def Wave.setZNCV (w : Wave) (z n c v : Bool) : Wave := (((w.flag 0 z).flag 1 n).flag 2 c).flag 3 v

/-- SADD (R214): C is the carry, V a result whose sign is that of neither operand. -/
def Wave.flagsAdd (w : Wave) (b c : DWord) : Wave :=
  let r := b + c
  w.setZNCV (r = 0#64) r.msb (decide (b.toNat + c.toNat ≥ 2 ^ 64)) (b.msb == c.msb && b.msb != r.msb)

/-- SSUB and SCMP (R214): C is the borrow. -/
def Wave.flagsSub (w : Wave) (b c : DWord) : Wave :=
  let r := b - c
  w.setZNCV (r = 0#64) r.msb (decide (b.toNat < c.toNat)) (b.msb != c.msb && r.msb != b.msb)

/-- SAND, SOR and SXOR (R213). -/
def Wave.flagsLogic (w : Wave) (r : DWord) : Wave := w.setZNCV (r = 0#64) r.msb false false

/-- Mask instructions: Z and N of the 32-bit result (R213). -/
def Wave.flagsMask (w : Wave) (r : Word) : Wave := (w.flag 0 (r = 0#32)).flag 1 r.msb

/-- KPOP and KFIRST: Z when the source mask is 0 (R213). -/
def Wave.flagsCount (w : Wave) (src : Word) : Wave := w.flag 0 (src = 0#32)

/-- CWAIT and CPOLL (R278, R280, R281). -/
def Wave.flagsWait (w : Wave) (reach : Bool) (st : CtrStatus) : Wave :=
  ((w.flag 0 reach).flag 4 (st ≠ .ok)).flag 5 (st = .faulted)

end Sys2Proof.Machine
end

