-- ==== Sys2Proof/Machine/Access.lean ====
section
/-! DEFINITION. The accesses of memory, counter and atomic instructions: their addresses, the checks of R35 in their
order, what a read finds and what a write does (01 R24, R35 to R41; 10 R263 to R265). -/

namespace Sys2Proof.Machine

/-! ### Addresses (R24, R264) -/

/-- What an instruction's accesses have in common. -/
structure Form where
  /-- made by the uniform agent, once -/
  uni : Bool
  size : Nat
  kind : Kind
  /-- field `b`, field `c` as the offset's register, and the immediate -/
  base : BitVec 8
  offs : BitVec 8
  imm : BitVec 10
  /-- a counter instruction, and whether it takes references (R75, R264) -/
  ctr : Bool := false
  refs : Bool := false
  /-- a reduction; whether it is an integer add (R272) -/
  red : Option Bool := none
deriving DecidableEq, Repr

/-- An access: its lane, its offset with the immediate, and its address. -/
structure Acc where
  pos : Nat
  off : Int
  va : DWord
deriving DecidableEq, Repr

def Form.sp (f : Form) : Bool := MBase.sp f.base
def Form.xreg (f : Form) : Nat := (MBase.xreg f.base).toNat

/-- The signed offset of a lane, or of the uniform agent (R185, R264). -/
def State.offsetOf (s : State) (f : Form) (l : Nat) : Int :=
  let wideOff := MBase.wide f.base
  if f.uni then
    if MBase.uoff f.base then
      let v := s.readU f.offs
      if wideOff then v.toInt else ((v.setWidth 32 : Word)).toInt
    else 0
  else if wideOff then (BitVec.ofNat 64 (s.wave.laneNat f.offs l 2)).toInt
  else (s.wave.laneWord f.offs l).toInt

/-- The access of a lane. -/
def State.accOf (s : State) (f : Form) (l : Nat) : Acc :=
  let o := s.offsetOf f l + f.imm.toInt * f.size
  ⟨l, o, if f.sp then BitVec.ofInt 64 o else xVbase (s.wave.getX f.xreg) + BitVec.ofInt 64 o⟩

/-- The lanes that an instruction acts on, position 0 for the uniform agent (R263). -/
def State.positions (s : State) (f : Form) : List Nat := if f.uni then [0] else s.wave.lanes

def State.accs (s : State) (f : Form) : List Acc := (s.positions f).map (s.accOf f)

/-- The address names a counter reference (R264). -/
def Form.isRef (f : Form) (a : Acc) : Bool := f.ctr && !f.sp && decide (refTag a.va = 9)

/-! ### Translation (R24) -/

/-- A register's fields as a lease gives them. -/
def TlbEntry.toX (t : TlbEntry) (va : DWord) (wint : Bool) : BitVec 256 :=
  let x := t.xlat va.toNat
  xMake va.toNat x.pa (ptePkg t.pte) (pteTarget t.pte) x.left wint true t.r t.w (ptePriv t.pte) (pteType t.pte)
    (pteAttr t.pte) t.expiry

/-- The lease of an address under an intent: one cached that carries it, or a walk's (R24, R27). -/
def State.leaseFor (s : State) (wint : Bool) (va : Nat) : State × Except Cause TlbEntry :=
  let w := s.wave
  match s.tlbSearch (some w.coreNo) w.die w.proc va fun t => !wint || t.w with
  | some t => (s.tlbFill (some w.coreNo) t, .ok t)
  | none => s.walkLease w.die w.proc wint va (some w.coreNo)

/-- The transparent re-walk of an expired register, with the intent it was filled with (R24). -/
def State.rewalk (s : State) (n : Nat) : State :=
  let x := s.wave.getX n
  if xValid x && decide (xExpiry x ≤ s.now) then
    match s.leaseFor (xWint x) (xVbase x).toNat with
    | (s, .ok t) => s.onWave (·.setX n (t.toX (xVbase x) (xWint x)))
    | (s, .error _) => s.onWave (·.setX n (x &&& ~~~(BitVec.ofNat 256 (2 ^ 164))))
  else s

/-- A valid register permits a kind of access (R24). -/
def permitted (x : BitVec 256) (priv : Bool) (k : Kind) : Bool :=
  (match k with
   | .load | .ctrRead | .fetch => xR x
   | .store => xW x
   | .rmw | .ctrWrite => xR x && xW x) && (!xPriv x || priv)

/-- One lane's address in the map that its page names: through the register where its reach and permissions allow, else
through the TLBs; a page that takes no reduction refuses one (R24, R272). At a replay every walk is new (R39). -/
def State.translateAcc (s : State) (f : Form) (a : Acc) : State × Except Cause Hit :=
  let w := s.wave
  let x := w.getX f.xreg
  let last : Nat → Nat → Nat → Nat → Nat → Except Cause Hit := fun pa type target attr pkg =>
    if f.red.any (reductionBars target attr) then .error .perm else .ok ⟨a.pos, a.va, pa, type, target, attr, pkg, false⟩
  if xValid x && decide (0 ≤ a.off) && decide (a.off + f.size ≤ xLimit x) && permitted x w.priv f.kind then
    (s, last (xPbase x + a.off.toNat) (xType x) (xTarget x) (xAttr x) (xPkg x))
  else
    match s.translate w.die w.proc w.priv (w.unfKind ≠ .no) f.kind a.va.toNat (some w.coreNo) with
    | (s, .error c) => (s, .error c)
    | (s, .ok t) =>
      (s, last t.pa (pteType t.entry.pte) (pteTarget t.entry.pte) (pteAttr t.entry.pte) (ptePkg t.entry.pte))

/-- Row 2 of R35 for every access, in order: the accesses that translated, and the faults. -/
def State.translateAll (s : State) (f : Form) : List Acc → State × List (Except FaultAt Hit)
  | [] => (s, [])
  | a :: t =>
    let (s, r) :=
      if f.isRef a then (s, .ok ⟨a.pos, a.va, 0, 1, 0, 0, 0, true⟩)
      else if f.sp then (s, .ok ⟨a.pos, a.va, spKey s.wave.team a.off.toNat, 1, 0, 0, 0, false⟩)
      else s.translateAcc f a
    let (s, rest) := s.translateAll f t
    (s, r.mapError (fun c => ⟨a.pos, a.va, c⟩) :: rest)

/-- What is known of an access: where it goes, or its fault. -/
def Asked.result : Asked → Except FaultAt Hit
  | .may h => .ok h
  | .no f => .error f

/-- Row 2 of R35 for an instruction: its accesses checked now, through the register re-walked, or as they were checked before
the host was asked about some of them (R26, R28). -/
def State.translated (s : State) (f : Form) (as : List Acc) : State × List (Except FaultAt Hit) :=
  if s.wave.asked = [] then (if f.sp || as.isEmpty then s else s.rewalk f.xreg).translateAll f as
  else (s.onWave fun w => { w with asked := [] }, s.wave.asked.map Asked.result)

/-- An access of the host or of a peer that has been sent on already: its key is that of its home. -/
def Hit.sent (h : Hit) : Bool :=
  (decide (h.target = 1) && decide (2 ^ 64 ≤ h.key)) || (decide (h.target = 2) && isPeerKey h.key)

/-- The home of an access, which a host or a peer may still refuse: only an access that is permitted locally is sent on
(R26, R34, R37). -/
def State.sendOn (s : State) (f : Form) (h : Hit) : Except FaultAt Hit :=
  if f.sp || h.ref || h.sent then .ok h
  else
    match s.reach s.wave.die s.wave.proc f.kind h.target h.pkg h.key with
    | .ok key => .ok { h with key := key }
    | .error c => .error ⟨h.pos, h.va, c⟩

/-- The accesses among some results, and the faults. -/
def okOf : List (Except FaultAt Hit) → List Hit
  | [] => []
  | .ok h :: t => h :: okOf t
  | .error _ :: t => okOf t

def errOf : List (Except FaultAt Hit) → List FaultAt
  | [] => []
  | .ok _ :: t => errOf t
  | .error e :: t => e :: errOf t

/-- What is remembered of an access while the host answers: where it may be made, or that it may be sent on, or its fault. -/
def Asked.of : Except FaultAt Hit → Except FaultAt Hit → Asked
  | _, .ok h => .may h
  | .ok h, .error e => if e.cause = .hostmiss then .may h else .no e
  | .error _, .error e => .no e

/-- The wave waits in its slot for an ATS answer about the page of a fault (R26). -/
def State.askHost (s : State) (e : FaultAt) (writes : Bool) (asked : List Asked) : State :=
  (s.onWave fun w => { w with asked := asked }).wait (.ats s.wave.die (e.addr.toNat / 65536) writes)

/-! ### Where an access is served -/

/-- Whether an access is to the device registers or to a directory of a command window (R7, R406). -/
def Hit.dev (h : Hit) : Bool := decide (h.target = 0) && isDevKey h.key

/-- Lines that a core's L1 may take in (R52, R125): no type-C page, no `attr` 1 or 2. -/
def Hit.cached (h : Hit) : Bool := !isSpKey h.key && decide (h.type ≠ 1) && decide (h.attr = 0) && !h.dev

/-- Lines that an access looks for in the L1: with `attr` 1 one that is already there is used (R53). -/
def Hit.looks (h : Hit) : Bool := !isSpKey h.key && decide (h.type ≠ 1) && decide (h.attr < 2) && !h.dev

/-! ### The checks of R35 -/

/-- Row 4: the trap that a page's type raises for an access that translated (R20). -/
def Form.typeTrap (f : Form) (h : Hit) : Option Trap :=
  if f.sp || h.ref then none
  else if f.ctr then (if h.type = 1 then none else some .ctrSpace)
  else if f.kind.writes && decide (h.type = 1) then some .ctrStore
  else none

/-- The lane that a trap names: none for a uniform access. -/
def Form.lane (f : Form) (pos : Nat) : Nat := if f.uni then 0xFF else pos

/-- A scratchpad access lies wholly within the team's grant (R45). -/
def State.inGrant (s : State) (f : Form) (a : Acc) : Bool :=
  match s.myTeam with
  | some t => decide (0 ≤ a.off) && decide (a.off + f.size ≤ t.units * 16384)
  | none => false

/-- An access misses its natural alignment; a reference that is taken has none (R35 row 1). -/
def Form.misaligned (f : Form) (a : Acc) : Bool := !(f.refs && f.isRef a) && a.va.toNat % f.size != 0

/-- Row 1 and the scratchpad's bound: the trap of the first check that some lane fails, in the order of R35. `delta`
gives the lanes whose delta is too large. -/
def State.rowOne (s : State) (f : Form) (as : List Acc) (delta : Nat → Bool) : Option (Trap × Nat × Acc) :=
  match as.find? f.misaligned with
  | some a => some (.align, 0, a)
  | none =>
    match as.find? (fun a => f.isRef a && !f.refs) with
    | some a => some (.ctrSpace, 0, a)
    | none =>
      match as.find? (fun a => delta a.pos) with
      | some a => some (.ctrDelta, 0, a)
      | none =>
        if f.sp then (as.find? fun a => !s.inGrant f a).map fun a => (.pageNp, Cause.spbound.code, a) else none

/-- A read of `n` bytes meets a sector in error: one that the core's L1 holds, or one at its home that the L1 does not hold
in every byte read (R65). `l1` says that the read looks into the L1. -/
def State.meets (s : State) (l1 : Bool) (key n q : Nat) : Bool :=
  let mine := (upto n).filter fun i => decide ((key + i) / 32 = q)
  let home := s.anyPoison (key + mine.headD 0) mine.length
  match (if l1 then s.l1At s.wave.coreNo q else none) with
  | some e => e.bad || (home && mine.any fun i => !e.valid.getLsbD ((key + i) % 32))
  | none => home

/-- The first sector in error that a read meets: its lane and sector (R65). -/
def State.poisonHit (s : State) (f : Form) (hits : List Hit) : Option (Nat × Nat) :=
  if s.poison = [] ∧ s.l1.all (!·.bad) then none
  else
    hits.findSome? fun h =>
      ((sectorsOf h.key f.size).find? fun q => s.meets h.looks h.key f.size q).map fun q => (h.pos, q)

/-- What is left unfinished: the lanes that faulted; 0 for a uniform access (R36, R263). -/
def Form.unfinished (f : Form) (faults : List FaultAt) : Word :=
  if f.uni then 0#32 else maskOf (faults.map (·.pos))

/-- The wave parks with its unfinished lanes (R36). -/
def State.parkUnfinished (s : State) (f : Form) (faults : List FaultAt) : State :=
  s.takePageFault faults (f.unfinished faults) (if f.uni then .uniform else .lanes) f.kind.writes false

/-- The lanes that an instruction's checks work in (R226). -/
def State.checkLanes (s : State) (f : Form) : Option (List Nat) := if f.uni then none else some (s.positions f)

/-- An instruction's accesses behind the checks of R35 in their order, and the parity of their data (R371). `extra` is a further
check of the instruction over what translated, with the access that fails it; `act` makes the accesses that may be made. While
an ATS answer is out the wave waits in its slot, and nothing is performed (R26). A write whose copy of code would exceed a
quota traps OBJ_QUOTA, and nothing of the instruction is performed (R153, R209; log entry 45). -/
def State.judged (s : State) (f : Form) (delta : Nat → Bool) (extra : State → List Hit → Option (Trap × Hit))
    (act : State → List Hit → List FaultAt → State) : State :=
  let lanes := s.checkLanes f
  let as := s.accs f
  match s.rowOne f as delta with
  | some (t, d, a) => s.trapAt t d (f.lane a.pos) a.va
  | none =>
    let (s, rs) := s.translated f as
    match (okOf rs).find? fun h => (f.typeTrap h).isSome with
    | some h => s.trapAt ((f.typeTrap h).getD .ctrSpace) 0 (f.lane h.pos) h.va
    | none =>
      match extra s (okOf rs) with
      | some (t, h) => s.trapAt t 0 (f.lane h.pos) 0#64
      | none =>
        let sent := rs.map fun r => r.bind (s.sendOn f)
        match (errOf sent).find? (·.cause = .hostmiss) with
        | some e => s.askHost e f.kind.writes (List.zipWith Asked.of rs sent)
        | none =>
          if (errOf sent).any (·.cause = .quota) then s.trap .objQuota
          else s.sound .parity 4 0 lanes fun s => act s (okOf sent) (errOf sent)

/-- The check of the addresses comes before every other (R372). -/
def State.access (s : State) (f : Form) (delta : Nat → Bool) (extra : State → List Hit → Option (Trap × Hit))
    (act : State → List Hit → List FaultAt → State) : State :=
  s.checked .residue 3 0 (s.checkLanes f) fun s => s.judged f delta extra act

/-- Whether an instruction's accesses are an acquire or a release, and reach beyond the core (R98, R109). -/
def isAcq (o : Order) : Bool := o == .acq || o == .acqrel
def isRel (o : Order) : Bool := o == .rel || o == .acqrel
def acqWide (f : Form) (x : MemExt) : Bool := isAcq x.order && wide x.scope && !f.sp

/-- The end of a memory instruction: faults park it, else its slot is set and the wave moves on (R36, R105). -/
def State.finish (s : State) (f : Form) (x : Slots) (faults : List FaultAt) : State :=
  if faults = [] then (s.setSlot x).next 8 else s.parkUnfinished f faults

/-- The release of an ordered access that performs something: a lost sector stops it (R35, R367). -/
def State.releaseThen (s : State) (f : Form) (x : MemExt) (some_ : Bool) (body : State → State) : State :=
  if isRel x.order && !f.sp && some_ then s.releaseFirst x.scope body else body s

/-- What the core's L1 holds of the places goes home before accesses that are made there (R104, R118). -/
def State.homeward (s : State) (hits : List Hit) (n : Nat) : State :=
  s.l1Home s.wave.coreNo ((hits.filter (!·.ref)).map (·.key)) n

/-! ### Reading and writing bytes -/

/-- The bytes that a read finds (R20, R53, R109, R267, R377): a read that acquires beyond the core, or whose page the L1 does
not serve, reads its home. -/
def State.loadBytes (s : State) (h : Hit) (acq : Bool) (n : Nat) : List Byte :=
  let bs :=
    if h.dev then s.devRead h.key n
    else if h.looks && !acq then s.seenBytes s.wave.coreNo (h.type = 2) h.key n
    else s.readBytes (h.type = 2) h.key n
  s.wave.overlay h.key bs

/-- The value that a read finds. -/
def State.loadNat (s : State) (h : Hit) (acq : Bool) (n : Nat) : Nat := natOfBytes (s.loadBytes h acq n)

/-- What a read leaves in the L1: a fill under policies 0 and 2, unless it acquires (R52, R53, R109). -/
def State.afterLoad (s : State) (h : Hit) (policy : BitVec 2) (acq : Bool) (n : Nat) : State :=
  if h.cached && !acq && !policy.getLsbD 0 then s.l1Fill s.wave.coreNo (h.type = 2) (strmPolicy policy) h.key n else s

/-- The policy under which a write is made: one that releases beyond the core is itself made at its home, where an
acquiring read looks for it (R109; log entry 4). -/
def writePolicy (x : MemExt) : BitVec 2 :=
  if isRel x.order && wide x.scope then x.policy ||| 1#2 else x.policy

/-- A write under a policy goes into the L1 (R53). -/
def Hit.intoL1 (h : Hit) (policy : BitVec 2) : Bool := h.cached && decide (h.target = 0) && !policy.getLsbD 0

/-- A write made at its home, or to a device register. -/
def State.storeHome (s : State) (h : Hit) (bs : List Byte) : State :=
  if h.dev then s.devWrite h.key bs else s.writeBytes h.key bs

/-- A write of bytes at once: to a device register, the L1, or the home (R53, R105). -/
def State.storeBytes (s : State) (policy : BitVec 2) (h : Hit) (bs : List Byte) : State :=
  let w := s.wave
  if h.dev || isSpKey h.key then s.storeHome h bs
  else if h.intoL1 policy then s.l1Store w.coreNo (strmPolicy policy) h.key bs w.hdl w.proc w.pc
  else (s.l1FlushRange w.coreNo h.key bs.length).storeHome h bs

/-- A write, held back by a side of a redundant pair unless it is to scratchpad (R377). -/
def State.store (s : State) (policy : BitVec 2) (h : Hit) (bs : List Byte) : State :=
  match s.wave.pair with
  | none => s.storeBytes policy h bs
  | some _ =>
    if isSpKey h.key then s.storeBytes policy h bs
    else s.onPair fun p => { p with held := p.held ++ [⟨h.key, bs, h.pos, []⟩] }

/-- Every write of one instruction, lanes ascending; a sector that they cover whole is sound again, at its home or in the
L1 (R65, R102). -/
def State.storeAll (s : State) (put : State → Hit → List Byte → State) (inL1 : Hit → Bool)
    (cells : List (Hit × List Byte)) : State :=
  let sound := decide (s.poison = []) && s.l1.all (!·.bad)
  let s := cells.foldl (fun (s : State) c => put s c.1 c.2) s
  if sound then s
  else
    let covered : Bool → Nat → Bool := fun l1 q =>
      (upto 32).all fun i => cells.any fun c =>
        decide (c.1.key ≤ 32 * q + i) && decide (32 * q + i < c.1.key + c.2.length) && inL1 c.1 == l1
    (cells.flatMap fun c => sectorsOf c.1.key c.2.length).foldl
      (fun (s : State) q =>
        if covered false q then s.setPoison q false
        else if covered true q then s.l1Sound s.wave.coreNo q
        else s) s

/-! ### Write records of an instruction (R376) -/

/-- The address of a write record. -/
def Form.recAddr (f : Form) (a : Acc) : Nat := if f.sp then a.off.toNat + 2 ^ 63 else a.va.toNat

/-- The lanes, or the agent, whose writes make the records of an instruction, in their order. -/
def State.recLanes (s : State) (f : Form) : List Nat := if f.uni then [0] else lanesOf s.wave.act

/-- The records of an instruction: one for each active lane, or one for a uniform write. -/
def State.writeRecs (s : State) (f : Form) (data : Nat → List Byte) : List (List Byte) :=
  (s.recLanes f).map fun l => writeRec (f.recAddr (s.accOf f l)) (data l)

/-- Accesses in the order of their lanes. -/
def inLaneOrder (hits : List Hit) : List Hit := (upto 32).flatMap fun l => hits.filter fun h => decide (h.pos = l)

/-- The accesses of an operation that happens once: a side of a redundant pair keeps those that may be made while others
are unfinished, and makes all of them after its comparison (R36, R376, R377). -/
def State.allTogether (s : State) (f : Form) (hits : List Hit) (faults : List FaultAt)
    (body : State → List Hit → List FaultAt → State) : State :=
  match s.wave.pair with
  | none => body s hits faults
  | some p =>
    let all := if p.pend = [] then hits else inLaneOrder (p.pend ++ hits)
    if faults = [] then body s all []
    else (s.onPair fun p => { p with pend := all }).parkUnfinished f faults

end Sys2Proof.Machine
end

