-- ==== Sys2Proof/Machine/Uniform.lean ====
section
/-! DEFINITION. Uniform arithmetic (08 R212 to R215). -/

namespace Sys2Proof.Machine

/-- A uniform instruction's work behind its check: `f` of the state, then 4 bytes on (R211, R371 unit 0). -/
def uniformWork (cls : Check) (n : Nat) (f : Wave → Wave) (s : State) : State :=
  s.checked cls 0 0 none fun s => (s.onWave f).next n

/-- A three-register uniform instruction: the result of its sources, and what becomes of cc (R214). -/
def uniform3 (cls : Check) (r : DWord → DWord → DWord) (fl : Wave → DWord → DWord → Wave) (a b c : BitVec 8)
    (s : State) : Host.Outcome State Fault Refusal :=
  let x := s.readU b
  let y := s.readU c
  .next (uniformWork cls 4 (fun w => (fl w x y).writeU a (r x y)) s)

/-- cc kept. -/
def keepFlags (w : Wave) (_ _ : DWord) : Wave := w

def execSadd (a b c : BitVec 8) (s : State) : Host.Outcome State Fault Refusal :=
  uniform3 .residue (· + ·) Wave.flagsAdd a b c s
def execSsub (a b c : BitVec 8) (s : State) : Host.Outcome State Fault Refusal :=
  uniform3 .residue (· - ·) Wave.flagsSub a b c s
def execSmul (a b c : BitVec 8) (s : State) : Host.Outcome State Fault Refusal :=
  uniform3 .residue (· * ·) keepFlags a b c s

/-- Bits [127:64] of the signed product (R214). -/
def mulHigh (b c : DWord) : DWord := BitVec.ofInt 64 (b.toInt * c.toInt / 2 ^ 64)

def execSmulh (a b c : BitVec 8) (s : State) : Host.Outcome State Fault Refusal :=
  uniform3 .residue mulHigh keepFlags a b c s
def execSand (a b c : BitVec 8) (s : State) : Host.Outcome State Fault Refusal :=
  uniform3 .parity (· &&& ·) (fun w x y => w.flagsLogic (x &&& y)) a b c s
def execSor (a b c : BitVec 8) (s : State) : Host.Outcome State Fault Refusal :=
  uniform3 .parity (· ||| ·) (fun w x y => w.flagsLogic (x ||| y)) a b c s
def execSxor (a b c : BitVec 8) (s : State) : Host.Outcome State Fault Refusal :=
  uniform3 .parity (· ^^^ ·) (fun w x y => w.flagsLogic (x ^^^ y)) a b c s

/-- Shifts by a 64-bit unsigned count (R214). -/
def shiftLeft64 (b c : DWord) : DWord := if c.toNat ≥ 64 then 0#64 else b <<< c.toNat
def shiftRight64 (b c : DWord) : DWord := if c.toNat ≥ 64 then 0#64 else b >>> c.toNat
def shiftArith64 (b c : DWord) : DWord :=
  if c.toNat ≥ 64 then (if b.msb then BitVec.allOnes 64 else 0#64) else b.sshiftRight c.toNat

def execSshl (a b c : BitVec 8) (s : State) : Host.Outcome State Fault Refusal :=
  uniform3 .parity shiftLeft64 keepFlags a b c s
def execSshr (a b c : BitVec 8) (s : State) : Host.Outcome State Fault Refusal :=
  uniform3 .parity shiftRight64 keepFlags a b c s
def execSsra (a b c : BitVec 8) (s : State) : Host.Outcome State Fault Refusal :=
  uniform3 .parity shiftArith64 keepFlags a b c s

/-- Signed minimum and maximum (R214). -/
def smin64 (b c : DWord) : DWord := if b.toInt ≤ c.toInt then b else c
def smax64 (b c : DWord) : DWord := if b.toInt ≤ c.toInt then c else b

def execSmin (a b c : BitVec 8) (s : State) : Host.Outcome State Fault Refusal :=
  uniform3 .residue smin64 keepFlags a b c s
def execSmax (a b c : BitVec 8) (s : State) : Host.Outcome State Fault Refusal :=
  uniform3 .residue smax64 keepFlags a b c s

def execScmp (b c : BitVec 8) (s : State) : Host.Outcome State Fault Refusal :=
  let x := s.readU b
  let y := s.readU c
  .next (uniformWork .residue 4 (fun w => w.flagsSub x y) s)

def execSmov (a b : BitVec 8) (s : State) : Host.Outcome State Fault Refusal :=
  let x := s.readU b
  .next (uniformWork .parity 4 (fun w => w.writeU a x) s)

def execSsel (a b c : BitVec 8) (s : State) : Host.Outcome State Fault Refusal :=
  let r := if s.wave.cc.getLsbD 0 then s.readU b else s.readU c
  .next (uniformWork .parity 4 (fun w => w.writeU a r) s)

/-- Leading zero bits of an `n`-bit number. -/
def leadingZeros (n v : Nat) : Nat := if v = 0 then n else n - 1 - Nat.log2 v

/-- One bits among the low `n` bits of a number. -/
def popCount : Nat → Nat → Nat
  | 0, _ => 0
  | n + 1, v => v % 2 + popCount n (v / 2)

def execSclz (a b : BitVec 8) (s : State) : Host.Outcome State Fault Refusal :=
  let r := BitVec.ofNat 64 (leadingZeros 64 (s.readU b).toNat)
  .next (uniformWork .parity 4 (fun w => w.writeU a r) s)

def execSpopc (a b : BitVec 8) (s : State) : Host.Outcome State Fault Refusal :=
  let r := BitVec.ofNat 64 (popCount 64 (s.readU b).toNat)
  .next (uniformWork .parity 4 (fun w => w.writeU a r) s)

def execSli (a : BitVec 8) (lit : Word) (s : State) : Host.Outcome State Fault Refusal :=
  .next (uniformWork .parity 8 (fun w => w.writeU a (lit.signExtend 64)) s)

def execSliZ (a : BitVec 8) (lit : Word) (s : State) : Host.Outcome State Fault Refusal :=
  .next (uniformWork .parity 8 (fun w => w.writeU a (lit.setWidth 64)) s)

def execSliHi (a : BitVec 8) (lit : Word) (s : State) : Host.Outcome State Fault Refusal :=
  .next (uniformWork .parity 8
    (fun w => w.writeU a (lit ++ (w.getS a.toNat).setWidth 32 : BitVec 64)) s)

end Sys2Proof.Machine
end

