-- ==== Sys2Proof/Machine/Memory.lean ====
section
/-! DEFINITION. Loads, stores, translation registers and fences (10 R266 to R271). -/

namespace Sys2Proof

/-- Bytes of an access width (R190). -/
def Width.bytes : Width → Nat
  | .b8 => 1 | .b16 => 2 | .b32 => 4 | .b64 => 8 | .b128 => 16

end Sys2Proof

namespace Sys2Proof.Machine

/-- The offset operand of a lane instruction lies within budget (R136). -/
def Wave.offsetOk (w : Wave) (base c : BitVec 8) : Bool := w.srcOk (if MBase.wide base then 2 else 1) c

/-! ### Loads (R266, R267) -/

def loadForm (uni : Bool) (base c : BitVec 8) (x : MemExt) : Form :=
  { uni := uni, size := x.width.bytes, kind := .load, base := base, offs := c, imm := x.imm }

/-- The accesses of a load: what is read at its home goes there first; a sector in error is a machine check that writes
nothing (R65); else every lane that may receives its value, zero-extended. -/
def State.loadHits (s : State) (f : Form) (x : MemExt) (put : Wave → Nat → Nat → Wave) (hits : List Hit)
    (faults : List FaultAt) : State :=
  let acq := acqWide f x
  let s := s.homeward (hits.filter fun h => acq || !h.looks) f.size
  match s.poisonHit f hits with
  | some (l, q) => s.takeEcc (f.lane l) q 0
  | none =>
    let vals := hits.map fun h => (h.pos, s.loadNat h acq f.size)
    let s := hits.foldl (fun (s : State) h => s.afterLoad h x.policy acq f.size) s
    let s := s.acquire s.wave.coreNo (acq && !hits.isEmpty)
    (s.onWave fun w => vals.foldl (fun w e => put w e.1 e.2) w).finish f x.slots faults

def State.load (s : State) (f : Form) (x : MemExt) (put : Wave → Nat → Nat → Wave) : State :=
  (s.waitSlots x.slots).access f (fun _ => false) (fun _ _ => none) fun s hits faults => s.loadHits f x put hits faults

/-- A lane load to a vector destination. -/
def laneLoad (a base c : BitVec 8) (x : MemExt) (s : State) : Host.Outcome State Fault Refusal :=
  let n := x.width.regs
  .next (s.perform { budget := s.wave.dstOk n a && s.wave.offsetOk base c, writes := (a, n) } fun s =>
    s.load (loadForm false base c x) x fun w l v => w.putLane a l n v)

def execLd (a base c : BitVec 8) (x : MemExt) (s : State) : Host.Outcome State Fault Refusal :=
  laneLoad a base c x s
def execLds (a base c : BitVec 8) (x : MemExt) (s : State) : Host.Outcome State Fault Refusal :=
  laneLoad a base c x s
def execLdu (a base c : BitVec 8) (x : MemExt) (s : State) : Host.Outcome State Fault Refusal :=
  .next (s.load (loadForm true base c x) x fun w _ v => w.writeU a (BitVec.ofNat 64 v))

/-! ### Stores (R266, R267) -/

def storeForm (uni : Bool) (base c : BitVec 8) (x : MemExt) : Form :=
  { uni := uni, size := x.width.bytes, kind := .store, base := base, offs := c, imm := x.imm }

/-- The accesses of a store; one that releases first writes the core's L1 back (R109, R367), and a side of a redundant
pair makes it as an operation that happens once (R376). -/
def State.storeHits (s : State) (f : Form) (x : MemExt) (data : Nat → List Byte) (hits : List Hit)
    (faults : List FaultAt) : State :=
  let pc := s.wave.pc
  let recs := s.writeRecs f data
  let lanes := s.recLanes f
  if isRel x.order && s.wave.pair.isSome then
    s.allTogether f hits faults fun s hits faults =>
      s.once (if f.sp then .each else .once) recs fun s =>
        s.releaseThen f x (!hits.isEmpty) fun s =>
          (s.storeAll (State.storeBytes · (writePolicy x)) (·.intoL1 (writePolicy x))
            (hits.map fun h => (h, data h.pos))).finish f x.slots faults
  else
    let s := s.releaseThen f x (!hits.isEmpty) fun s =>
      (s.storeAll (State.store · (writePolicy x)) (·.intoL1 (writePolicy x))
        (hits.map fun h => (h, data h.pos))).finish f x.slots faults
    if faults = [] then s.recorded pc lanes recs else s

def State.storeFrom (s : State) (f : Form) (x : MemExt) (data : Nat → List Byte) : State :=
  (s.waitSlots x.slots).access f (fun _ => false) (fun _ _ => none) fun s hits faults => s.storeHits f x data hits faults

/-- A lane store of a vector register's low bytes. -/
def laneStore (a base c : BitVec 8) (x : MemExt) (s : State) : Host.Outcome State Fault Refusal :=
  let n := x.width.regs
  .next (s.perform { budget := s.wave.srcOk n a && s.wave.offsetOk base c } fun s =>
    let w := s.wave
    s.storeFrom (storeForm false base c x) x fun l => bytesOfNat x.width.bytes (w.laneNat a l n))

def execSt (a base c : BitVec 8) (x : MemExt) (s : State) : Host.Outcome State Fault Refusal :=
  laneStore a base c x s
def execSts (a base c : BitVec 8) (x : MemExt) (s : State) : Host.Outcome State Fault Refusal :=
  laneStore a base c x s
def execStu (a base c : BitVec 8) (x : MemExt) (s : State) : Host.Outcome State Fault Refusal :=
  let v := (s.readU a).toNat
  .next (s.storeFrom (storeForm true base c x) x fun _ => bytesOfNat x.width.bytes v)

/-! ### Translation registers (R268, R269) -/

/-- XLAT with an intent: a non-canonical address parks the wave; a translation that succeeds fills the register, and any
other leaves only its base and sets F. -/
def State.xlat (s : State) (xr : Nat) (va : DWord) (wint : Bool) : State :=
  s.checked .residue 3 0 none fun s =>
    let w := s.wave
    if va.toNat ≥ 2 ^ 56 then s.takePageFault [⟨0, va, .noncanon⟩] 0#32 .uniform wint false
    else
      match s.translate w.die w.proc w.priv (w.unfKind ≠ .no) (if wint then .store else .load) va.toNat (some w.coreNo) with
      | (s, .ok t) => ((s.onWave (·.setX xr (t.entry.toX va wint))).setF false).next 4
      | (s, .error _) =>
        ((s.onWave (·.setX xr (BitVec.ofNat 256 va.toNat))).setF true).next 4

def execXlat (xr : BitVec 4) (b : BitVec 8) (s : State) : Host.Outcome State Fault Refusal :=
  .next (s.xlat xr.toNat (s.readU b) false)
def execXlatW (xr : BitVec 4) (b : BitVec 8) (s : State) : Host.Outcome State Fault Refusal :=
  .next (s.xlat xr.toNat (s.readU b) true)

/-- XINV clears every field but `vbase`. -/
def execXinv (xr : BitVec 4) (s : State) : Host.Outcome State Fault Refusal :=
  let v := BitVec.ofNat 256 (xVbase (s.wave.getX xr.toNat)).toNat
  .next ((s.onWave (·.setX xr.toNat v)).next 4)

/-! ### Fences (R270, R271) -/

/-- A fence that releases: both sides of a redundant pair are compared first (R376); at a lost sector the wave parks at
the fence, and the instruction that follows is not performed (R367). -/
def State.fenceRelease (s : State) (sc : Scope) (after : State → State) : State :=
  s.once .each [] fun s => s.releaseFirst sc after

def execFenceAcq (sc : Scope) (s : State) : Host.Outcome State Fault Refusal :=
  .next ((s.acquire s.wave.coreNo (wide sc)).next 4)
def execFenceRel (sc : Scope) (s : State) : Host.Outcome State Fault Refusal :=
  .next (s.fenceRelease sc fun s => s.next 4)
def execFenceFull (sc : Scope) (s : State) : Host.Outcome State Fault Refusal :=
  .next (s.fenceRelease sc fun s => (s.acquire s.wave.coreNo (wide sc)).next 4)

/-- FENCEX: the core's buffers of the writing path drain, and what it holds for the consuming path is dropped. The model
keeps buffers of path `ls` alone, the L1; accesses on the other paths, TLD and TST among them, are made at the homes and
leave nothing behind (R110, R116; log entry 4). -/
def execFencex (p c : BitVec 3) (s : State) : Host.Outcome State Fault Refusal :=
  let s := if p = 0#3 then s.cleanCore s.wave.coreNo else s
  .next ((s.acquire s.wave.coreNo (c = 0#3)).next 4)

end Sys2Proof.Machine
end

