-- ==== Sys2Proof/Machine/Atomic.lean ====
section
/-! DEFINITION. Reductions on memory (04 R118, R120; 10 R272, R273; 14 R373). -/

namespace Sys2Proof.Machine

/-- The types that an operation accepts at a width (R272). -/
def atomAccepts (op : AtomOp) (wd : Width) (t : EType) : Bool :=
  match op, wd with
  | .fadd, .b16 => t = .f16 || t = .bf16
  | .fadd, .b32 => t = .f32
  | .fadd, .b64 => t = .f64
  | .fadd, _ => false
  | _, .b32 => t = .i32 || t = .n32
  | _, .b64 => t = .i64 || t = .n64
  | _, _ => false

/-- IEEE addition, ties to even, subnormals kept, whatever the mode says (R120). -/
def atomFadd (t : EType) (x y : Nat) : Nat :=
  t.fmt.round Rnd.rne (FVal.add false (t.fmt.decode x) (t.fmt.decode y))

/-- One operation on an element. -/
def atomOp (op : AtomOp) (t : EType) (m v : Nat) : Nat :=
  match op with
  | .add => t.wrap (t.toInt m + t.toInt v)
  | .fadd => atomFadd t m v
  | .min => if t.toInt m ≤ t.toInt v then m else v
  | .max => if t.toInt m ≤ t.toInt v then v else m
  | .and => m &&& v
  | .or => m ||| v
  | .xor => m ^^^ v

/-- Left to right: each lane's old value, and what memory holds in the end. -/
def foldAtoms (op : AtomOp) (t : EType) : Nat → List Nat → List Nat × Nat
  | m, [] => ([], m)
  | m, v :: rest =>
    let (olds, r) := foldAtoms op t (atomOp op t m v) rest
    (m :: olds, r)

/-- Partial sums: the old values of the lanes after the first, and the whole sum (R120). -/
def foldSums (t : EType) (m : Nat) : Nat → List Nat → List Nat × Nat
  | p, [] => ([], p)
  | p, v :: rest =>
    let (olds, r) := foldSums t m (atomFadd t p v) rest
    (atomFadd t m p :: olds, r)

/-- A combined request at its home: the old value of each lane, and the value written (R120). -/
def combine (op : AtomOp) (t : EType) (m : Nat) (vals : List Nat) : List Nat × Nat :=
  match op, vals with
  | .fadd, v :: rest =>
    let (olds, p) := foldSums t m v rest
    (m :: olds, atomFadd t m p)
  | _, _ => foldAtoms op t m vals

/-- The record of a home that met a sector in error, or failed its check twice, for the wave and PC from which the request
came: the wave runs on (R65, R373). -/
def State.homeRecord (s : State) (w : Wave) (op : Nat) (cls : Check) (unit key : Nat) : State :=
  s.reportCheck w ⟨cls, w.pc, 0#64, op, 0xFF, unit, if cls = .ecc then key / 32 * 32 else 0, false, 0, 0#32⟩

/-- The home of a read-modify-write checks its residue (R371, R373): whether the operation is performed. A failure that its
replay corrects is logged. -/
def State.homeSound (s : State) : State × Bool :=
  match s.upsetAt 8 none with
  | none => (s, true)
  | some (_, twice) =>
    let s := { s with upset := none }
    if twice then (s, false)
    else (s.corrected s.wave ⟨.residue, s.wave.pc, 0#64, s.opcode, 0xFF, 8, 0, false, 0, 0#32⟩, true)

/-- A combined request performed at its home: the old value of each lane (R120). A directory stays as it is (R406). -/
def State.performAt (s : State) (key size : Nat) (op : AtomOp) (t : EType) (vals : List Nat) : State × List Nat :=
  let r := combine op t (s.rawNat key size) vals
  (if isDirectory key then s else s.writeBytes key (bytesOfNat size r.2), r.1)

/-- One read-modify-write at a location's home, of the lanes that name it; in a poisoned sector nothing is performed and
the lanes read 0, and after a check that fails twice the sector is poisoned and they read 0 (R65, R118, R373). -/
def State.reduceAt (s : State) (key size : Nat) (op : AtomOp) (t : EType) (vals : List Nat) : State × List Nat :=
  let s := s.l1FlushRange s.wave.coreNo key size
  if s.anyPoison key size then (s.homeRecord s.wave s.opcode .ecc 9 key, vals.map fun _ => 0)
  else
    match s.homeSound with
    | (s, true) => s.performAt key size op t vals
    | (s, false) => ((s.poisonSector (key / 32)).homeRecord s.wave s.opcode .residue 8 key, vals.map fun _ => 0)

/-- The hits of one key, and those of the others, in lane order. -/
def splitKey (key : Nat) (hits : List Hit) : List Hit × List Hit := hits.partition fun h => decide (h.key = key)

/-- Every request of an instruction: lanes that name one location make one request (R120). The fuel is the number of
lanes. The answer pairs each lane with its old value. -/
def State.reduceAll (s : State) (size : Nat) (op : AtomOp) (t : EType) (val : Nat → Nat) :
    Nat → List Hit → State × List (Nat × Nat)
  | 0, _ => (s, [])
  | _, [] => (s, [])
  | n + 1, h :: rest =>
    let (mine, others) := splitKey h.key (h :: rest)
    let (s, olds) := s.reduceAt h.key size op t (mine.map fun m => val m.pos)
    let (s, l) := s.reduceAll size op t val n others
    (s, (mine.map (·.pos)).zip olds ++ l)

def atomForm (uni : Bool) (op : AtomOp) (base c : BitVec 8) (x : MemExt) : Form :=
  { uni := uni, size := x.width.bytes, kind := .rmw, base := base, offs := c, imm := x.imm, red := some (op == .add) }

/-- The accesses of a reduction, an operation that happens once (R376): release, requests, returned values, acquire. -/
def State.atomHits (s : State) (f : Form) (op : AtomOp) (x : MemExt) (val : Nat → Nat)
    (ret : Option (Wave → Nat → Nat → Wave)) (hits : List Hit) (faults : List FaultAt) : State :=
  let recs := s.writeRecs f fun l => bytesOfNat f.size (val l)
  s.allTogether f hits faults fun s hits faults =>
    s.once .once recs fun s =>
      s.releaseThen f x (!hits.isEmpty) fun s =>
        let t := s.wave.etype
        let (s, olds) := s.reduceAll f.size op t val hits.length hits
        let s := s.acquire s.wave.coreNo (acqWide f x && !hits.isEmpty)
        let s := match ret with
          | none => s
          | some put => s.onWave fun w => olds.foldl (fun (w : Wave) (e : Nat × Nat) => put w e.1 e.2) w
        s.finish f x.slots faults

def State.atom (s : State) (f : Form) (op : AtomOp) (x : MemExt) (val : Nat → Nat)
    (ret : Option (Wave → Nat → Nat → Wave)) : State :=
  (s.waitSlots x.slots).access f (fun _ => false) (fun _ _ => none) fun s hits faults =>
    s.atomHits f op x val ret hits faults

/-- A lane reduction; with return, the old value goes to the operand's register, a 16-bit one with its sign (R272). -/
def laneAtom (op : AtomOp) (ret : Bool) (a base c : BitVec 8) (x : MemExt) (s : State) :
    Host.Outcome State Fault Refusal :=
  let n := x.width.regs
  .next (s.perform { budget := s.wave.srcOk n a && s.wave.offsetOk base c,
                     convention := atomAccepts op x.width s.wave.etype,
                     writes := (a, if ret then n else 0) } fun s =>
    let w := s.wave
    s.atom (atomForm false op base c x) op x (fun l => w.etype.elem (w.laneNat a l n) 0)
      (if ret then some fun (w : Wave) l v => w.putLane a l n (w.etype.join [v]) else none))

/-- A uniform reduction on the uniform agent (R273). -/
def uniAtom (op : AtomOp) (ret : Bool) (a base : BitVec 8) (x : MemExt) (s : State) :
    Host.Outcome State Fault Refusal :=
  let v := (s.readU a).toNat
  .next (s.perform { convention := atomAccepts op x.width s.wave.etype } fun s =>
    let t := s.wave.etype
    s.atom (atomForm true op base 0#8 x) op x (fun _ => t.elem v 0)
      (if ret then some fun (w : Wave) _ v => w.writeU a (BitVec.ofNat 64 v) else none))

def execAtomAdd (a base c : BitVec 8) (x : MemExt) (s : State) : Host.Outcome State Fault Refusal :=
  laneAtom .add false a base c x s
def execAtomuAdd (a base : BitVec 8) (x : MemExt) (s : State) : Host.Outcome State Fault Refusal :=
  uniAtom .add false a base x s
def execAtomAddRet (a base c : BitVec 8) (x : MemExt) (s : State) : Host.Outcome State Fault Refusal :=
  laneAtom .add true a base c x s
def execAtomuAddRet (a base : BitVec 8) (x : MemExt) (s : State) : Host.Outcome State Fault Refusal :=
  uniAtom .add true a base x s
def execAtomFadd (a base c : BitVec 8) (x : MemExt) (s : State) : Host.Outcome State Fault Refusal :=
  laneAtom .fadd false a base c x s
def execAtomuFadd (a base : BitVec 8) (x : MemExt) (s : State) : Host.Outcome State Fault Refusal :=
  uniAtom .fadd false a base x s
def execAtomFaddRet (a base c : BitVec 8) (x : MemExt) (s : State) : Host.Outcome State Fault Refusal :=
  laneAtom .fadd true a base c x s
def execAtomuFaddRet (a base : BitVec 8) (x : MemExt) (s : State) : Host.Outcome State Fault Refusal :=
  uniAtom .fadd true a base x s
def execAtomMin (a base c : BitVec 8) (x : MemExt) (s : State) : Host.Outcome State Fault Refusal :=
  laneAtom .min false a base c x s
def execAtomuMin (a base : BitVec 8) (x : MemExt) (s : State) : Host.Outcome State Fault Refusal :=
  uniAtom .min false a base x s
def execAtomMinRet (a base c : BitVec 8) (x : MemExt) (s : State) : Host.Outcome State Fault Refusal :=
  laneAtom .min true a base c x s
def execAtomuMinRet (a base : BitVec 8) (x : MemExt) (s : State) : Host.Outcome State Fault Refusal :=
  uniAtom .min true a base x s
def execAtomMax (a base c : BitVec 8) (x : MemExt) (s : State) : Host.Outcome State Fault Refusal :=
  laneAtom .max false a base c x s
def execAtomuMax (a base : BitVec 8) (x : MemExt) (s : State) : Host.Outcome State Fault Refusal :=
  uniAtom .max false a base x s
def execAtomMaxRet (a base c : BitVec 8) (x : MemExt) (s : State) : Host.Outcome State Fault Refusal :=
  laneAtom .max true a base c x s
def execAtomuMaxRet (a base : BitVec 8) (x : MemExt) (s : State) : Host.Outcome State Fault Refusal :=
  uniAtom .max true a base x s
def execAtomAnd (a base c : BitVec 8) (x : MemExt) (s : State) : Host.Outcome State Fault Refusal :=
  laneAtom .and false a base c x s
def execAtomuAnd (a base : BitVec 8) (x : MemExt) (s : State) : Host.Outcome State Fault Refusal :=
  uniAtom .and false a base x s
def execAtomAndRet (a base c : BitVec 8) (x : MemExt) (s : State) : Host.Outcome State Fault Refusal :=
  laneAtom .and true a base c x s
def execAtomuAndRet (a base : BitVec 8) (x : MemExt) (s : State) : Host.Outcome State Fault Refusal :=
  uniAtom .and true a base x s
def execAtomOr (a base c : BitVec 8) (x : MemExt) (s : State) : Host.Outcome State Fault Refusal :=
  laneAtom .or false a base c x s
def execAtomuOr (a base : BitVec 8) (x : MemExt) (s : State) : Host.Outcome State Fault Refusal :=
  uniAtom .or false a base x s
def execAtomOrRet (a base c : BitVec 8) (x : MemExt) (s : State) : Host.Outcome State Fault Refusal :=
  laneAtom .or true a base c x s
def execAtomuOrRet (a base : BitVec 8) (x : MemExt) (s : State) : Host.Outcome State Fault Refusal :=
  uniAtom .or true a base x s
def execAtomXor (a base c : BitVec 8) (x : MemExt) (s : State) : Host.Outcome State Fault Refusal :=
  laneAtom .xor false a base c x s
def execAtomuXor (a base : BitVec 8) (x : MemExt) (s : State) : Host.Outcome State Fault Refusal :=
  uniAtom .xor false a base x s
def execAtomXorRet (a base c : BitVec 8) (x : MemExt) (s : State) : Host.Outcome State Fault Refusal :=
  laneAtom .xor true a base c x s
def execAtomuXorRet (a base : BitVec 8) (x : MemExt) (s : State) : Host.Outcome State Fault Refusal :=
  uniAtom .xor true a base x s

/-- The wave and the PC from which a request at a home came, as the event names them. -/
def State.origin (s : State) : Wave :=
  let w := (s.findWave s.inp.h).getD { Wave.blank with die := s.inp.die }
  { w with pc := BitVec.ofNat 64 s.inp.pa }

/-- The home of a request checks its residue (R373): a failure that its replay corrects is logged, one that fails again
answers the failure. -/
def State.homeEvent (s : State) (perform fail : State → State) : State :=
  if !s.inp.ok then fail s
  else if s.inp.found = .correctable then
    perform (s.corrected s.origin ⟨.residue, s.origin.pc, 0#64, s.inp.n, 0xFF, 8, 0, false, 0, 0#32⟩)
  else perform s

/-- A reduction performed at its home for an agent of the package (R118, R120), with what the L1 of the agent's core holds of
the place sent home before. A poisoned sector performs nothing; where the home's check fails twice, no value changes and the
sector is poisoned; either is recorded for the wave and PC from which the request came (R65, R373). -/
def execHomeReduction (key : Nat) (op : AtomOp) (ty : EType) (vals : List DWord) (s : State) :
    Host.Outcome State Fault Refusal :=
  let n := ty.bitsOf / 8
  .next (s.homeEvent
    (fun s =>
      let s := s.l1FlushRange s.origin.coreNo key n
      if s.anyPoison key n then s.homeRecord s.origin s.inp.n .ecc 9 key
      else (s.performAt key n op ty (vals.map (·.toNat))).1)
    fun s => (s.poisonSector (key / 32)).homeRecord s.origin s.inp.n .residue 8 key)

end Sys2Proof.Machine
end

