-- ==== Sys2Proof/Machine/Control.lean ====
section
/-! DEFINITION. Control transfer (08 R217 to R220). -/

namespace Sys2Proof.Machine

def execNop (s : State) : Host.Outcome State Fault Refusal := .next (s.next 4)

/-- PC + 4 × offset, the offset taken as signed (R180, R217, R218). -/
def branchTarget {n : Nat} (pc : DWord) (o : BitVec n) : DWord := pc + BitVec.ofInt 64 (4 * o.toInt)

/-- A branch of `n` bytes behind the check of its target adder (R371 unit 0). -/
def branch (taken : Bool) (target : DWord) (n : Nat) (s : State) : Host.Outcome State Fault Refusal :=
  .next (s.checked .residue 0 0 none fun s => if taken then s.jump target else s.next n)

def execBr (o : BitVec 24) (s : State) : Host.Outcome State Fault Refusal :=
  branch true (branchTarget s.wave.pc o) 4 s

/-- The condition codes of BCC (R218). -/
def condHolds (cc : BitVec 6) : Cond → Bool
  | .eq => cc.getLsbD 0
  | .ne => !cc.getLsbD 0
  | .lt => cc.getLsbD 1 != cc.getLsbD 3
  | .ge => cc.getLsbD 1 == cc.getLsbD 3
  | .lo => cc.getLsbD 2
  | .hs => !cc.getLsbD 2
  | .mi => cc.getLsbD 1
  | .pl => !cc.getLsbD 1
  | .vs => cc.getLsbD 3
  | .vc => !cc.getLsbD 3
  | .bk => cc.getLsbD 4
  | .nbk => !cc.getLsbD 4
  | .fl => cc.getLsbD 5
  | .nfl => !cc.getLsbD 5

def execBcc (cond : Cond) (lit : Word) (s : State) : Host.Outcome State Fault Refusal :=
  branch (condHolds s.wave.cc cond) (branchTarget s.wave.pc lit) 8 s

def execBmz (o : BitVec 24) (s : State) : Host.Outcome State Fault Refusal :=
  branch (s.wave.act = 0#32) (branchTarget s.wave.pc o) 4 s
def execBmnz (o : BitVec 24) (s : State) : Host.Outcome State Fault Refusal :=
  branch (s.wave.act ≠ 0#32) (branchTarget s.wave.pc o) 4 s
def execBmall (o : BitVec 24) (s : State) : Host.Outcome State Fault Refusal :=
  branch (s.wave.act = 0xFFFFFFFF#32) (branchTarget s.wave.pc o) 4 s

def execCall (o : BitVec 24) (s : State) : Host.Outcome State Fault Refusal :=
  let link := s.wave.pc + 4#64
  let target := branchTarget s.wave.pc o
  .next (s.checked .residue 0 0 none fun s => (s.onWave (·.setS 63 link)).jump target)

/-- A jump to a computed address: ALIGN when it is not a word's, and then no transfer and no link (R219). RET and JMPR
are taken to have the residue check of the branch-target adders, log entry 17. -/
def jumpTo (target : DWord) (link : Wave → Wave) (s : State) : Host.Outcome State Fault Refusal :=
  .next
    (if target.toNat % 4 ≠ 0 then s.trap .align
     else s.checked .residue 0 0 none fun s => (s.onWave link).jump target)

def execRet (s : State) : Host.Outcome State Fault Refusal := jumpTo (s.wave.getS 63) (fun w => w) s
def execJmpr (b : BitVec 8) (s : State) : Host.Outcome State Fault Refusal := jumpTo (s.readU b) (fun w => w) s
def execJmprLink (a b : BitVec 8) (s : State) : Host.Outcome State Fault Refusal :=
  let link := s.wave.pc + 4#64
  jumpTo (s.readU b) (fun w => w.writeU a link) s

/-- A wave is the last one of a team whose grid has a `done` counter (R327). -/
def State.addsDone (s : State) (w : Wave) : Bool :=
  !(s.allWaves.any fun v => decide (v.hdl ≠ w.hdl) && decide (v.team = w.team)) &&
    (match s.team w.team with
     | none => false
     | some t => !t.side1 && (s.grid t.grid).any fun g => decide (g.doneCtr ≠ 0#64))

/-- The wave retires by EXIT: `xctr` is added to (R220, R326). -/
def retireByExit (s : State) : State :=
  let w := s.wave
  let s := if w.xctr = 0#64 then s else s.hkuCounter w.die w.proc w.team w.xctr (.add 1#64) w.pc w.hdl
  s.retire w.hdl

/-- The end of a wave by EXIT. The adds to `xctr` and, at the end of its team, to `done` are releases at pkg scope, made first;
a lost sector stops the EXIT, and the wave takes MC_ECC (R326, R327, R367). -/
def exitWave (s : State) : State :=
  if decide (s.wave.xctr ≠ 0#64) || s.addsDone s.wave then s.releaseFirst .pkg retireByExit else retireByExit s

/-- EXIT (R220): the accesses complete, the MMAs drain, then the wave ends, once for both sides of a redundant pair
(R376). -/
def execExit (s : State) : Host.Outcome State Fault Refusal :=
  .next (s.waitAll.drained fun s => s.once .once [] exitWave)

/-- A word whose opcode no instruction has, or one that the running stepping does not: UNDEF_OP (R194, R195). -/
def execUnassignedOpcode (w : Word) (s : State) : Host.Outcome State Fault Refusal :=
  .next ({ s with iword := w }.trap .undefOp)

/-- YIELD: to the back of the round-robin in both slots (R220, R349). -/
def execYield (s : State) : Host.Outcome State Fault Refusal :=
  .next ((s.onWave fun w => { w with stampA := s.now, stampB := s.now, runA := 0, runB := 0 }).next 4)

end Sys2Proof.Machine
end

