-- ==== Sys2Proof/Machine/Fetch.lean ====
section
/-! DEFINITION. Fetching the instruction at a PC, choosing the wave that issues, and the issue rules' bookkeeping
(01 R40, 07 R179, R194, R208, 13 R348 to R350, 14 R369). -/

namespace Sys2Proof.Machine

/-- The code version of the wave at issue, when the PC lies in its range (R208). -/
def State.versionAt (s : State) (pc : Nat) : Option CodeVer :=
  match s.code s.wave.codever with
  | none => none
  | some c => if c.base.toNat ≤ pc ∧ pc < c.base.toNat + 65536 * c.frames.length then some c else none

/-- What the host has answered about the page of a fetch, which has not been used yet (R26). -/
def Wave.toldOf (w : Wave) (pc : Nat) : Option Cause :=
  match w.told with
  | some (a, c) => if a.toNat / 65536 = pc / 65536 then some c else none
  | none => none

/-- The key of the word that a fetch reads: the frame of the wave's version, or the walk's (R208). A replay walks anew (R39,
R40). -/
def State.fetchKey (s : State) (pc : Nat) : State × Except Cause Nat :=
  let w := s.wave
  match s.translate w.die w.proc w.priv (w.unfKind = .fetch) .fetch pc (some w.coreNo) with
  | (s, .error c) => (s, .error c)
  | (s, .ok x) =>
    match s.reach w.die w.proc .fetch (pteTarget x.entry.pte) (ptePkg x.entry.pte) x.pa with
    | .error c => (s, .error (if c = .hostmiss then (w.toldOf pc).getD c else c))
    | .ok key =>
      match s.versionAt pc with
      | some c => (s, .ok ((c.frames.getD ((pc - c.base.toNat) / 65536) 0) + pc % 65536))
      | none => (s, .ok key)

/-- The word at a key, in little-endian order (R5). -/
def State.wordAt (s : State) (key : Nat) : Word := BitVec.ofNat 32 (s.rawNat key 4)

/-- Where a fetch ends; a word with the key that it was read at. -/
inductive FetchEnd
  | word (w : Word) (key : Nat)
  | fault (c : Cause)
  | poison (sector : Nat)
deriving DecidableEq, Repr

def State.fetchWord (s : State) (pc : DWord) : State × FetchEnd :=
  match s.fetchKey pc.toNat with
  | (s, .error c) => (s, .fault c)
  | (s, .ok key) => if s.poisoned key then (s, .poison (key / 32)) else (s, .word (s.wordAt key) key)

/-- An experimental opcode runs only from a version that names the running stepping (R193, R194): the wave's, where its
range holds the PC, else one that names the frame which the word came from. -/
def State.allowed (s : State) (pc key : Nat) (op : BitVec 8) : Bool :=
  !experimental op ||
    (match s.versionAt pc with
     | some c => decide (c.stepping = Config.stepping)
     | none => s.codes.any fun c => c.frames.contains (key / 65536 * 65536) && decide (c.stepping = Config.stepping))

/-- What the decoder finds at the PC of the wave at issue (R195 rows 1 to 4). -/
inductive Fetched
  | instr (i : Instr)
  | reserved
  | parked
deriving DecidableEq, Repr

/-- A fetch that did not answer a word: the whole exec mask is unfinished (R40, R369); while an ATS answer is out the wave waits
in its slot (R26). -/
def State.fetchFails (s : State) (pc : DWord) : FetchEnd → State
  | .fault .hostmiss => s.wait (.ats s.wave.die (pc.toNat / 65536) false)
  | .fault c => (s.onWave fun w => { w with told := none }).takePageFault [⟨0, pc, c⟩] (s.wave.getK 0) .fetch false false
  | .poison q => s.takeEcc 0xFF q 0
  | .word _ _ => s

/-- What a fetch left unfinished is finished: every word has been read. -/
def Wave.fetched (w : Wave) : Wave :=
  if w.unfKind = .fetch then { w with unf := 0#32, unfKind := .no, told := none } else w

/-- The instruction of two words, or what is wrong with them. -/
def State.decoded (s : State) (w x : Word) : State × Fetched :=
  ({ s with iext := x }.onWave (·.fetched),
    match decode w x with
    | .ok i => .instr i
    | .error _ => .reserved)

/-- The instruction at the PC of the wave at issue, with the state after its fetch. -/
def State.fetchInstr (s : State) : State × Fetched :=
  let pc := s.wave.pc
  match s.fetchWord pc with
  | (s, .word w key) =>
    let s := { s with iword := w, iext := 0#32 }
    if !(assigned (opOf w) && s.allowed pc.toNat key (opOf w)) then (s.onWave (·.fetched), .instr (.unassignedOpcode w))
    else if isLong (opOf w) then
      match s.fetchWord (pc + 4#64) with
      | (s, .word x _) => s.decoded w x
      | (s, e) => (s.fetchFails (pc + 4#64) e, .parked)
    else s.decoded w 0#32
  | (s, e) => (({ s with iword := 0#32 }).fetchFails pc e, .parked)

/-! ### Who issues (R348, R349) -/

/-- The word at a PC of a wave, seen without any effect; 0 where it cannot be seen. -/
def State.peekWord (s : State) (w : Wave) (pc : Nat) : Word :=
  let t := match s.tlbSearch (some w.coreNo) w.die w.proc pc fun _ => true with
    | some t => some (pteFrame t.pte + (pc - t.base))
    | none =>
      match s.walk w.proc pc with
      | .ok (lvl, _, p) => some (pteFrame p + pc % levelSize lvl)
      | .error _ => none
  match t with
  | none => 0#32
  | some pa =>
    match s.code w.codever with
    | some c =>
      if c.base.toNat ≤ pc ∧ pc < c.base.toNat + 65536 * c.frames.length then
        s.wordAt (c.frames.getD ((pc - c.base.toNat) / 65536) 0 + pc % 65536)
      else s.wordAt pa
    | none => s.wordAt pa

/-- The opcode at a wave's PC. -/
def State.peekOp (s : State) (w : Wave) : Nat := (s.peekWord w w.pc.toNat).toNat / 2 ^ 24

/-- The next instruction of a wave issues in slot B (R211, R234, 10, 12). -/
def slotB (op : Nat) : Bool := decide (op ≥ 0xA0) || op == 0x37 || op == 0x3A

/-- An opcode whose extension word holds slot controls (R105). -/
def slotted (op : Nat) : Bool :=
  isLong (BitVec.ofNat 8 op) && ((decide (0xA0 ≤ op) && decide (op < 0xCA)) || decide (0xE0 ≤ op))

/-- The tiles that an instruction other than an MMA names, from its base word (R292, R302 to R308). -/
def tilesOf (w : Word) : List Nat :=
  match (opOf w).toNat with
  | 0xC8 | 0xC9 | 0xCA => [selTile (fieldA w)]
  | 0xCB | 0xD3 | 0xD4 => [codeTile (fieldB w)]
  | 0xCC | 0xD5 => [codeTile (fieldA w)]
  | 0xD1 => [codeTile (fieldA w), codeTile (fieldB w)]
  | 0xD2 => [(MOpnd.tile (fieldA w)).toNat, (MOpnd.tile (fieldB w)).toNat, (MOpnd.tile (fieldC w)).toNat]
  | _ => []

/-- The slots in flight on which a wave's next instruction waits (R105). -/
def State.slotsWaited (s : State) (w : Wave) : BitVec 8 :=
  if w.slots = 0#8 then 0#8
  else if slotted (s.peekOp w) then (s.peekWord w (w.pc.toNat + 4)).setWidth 8 &&& w.slots
  else 0#8

/-- The next instruction of a wave as it will decode. -/
def State.peekInstr (s : State) (w : Wave) : Option Instr :=
  (decode (s.peekWord w w.pc.toNat) (s.peekWord w (w.pc.toNat + 4))).toOption

/-- The vector registers that an instruction writes under a type: the first, and their number (R183, R292). -/
def vectorDst (t : EType) : Instr → BitVec 8 × Nat
  | .vadd a _ _ | .vsub a _ _ | .vmul a _ _ | .vmulh a _ _ | .vand a _ _ | .vor a _ _ | .vxor a _ _ | .vshl a _ _
  | .vshr a _ _ | .vmin a _ _ | .vmax a _ _ | .vaddLit a _ _ | .vsubLit a _ _ | .vmulLit a _ _ | .vmulhLit a _ _
  | .vandLit a _ _ | .vorLit a _ _ | .vxorLit a _ _ | .vshlLit a _ _ | .vshrLit a _ _ | .vminLit a _ _ | .vmaxLit a _ _
  | .vmad a _ _ _ | .vabs a _ | .vneg a _ | .vsel a _ _ _ | .vmov a _ | .vbcast a _ | .vclz a _ | .vpopc a _ | .vbrev a _
  | .vbfe a _ _ _ | .vbfi a _ _ _ _ | .vmovLit a _ | .vfadd a _ _ | .vfsub a _ _ | .vfmul a _ _ | .vfma _ _ a _ _ _
  | .vfmin a _ _ | .vfmax a _ _ | .vfdiv a _ _ | .vfsqrt a _ | .vfrcp a _ | .vfrsq a _ | .vfexp2 a _ | .vflog2 a _
  | .vfclass a _ | .vfrnd a _ | .vfscale a _ _ | .vcvt a _ _ | .vshfl a _ _ | .vshflx _ _ _ _ a _ _ | .vscan _ _ _ a _ =>
    (a, t.regs)
  | .vred _ _ u a _ => if u then noVector else (a, t.regs)
  | .vpack a _ _ _ _ | .vmatch a _ | .stag a _ _ | .stagset a _ _ _ => (a, 1)
  | .vunpk a _ _ f _ => (a, f.elems)
  | .ld a _ _ x | .lds a _ _ x | .atomAddRet a _ _ x | .atomFaddRet a _ _ x | .atomMinRet a _ _ x | .atomMaxRet a _ _ x
  | .atomAndRet a _ _ x | .atomOrRet a _ _ x | .atomXorRet a _ _ x => (a, x.width.regs)
  | .cfadd a _ _ _ | .cread a _ _ _ => (a, 2)
  | .tmovv a _ _ _ n => (a, 4 * 2 ^ n.toNat)
  | .tredmx a _ b32 _ | .tredsm a _ b32 => (a, if b32 then 16 else 4)
  | _ => noVector

/-- The MMAs of a wave for which its next instruction waits: those that name a tile of it, those that read as a fragment a
register that it writes, and of an MMA those that write what it reads (R292, R370). -/
def State.mmasAwaited (s : State) (w : Wave) : List Mma :=
  match s.peekInstr w with
  | some (.mma a b c _ _ _ _) => s.mmaBlockers w (codeTile a) (mmaSources b c false 0)
  | some (.mmas a b c _ _ _ _ mp mt _) => s.mmaBlockers w (codeTile a) (mmaSources b c true (8 * mt.toNat + mp.toNat))
  | some i =>
    let d := vectorDst w.etype i
    s.blockersOf w (tilesOf (s.peekWord w w.pc.toNat)) ++ s.fragReadersOf w d.1 d.2
  | none => []

/-- Something holds a wave's next instruction: a slot on which it waits, an MMA, a full queue of the matrix array or of its
core's engines (R105, R292, R299, R312, R348, R350). -/
def State.held (s : State) (w : Wave) : Bool :=
  let op := s.peekOp w
  decide (s.slotsWaited w ≠ 0#8) ||
    (!s.mmas.isEmpty && !(s.mmasAwaited w).isEmpty) ||
    ((op == 0xCD || op == 0xCE) && decide (5 ≤ (s.mmas.filter (·.array = w.arrayNo)).length)) ||
    (decide (0xE0 ≤ op) && decide (op ≤ 0xE3) && decide (32 ≤ (s.engs.filter fun e => decide (e.core = w.coreNo)).length))

/-- A wave may issue, as far as its own state says (R348). -/
def Wave.ready (w : Wave) : Bool :=
  decide (w.st = .resident) && !w.halted && !w.refilling &&
    (match w.pair with
     | some p => !p.atPoint || p.go
     | none => true)

def Wave.stampOf (w : Wave) (b : Bool) : Nat := if b then w.stampB else w.stampA
def Wave.runOf (w : Wave) (b : Bool) : Nat := if b then w.runB else w.runA

/-- An interrupt is due at the boundary before the wave's next instruction (R227). An instruction that a fault left
unfinished is finished first: the manual leaves open on which side of the replay the boundary lies (log entry 45). -/
def Wave.interruptDue (w : Wave) : Bool :=
  w.uiEn && w.uiPend && !w.uiAct && decide (w.unfKind = .no) && w.asked.isEmpty && w.told.isNone

/-- A wave is ready in an issue slot (R348); the entry of an interrupt takes slot A, and no slot or queue holds it (R350,
R351). -/
def State.readyIn (s : State) (w : Wave) (b : Bool) : Bool :=
  w.ready && (if w.interruptDue then !b else slotB (s.peekOp w) == b && !s.held w)

/-- The order of R349 among ready waves of one partition and slot: priority, then age, then the first partition slot index
after that of the last winner. -/
def issueBefore (b : Bool) (last : Nat) (x y : Wave) : Bool :=
  let dist : Wave → Nat := fun w => (w.slot + 16 - last) % 16
  decide (x.basePri > y.basePri) ||
    (decide (x.basePri = y.basePri) &&
      (decide (x.stampOf b < y.stampOf b) || (decide (x.stampOf b = y.stampOf b) && decide (dist x < dist y))))

/-- An issue slot of a partition. -/
def issueSlot (array : Nat) (b : Bool) : Nat := 2 * array + b.toNat

/-- A wave has issued in slot A in the present aclk (R349). -/
def State.issuedNow (s : State) (w : Wave) : Bool :=
  decide (aclkOf w.stampA = aclkOf (s.nowOf w.die)) && decide (w.runA ≠ 0)

/-- The wave that a slot of a partition chooses; slot A's second choice of an aclk is over the other waves (R349). -/
def State.slotChoice (s : State) (array : Nat) (b : Bool) : Option Wave :=
  let cand := s.allWaves.filter fun w => decide (w.arrayNo = array) && s.readyIn w b
  let cand := if !b && cand.any (fun w => !s.issuedNow w) then cand.filter (fun w => !s.issuedNow w) else cand
  let cand := if cand.any (fun w => w.runOf b < 256) then cand.filter (fun w => w.runOf b < 256) else cand
  leastBy (issueBefore b (Sparse.get 0 s.lastWin (issueSlot array b))) cand

/-- The next wave to issue: of the choices of every slot of every partition the one that has waited longest; partitions, and
the two datapaths of a slot A, work side by side, and the model takes them one after another (log entry 8). -/
def State.nextReady (s : State) : Option Handle :=
  let arrays := (s.allWaves.filter (·.ready)).map (·.arrayNo)
  let wins := arrays.flatMap fun a =>
    ((s.slotChoice a false).toList.map fun w => (w, false)) ++ ((s.slotChoice a true).toList.map fun w => (w, true))
  (leastBy (fun x y => decide (x.1.stampOf x.2 < y.1.stampOf y.2)) wins).map fun x => x.1.hdl

/-- Stamps, run counts and the last winner when the wave at issue issues in a slot; another wave that slot A has issued in the
same aclk keeps its run count (R349). -/
def State.noteIssue (s : State) (b : Bool) : State :=
  let a := s.wave.arrayNo
  let reset : Wave → Wave := fun w =>
    if w.arrayNo = a ∧ (w.st = .resident ∨ w.st = .waiting) ∧ (b ∨ !s.issuedNow w) then
      (if b then { w with runB := 0 } else { w with runA := 0 })
    else w
  let s := { s with waves := s.waves.map reset, lastWin := Sparse.put 0 s.lastWin (issueSlot a b) (s.wave.slot + 1) }
  s.onWave fun w =>
    if b then { w with stampB := s.now, runB := w.runB + 1 } else { w with stampA := s.now, runA := w.runA + 1 }

/-- The vector datapath to which slot A sends the instruction at issue: the second where another wave of the partition has
issued in the same aclk (R349, R371). -/
def State.datapath (s : State) : Nat :=
  if s.waves.any fun w => decide (w.arrayNo = s.wave.arrayNo) && decide (w.st = .resident) && s.issuedNow w then 2 else 1

/-- The clock counters advanced, never backwards and never more than 2 ns apart (R2, R435). -/
def advanceClock (c : Two Nat) (d0 d1 : Nat) : Two Nat :=
  let a := c.c0 + d0
  let b := c.c1 + d1
  ⟨max a (b - 2), max b (a - 2)⟩

def State.elapse (s : State) (d0 d1 : Nat) : State := { s with clock := advanceClock s.clock d0 d1 }

end Sys2Proof.Machine
end

