-- ==== Sys2Proof/Machine/Vector.lean ====
section
/-! DEFINITION. What every vector instruction shares: the shape of its operands under the mode's type, its checks, and
work lane by lane and element by element (09 R234, R235, R245). -/

namespace Sys2Proof.Machine

/-- Registers of an operand: judged under the type only where the instruction accepts it (R195, R234). -/
def Wave.shape (w : Wave) (accepts : Bool) : Nat := if accepts then w.etype.regs else 1

/-- Checked work of a vector datapath. An error that arose in one names it; an injected one strikes in the datapath to which
the issue slot sent the instruction (R349, R371 units 1 and 2). -/
def State.checkedVec (s : State) (cls : Check) (body : State → State) : State :=
  match s.strikes (some s.wave.lanes) with
  | none =>
    let unit := match s.upset with
      | some u => if u.unit = 2 then 2 else 1
      | none => 1
    s.sound cls unit 0 (some s.wave.lanes) body
  | some _ => s.checked cls s.datapath 0 (some s.wave.lanes) body

/-- A vector instruction of `n` bytes that writes the registers `dst`: encoding, convention, check, then its work on the
wave (R195, R234). -/
def vectorWork (cls : Check) (dst : BitVec 8 × Nat) (budget accepts : Bool) (n : Nat) (f : Wave → Wave) (s : State) :
    Host.Outcome State Fault Refusal :=
  .next (s.perform { budget := budget, convention := accepts, writes := dst } fun s =>
    s.checkedVec cls fun s => (s.onWave f).next n)

/-- A value for every lane that the instruction acts on, each computed from the registers as they stand (R234). -/
def Wave.byLane (w : Wave) (a : BitVec 8) (n : Nat) (f : Nat → Nat) : Wave :=
  w.putLanes a n (w.lanes.map fun l => (l, f l))

/-- A result element by element: `r` of the lane, the element's index and three source elements (R234). -/
def Wave.byElem (w : Wave) (a : BitVec 8) (r : Nat → Nat → Nat → Nat → Nat → Nat) (x y z : Nat → Nat) : Wave :=
  let t := w.etype
  w.byLane a t.regs fun l =>
    t.join ((upto t.elems).map fun i => r l i (t.elem (x l) i) (t.elem (y l) i) (t.elem (z l) i))

/-- A vector source under the mode's type. -/
def Wave.src (w : Wave) (c : BitVec 8) (l : Nat) : Nat := w.laneNat c l w.etype.regs

/-- The bits of a k destination: the active lanes that hold (R138, R242). -/
def Wave.maskWhere (w : Wave) (p : Nat → Bool) : Word := maskOf (w.lanes.filter p)

/-- A k register written whole. -/
def Wave.putMask (w : Wave) (kd : BitVec 3) (p : Nat → Bool) : Wave := w.setK kd.toNat (w.maskWhere p)

/-! ### Float elements (R245) -/

/-- An input element: a subnormal one is a zero under `ftz`. -/
def Wave.fin (w : Wave) (v : Nat) : FVal := w.etype.fmt.decode (w.etype.fmt.flush w.ftz v)

/-- A result rounded once for a lane and element under the mode. -/
def Wave.fout (w : Wave) (l i : Nat) (v : FVal) : Nat :=
  w.etype.fmt.flush w.ftz (w.etype.fmt.round (w.rnd l i) v)

/-- Sums of zeros are −0 under rdn (R246). -/
def Wave.rdn (w : Wave) : Bool := w.round = 3

end Sys2Proof.Machine
end

