-- ==== Sys2Proof/Machine/Convert.lean ====
section
/-! DEFINITION. Conversions of lane values (09 R253 to R256). -/

namespace Sys2Proof

open Machine (Fmt FVal Rnd Wave Check vectorWork bits)

/-- The integer that a value rounds to, clamped to a type's range; NaN gives 0 (R253). -/
def EType.clamp (t : EType) (rn : Rnd) : FVal → Nat
  | .nan => 0
  | .inf neg => t.wrap (if neg then t.lowest else t.highest)
  | .num neg m e =>
    let k : Int := Machine.roundInt rn neg m e
    t.wrap (min (max (if neg then -k else k) t.lowest) t.highest)

/-- A value written in a float format: overflow under R437 and an infinity under `sat` (R253). Where both rows of the
table name a pair of types, the row that names f32, f16 and bf16 is followed (log entry 18). -/
def convertFloat (f : Fmt) (sat : Bool) (rn : Rnd) : FVal → Nat
  | .inf neg => if sat && decide (f ≠ Fmt.f64) then f.signBit neg + f.maxFinite else f.infOf neg
  | v => f.round rn v

/-- One element from a source type to a destination type (R253). -/
def convert (src dst : EType) (ftz sat : Bool) (rn : Rnd) (v : Nat) : Nat :=
  if src = dst then v
  else if src.isInt then
    let r := src.toInt v
    if dst.isInt then dst.fit sat r
    else dst.fmt.flush ftz (dst.fmt.roundNum rn (decide (r < 0)) r.natAbs 0)
  else
    let x := src.fmt.decode (src.fmt.flush ftz v)
    if dst.isInt then dst.clamp rn x else dst.fmt.flush ftz (convertFloat dst.fmt sat rn x)

end Sys2Proof

namespace Sys2Proof.Machine

/-- VCVT: the source has the shape of `stype`, the destination that of the mode's type (R253). The source's shape does not
depend on the mode's type, so an odd register of a 64-bit `stype` is a reserved encoding under a packed type as well (R195 row
4), where R234 raises ILL_CONV whatever the alignment (log entry 45). -/
def execVcvt (a b : BitVec 8) (stype : EType) (s : State) : Host.Outcome State Fault Refusal :=
  let ok := !s.wave.etype.packed
  vectorWork .residue (a, s.wave.shape ok) (s.wave.dstOk (s.wave.shape ok) a && s.wave.srcOk stype.regs b) ok 8
    (fun w =>
      let t := w.etype
      w.byLane a t.regs fun l =>
        t.join [convert stype t w.ftz w.sat (w.rndSat l 0) (stype.elem (w.laneNat b l stype.regs) 0)]) s

/-! ### VPACK and VUNPK (R254 to R256) -/

end Sys2Proof.Machine

namespace Sys2Proof

open Machine (Fmt bits Rnd FVal)

/-- Bits of an element (R254). -/
def PackFmt.bitsOf : PackFmt → Nat
  | .e4m3 | .e5m2 | .i8 => 8
  | .e3m2 | .e2m3 => 6
  | .e2m1 => 4
  | .bf16 | .f16 | .i16 => 16
/-- The float format, if it is one (R254). -/
def PackFmt.fmt : PackFmt → Option Fmt
  | .e4m3 => some Fmt.e4m3
  | .e5m2 => some Fmt.e5m2
  | .e3m2 => some Fmt.e3m2
  | .e2m3 => some Fmt.e2m3
  | .e2m1 => some Fmt.e2m1
  | .bf16 => some Fmt.bf16
  | .f16 => some Fmt.f16
  | .i8 | .i16 => none

/-- The lane types of a format (R254). -/
def PackFmt.accepts (p : PackFmt) (t : EType) : Bool :=
  match p.fmt with
  | some _ => t = .f32
  | none => t = .i32 || t = .n32

/-- The float element of a value of f32 under a scale: enc of R255. -/
def encodeElem (f : Fmt) (ftz : Bool) (rn : Rnd) (x scale : Nat) : Nat :=
  if scale = 255 then f.nanBits
  else
    match Fmt.f32.decode (Fmt.f32.flush ftz x) with
    | .nan => f.nanBits
    | .inf neg => if rn.sat then f.signBit neg + f.maxFinite else f.infOf neg
    | .num neg m e => f.flush ftz (f.roundNum rn neg m (e + 127 - scale))

/-- The f32 value of a float element under a scale (R256). -/
def decodeElem (f : Fmt) (ftz : Bool) (rn : Rnd) (x scale : Nat) : Nat :=
  if scale = 255 then Fmt.f32.nanBits
  else
    Fmt.f32.flush (ftz && decide (f.width ≤ 8))
      (Fmt.f32.round { rn with sat := false } ((f.decode x).scaleBy ((scale : Int) - 127)))

/-- An element of a narrow integer format as the lane's type reads it (R256). -/
def PackFmt.extend (p : PackFmt) (t : EType) (v : Nat) : Nat :=
  if t.signed && v.testBit (p.bitsOf - 1) then v + 2 ^ 32 - 2 ^ p.bitsOf else v

/-- The number fitted to a narrow integer format with a type's signedness (R237, R255). -/
def PackFmt.fit (p : PackFmt) (t : EType) (sat : Bool) (r : Int) : Nat :=
  let lo : Int := if t.signed then -(2 ^ (p.bitsOf - 1)) else 0
  let hi : Int := if t.signed then 2 ^ (p.bitsOf - 1) - 1 else 2 ^ p.bitsOf - 1
  ((if sat then min (max r lo) hi else r) % 2 ^ p.bitsOf).toNat

end Sys2Proof

namespace Sys2Proof.Machine

/-- The scale byte of a lane, 127 without `.scaled`. -/
def Wave.scaleOf (w : Wave) (c : BitVec 8) (scaled : Bool) (l : Nat) : Nat :=
  if scaled then (w.laneWord c l).toNat % 256 else 127

/-- E registers from a multiple of E (R255). -/
def Wave.blockOk (w : Wave) (fmt : PackFmt) (r : BitVec 8) : Bool :=
  w.groupOk fmt.elems r && r.toNat % fmt.elems == 0

def execVpack (a b c : BitVec 8) (fmt : PackFmt) (sc : Bool) (s : State) :
    Host.Outcome State Fault Refusal :=
  vectorWork .residue (a, 1)
    (s.wave.dstOk 1 a && s.wave.blockOk fmt b && (!sc || s.wave.srcOk 1 c)) (fmt.accepts s.wave.etype) 8
    (fun w =>
      let elem : Nat → Nat → Nat := fun l j =>
        let x := (w.getV (b.toNat + j) l).toNat
        match fmt.fmt with
        | some f => encodeElem f w.ftz (w.rndSat l j) x (w.scaleOf c sc l)
        | none => fmt.fit w.etype w.sat (w.etype.toInt x)
      w.byLane a 1 fun l => (upto fmt.elems).foldl (fun v j => v + elem l j * 2 ^ (fmt.bitsOf * j)) 0) s

def execVunpk (a b c : BitVec 8) (fmt : PackFmt) (sc : Bool) (s : State) :
    Host.Outcome State Fault Refusal :=
  vectorWork .residue (a, fmt.elems)
    (s.wave.blockOk fmt a && s.wave.srcOk 1 b && (!sc || s.wave.srcOk 1 c)) (fmt.accepts s.wave.etype) 8
    (fun w =>
      let elem : Nat → Nat → Nat := fun l j =>
        let x := bits (w.laneWord b l).toNat (fmt.bitsOf * j) fmt.bitsOf
        match fmt.fmt with
        | some f => decodeElem f w.ftz (w.rnd l j) x (w.scaleOf c sc l)
        | none => fmt.extend w.etype x
      let lane : Nat → Nat := fun l =>
        (upto fmt.elems).foldl (fun v j => v + elem l j % 2 ^ 32 * 2 ^ (32 * j)) 0
      w.byLane a fmt.elems lane) s

end Sys2Proof.Machine
end

