-- ==== Sys2Proof/Machine/CounterInstr.lean ====
section
/-! DEFINITION. The counter instructions, the completion of a wait, and operations at a counter's home
(03 R68 to R80, R89; 10 R276 to R282). -/

namespace Sys2Proof.Machine

def ctrForm (uni : Bool) (kind : Kind) (base c : BitVec 8) (x : MemExt) (refs : Bool) : Form :=
  { uni := uni, size := 8, kind := kind, base := base, offs := c, imm := x.imm, ctr := true, refs := refs }

/-- The cell of an access; none where the add through a reference is refused (R75). -/
def State.cellOf (s : State) (h : Hit) : Option Nat := if h.ref then s.refKey s.wave.proc h.va else some h.key

/-- A broken status FAULTED is observed: the failures held on the counter are reported (R315). -/
def State.observe (s : State) (key : Nat) (st : CtrStatus) (h : Handle) (pc : DWord) : State :=
  if st = .faulted then s.sendRecords key h pc else s

/-- What the lanes of a counter instruction gathered for cc: B and F (R281). -/
structure Gathered where
  b : Bool := false
  f : Bool := false

/-- The end of a lane counter instruction: its flags once, from the lanes performed at first issue and on replay
together, and none while lanes are unfinished or where no lane is active (R281). -/
def State.endCtr (s : State) (f : Form) (x : Slots) (writesB writesF : Bool) (g : Gathered) (faults : List FaultAt) :
    State :=
  let w := s.wave
  let b := w.gathB || g.b
  let fl := w.gathF || g.f
  if faults = [] then
    let s := if writesB && decide (w.lanes ≠ []) then s.onWave (·.setB b) else s
    let s := if writesF && decide (w.lanes ≠ []) then s.setF fl else s
    s.finish f x []
  else (s.onWave fun w => { w with gathB := b, gathF := fl }).finish f x faults

/-- A lane counter instruction behind its checks: its comparison point, its release, its lanes in ascending order, its
acquire, its end. What the core's L1 holds of the cells goes home first (R118). Scratchpad cells of the team are acted on by
each side of a pair, the rest once (R376, R377). -/
def State.ctrLanes (s : State) (f : Form) (x : MemExt) (delta : Nat → Bool)
    (extra : State → List Hit → Option (Trap × Hit)) (recs : State → List (List Byte)) (writesB writesF : Bool)
    (work : State → List Hit → State × Gathered) : State :=
  (s.waitSlots x.slots).access f delta extra fun s hits faults =>
    s.allTogether f hits faults fun s hits faults =>
      s.once (if f.sp then .each else .once) (recs s) fun s =>
        s.releaseThen f x (!hits.isEmpty) fun s =>
          let (s, g) := work (s.homeward hits 8) hits
          let s := s.acquire s.wave.coreNo (acqWide f x && !hits.isEmpty)
          s.endCtr f x.slots writesB writesF g faults

/-- A read-modify-write of a cell by the wave at issue: after a check of the home that fails twice no value changes, the
counter is broken FAULTED, and the wave runs on (R373). -/
def State.atCell (s : State) (key : Nat) (perform : State → State) : State × Bool :=
  match s.homeSound with
  | (s, true) => (perform s, true)
  | (s, false) => ((s.ctrBreak key .faulted).homeRecord s.wave s.opcode .residue 8 key, false)

/-! ### CADD and CFADD (R277) -/

/-- One lane's add; a refused one changes nothing and is told (R75). -/
def State.laneAdd (s : State) (h : Hit) (d : DWord) : State × Bool :=
  match s.cellOf h with
  | some k => ((s.atCell k fun s => s.ctrAdd k d).1, false)
  | none => (s, true)

/-- The deltas added, lanes ascending (R78). -/
def State.addLanes (s : State) (d : Nat → DWord) : List Hit → State × Gathered
  | [] => (s, {})
  | h :: t =>
    let (s, bad) := s.laneAdd h (d h.pos)
    let (s, g) := s.addLanes d t
    (s, { g with f := g.f || bad })

/-- A fetch-add of one lane: the value before it and what the lane saw (R69, R75, R89). -/
def State.laneFetchAdd (s : State) (h : Hit) (d : DWord) : State × DWord × Gathered :=
  match s.cellOf h with
  | none => (s, 0#64, { f := true })
  | some k =>
    let (v, st) := s.ctrRead k
    let (s, done) := s.atCell k fun s => s.ctrAdd k d
    let st := if done then st else .faulted
    (s.observe k st s.wave.hdl s.wave.pc, v, { b := decide (st ≠ .ok), f := decide (st = .faulted) })

def State.fetchAddLanes (s : State) (d : Nat → DWord) : List Hit → State × List (Nat × Nat) × Gathered
  | [] => (s, [], {})
  | h :: t =>
    let (s, v, g) := s.laneFetchAdd h (d h.pos)
    let (s, vals, g') := s.fetchAddLanes d t
    (s, (h.pos, v.toNat) :: vals, { b := g.b || g'.b, f := g.f || g'.f })

/-- A delta of 2^63 or greater (R68). -/
def deltaBad (d : DWord) : Bool := d.msb

def execCadd (a base c : BitVec 8) (x : MemExt) (s : State) : Host.Outcome State Fault Refusal :=
  let f := ctrForm false .ctrWrite base c x true
  let d := s.wave.lanePair a
  .next (s.perform { budget := s.wave.srcOk 2 a && s.wave.offsetOk base c } fun s =>
    s.ctrLanes f x (fun l => deltaBad (d l)) (fun _ _ => none)
      (fun s => s.writeRecs f fun l => bytesOfNat 8 (d l).toNat) false true
      fun s hits => s.addLanes d hits)

def execCfadd (a base c : BitVec 8) (x : MemExt) (s : State) : Host.Outcome State Fault Refusal :=
  let f := ctrForm false .ctrWrite base c x true
  let d := s.wave.lanePair a
  .next (s.perform { budget := s.wave.groupOk 2 a && s.wave.offsetOk base c, writes := (a, 2) } fun s =>
    s.ctrLanes f x (fun l => deltaBad (d l)) (fun _ _ => none)
      (fun s => s.writeRecs f fun l => bytesOfNat 8 (d l).toNat) true true
      fun s hits =>
        let (s, vals, g) := s.fetchAddLanes d hits
        (s.onWave (·.putLanes a 2 vals), g))

/-! ### CREAD (R277) -/

def State.readLanes (s : State) : List Hit → State × List (Nat × Nat) × Gathered
  | [] => (s, [], {})
  | h :: t =>
    let (v, st) := s.ctrRead h.key
    let s := s.observe h.key st s.wave.hdl s.wave.pc
    let (s, vals, g) := s.readLanes t
    (s, (h.pos, v.toNat) :: vals, { b := g.b || decide (st ≠ .ok), f := g.f || decide (st = .faulted) })

def execCread (a base c : BitVec 8) (x : MemExt) (s : State) : Host.Outcome State Fault Refusal :=
  let f := ctrForm false .ctrRead base c x false
  .next (s.perform { budget := s.wave.dstOk 2 a && s.wave.offsetOk base c, writes := (a, 2) } fun s =>
    s.ctrLanes f x (fun _ => false) (fun _ _ => none) (fun _ => []) true true
      fun s hits =>
        let (s, vals, g) := s.readLanes hits
        (s.onWave (·.putLanes a 2 vals), g))

/-! ### CINIT and CBRK (R265, R277) -/

/-- The further row of R265: a peer's cell, by a wave that is not privileged; the lowest such lane. -/
def peerBars (s : State) (hits : List Hit) : Option (Trap × Hit) :=
  if s.wave.priv then none else (hits.find? fun h => h.target = 2).map fun h => (.illPriv, h)

/-- CINIT at a cell: the failures held on it are reported without an observer (R315). -/
def State.initCell (s : State) (key : Nat) (v : DWord) : State := (s.sendRecords key 0#32 0#64).ctrInit key v

def execCinit (a base c : BitVec 8) (x : MemExt) (s : State) : Host.Outcome State Fault Refusal :=
  let f := ctrForm false .ctrWrite base c x false
  let v := s.wave.lanePair a
  .next (s.perform { budget := s.wave.srcOk 2 a && s.wave.offsetOk base c } fun s =>
    s.ctrLanes f x (fun _ => false) peerBars (fun s => s.writeRecs f fun l => bytesOfNat 8 (v l).toNat) false false
      fun s hits => (hits.foldl (fun (s : State) h => (s.atCell h.key fun s => s.initCell h.key (v h.pos)).1) s, {}))

/-- A break by every active lane (R69, R277). -/
def breakLanes (st : CtrStatus) (base c : BitVec 8) (x : MemExt) (s : State) : Host.Outcome State Fault Refusal :=
  let f := ctrForm false .ctrWrite base c x false
  .next (s.perform { budget := s.wave.offsetOk base c, privileged := true } fun s =>
    s.ctrLanes f x (fun _ => false) peerBars (fun s => s.writeRecs f fun _ => bytesOfNat 8 st.code) false false
      fun s hits => (hits.foldl (fun (s : State) h => (s.atCell h.key fun s => s.ctrBreak h.key st).1) s, {}))

def execCbrkAband (base c : BitVec 8) (x : MemExt) (s : State) : Host.Outcome State Fault Refusal :=
  breakLanes .abandoned base c x s
def execCbrkFault (base c : BitVec 8) (x : MemExt) (s : State) : Host.Outcome State Fault Refusal :=
  breakLanes .faulted base c x s

/-! ### CWAIT, its continuation form, and CPOLL (R278 to R280) -/

/-- What a wait or a poll leaves in a wave: the value observed, and the flags against the threshold as it was. -/
def Wave.observed (w : Wave) (a : BitVec 8) (thr v : DWord) (st : CtrStatus) : Wave :=
  (w.flagsWait (reached v thr) st).writeU a v

/-- The work of a uniform counter instruction on its cell; the wave goes on from a fault as every uniform access does. -/
def State.ctrOne (s : State) (f : Form) (x : MemExt) (k : PairPoint) (work : State → Hit → State) (hits : List Hit)
    (faults : List FaultAt) : State :=
  match hits, faults with
  | h :: _, [] => s.once k [] fun s => work (s.homeward [h] 8) h
  | _, _ => s.finish f x.slots faults

/-- A uniform counter instruction behind its checks. -/
def State.ctrUniform (s : State) (f : Form) (x : MemExt) (k : PairPoint) (work : State → Hit → State) : State :=
  (s.waitSlots x.slots).access f (fun _ => false) (fun _ _ => none) fun s hits faults => s.ctrOne f x k work hits faults

def execCpoll (a base c : BitVec 8) (x : MemExt) (s : State) : Host.Outcome State Fault Refusal :=
  let f := ctrForm true .ctrRead base c x false
  let thr := s.readU a
  .next (s.ctrUniform f x (if f.sp then .each else .once) fun s h =>
    let (v, st) := s.ctrRead h.key
    let s := s.observe h.key st s.wave.hdl s.wave.pc
    let s := s.acquire s.wave.coreNo (acqWide f x)
    (s.onWave (·.observed a thr v st)).finish f x.slots [])

def execCwait (a base c : BitVec 8) (x : MemExt) (s : State) : Host.Outcome State Fault Refusal :=
  let f := ctrForm true .ctrRead base c x false
  let thr := s.readU a
  .next (s.ctrUniform f x .each fun s h =>
    let (v, st) := s.ctrRead h.key
    if reached v thr || decide (st ≠ .ok) then
      let s := s.observe h.key st s.wave.hdl s.wave.pc
      let s := s.acquire s.wave.coreNo (acqWide f x)
      (s.onWave (·.observed a thr v st)).finish f x.slots []
    else
      (s.register ⟨h.key, thr, .wave s.wave.hdl⟩).wait (.counter h.key thr a (acqWide f x)))

/-- CWAIT with continuation: once its address is checked, a PC that is not a word's traps and registers nothing; a wait
that is not over parks the wave at once, as an eviction does (R279, R372). -/
def execCwaitCont (a base c : BitVec 8) (x : MemExt) (s : State) : Host.Outcome State Fault Refusal :=
  let f := ctrForm true .ctrRead base 0#8 x false
  let thr := s.readU a
  let npc := s.readU c
  let work : State → Hit → State := fun s h =>
    let (v, st) := s.ctrRead h.key
    if reached v thr || decide (st ≠ .ok) then
      let s := s.observe h.key st s.wave.hdl s.wave.pc
      let s := s.acquire s.wave.coreNo (acqWide f x)
      ((s.onWave (·.observed a thr v st)).setSlot x.slots).jump npc
    else
      s.leaving fun s =>
        (s.register ⟨h.key, thr, .wave s.wave.hdl⟩).park (.cont h.key thr a (acqWide f x) npc)
  .next ((s.waitSlots x.slots).checked .residue 3 0 none fun s =>
    if npc.toNat % 4 ≠ 0 then s.trap .align
    else s.judged f (fun _ => false) (fun _ _ => none) fun s hits faults => s.ctrOne f x .each work hits faults)

/-- The wait of a wave on a counter completes with what was observed at the home (R278, R279, R315): its register, its
flags, its acquire, and the PC where it goes on. Its core's L1 keeps no older value of the cell (R115). -/
def State.wakeCounter (s : State) (w : Wave) (key : Nat) (thr : DWord) (dst : BitVec 8) (acq : Bool)
    (npc : Option DWord) (v : DWord) (st : CtrStatus) : State :=
  let s := s.observe key st w.hdl w.pc
  let s := (s.l1FlushRange w.coreNo key 8).acquire w.coreNo acq
  let s := s.updWave w.hdl fun w =>
    let w := w.observed dst thr v st
    w.continueAt (npc.getD (w.pc + 8#64))
  s.wakeUp w.hdl

/-! ### Operations at a counter's home (R68, R373) -/

/-- An operation performed at its counter's home for an agent of the package. Where the home's check fails twice no
value changes and the counter is broken FAULTED (R373). -/
def State.homeCounter (s : State) (key : Nat) (op : CtrOp) : State :=
  s.homeEvent
    (fun s =>
      match op with
      | .init v => s.initCell key v
      | _ => s.ctrPerform key op)
    fun s => (s.ctrBreak key .faulted).homeRecord s.origin s.inp.n .residue 8 key

def execHomeCounterOperation (key : Nat) (op : CtrOp) (s : State) : Host.Outcome State Fault Refusal :=
  .next (s.homeCounter key op)

end Sys2Proof.Machine
end

