-- ==== Sys2Proof/Machine/VectorInt.lean ====
section
/-! DEFINITION. Integer, logic, move, compare and bit instructions on vectors (09 R237 to R244). -/

namespace Sys2Proof.Machine

/-- Every type is accepted (R235). -/
def anyType (_ : EType) : Bool := true

/-! ### Two sources (R238, R239): each computes an element of a type from two -/

def intAdd (t : EType) (sat : Bool) (x y : Nat) : Nat := t.fit sat (t.toInt x + t.toInt y)
def intSub (t : EType) (sat : Bool) (x y : Nat) : Nat := t.fit sat (t.toInt x - t.toInt y)
def intMul (t : EType) (sat : Bool) (x y : Nat) : Nat := t.fit sat (t.toInt x * t.toInt y)
/-- Bits [2w−1:w] of the exact product. -/
def intMulHigh (t : EType) (_ : Bool) (x y : Nat) : Nat := t.wrap (t.toInt x * t.toInt y / 2 ^ t.bitsOf)
def bitAnd (_ : EType) (_ : Bool) (x y : Nat) : Nat := x &&& y
def bitOr (_ : EType) (_ : Bool) (x y : Nat) : Nat := x ||| y
def bitXor (_ : EType) (_ : Bool) (x y : Nat) : Nat := x ^^^ y
/-- The count is the whole element, unsigned. -/
def shiftL (t : EType) (_ : Bool) (x y : Nat) : Nat := if y ≥ t.bitsOf then 0 else x * 2 ^ y
def shiftR (t : EType) (_ : Bool) (x y : Nat) : Nat := t.wrap (t.toInt x / 2 ^ min y t.bitsOf)
def intMin (t : EType) (_ : Bool) (x y : Nat) : Nat := if t.toInt x ≤ t.toInt y then x else y
def intMax (t : EType) (_ : Bool) (x y : Nat) : Nat := if t.toInt x ≤ t.toInt y then y else x

/-- A two-source instruction. -/
def intOp (cls : Check) (accepts : EType → Bool) (r : EType → Bool → Nat → Nat → Nat) (a b c : BitVec 8)
    (s : State) : Host.Outcome State Fault Refusal :=
  let ok := accepts s.wave.etype
  let n := s.wave.shape ok
  vectorWork cls (a, n) (s.wave.dstOk n a && s.wave.srcOk n b && s.wave.srcOk n c) ok 4
    (fun w => w.byElem a (fun _ _ x y _ => r w.etype w.sat x y) (w.src b) (w.src c) fun _ => 0) s

/-- The same with the literal as the second source. -/
def intLit (cls : Check) (accepts : EType → Bool) (r : EType → Bool → Nat → Nat → Nat) (a b : BitVec 8)
    (lit : Word) (s : State) : Host.Outcome State Fault Refusal :=
  let ok := accepts s.wave.etype
  let n := s.wave.shape ok
  vectorWork cls (a, n) (s.wave.dstOk n a && s.wave.srcOk n b) ok 8
    (fun w => w.byElem a (fun _ _ x y _ => r w.etype w.sat x y) (w.src b) (fun _ => w.etype.literal lit) fun _ => 0) s

def execVadd (a b c : BitVec 8) (s : State) : Host.Outcome State Fault Refusal :=
  intOp .residue EType.isInt intAdd a b c s
def execVsub (a b c : BitVec 8) (s : State) : Host.Outcome State Fault Refusal :=
  intOp .residue EType.isInt intSub a b c s
def execVmul (a b c : BitVec 8) (s : State) : Host.Outcome State Fault Refusal :=
  intOp .residue EType.isInt intMul a b c s
def execVmulh (a b c : BitVec 8) (s : State) : Host.Outcome State Fault Refusal :=
  intOp .residue EType.isInt intMulHigh a b c s
def execVand (a b c : BitVec 8) (s : State) : Host.Outcome State Fault Refusal :=
  intOp .parity anyType bitAnd a b c s
def execVor (a b c : BitVec 8) (s : State) : Host.Outcome State Fault Refusal :=
  intOp .parity anyType bitOr a b c s
def execVxor (a b c : BitVec 8) (s : State) : Host.Outcome State Fault Refusal :=
  intOp .parity anyType bitXor a b c s
def execVshl (a b c : BitVec 8) (s : State) : Host.Outcome State Fault Refusal :=
  intOp .parity EType.isInt shiftL a b c s
def execVshr (a b c : BitVec 8) (s : State) : Host.Outcome State Fault Refusal :=
  intOp .parity EType.isInt shiftR a b c s
def execVmin (a b c : BitVec 8) (s : State) : Host.Outcome State Fault Refusal :=
  intOp .residue EType.isInt intMin a b c s
def execVmax (a b c : BitVec 8) (s : State) : Host.Outcome State Fault Refusal :=
  intOp .residue EType.isInt intMax a b c s

def execVaddLit (a b : BitVec 8) (lit : Word) (s : State) : Host.Outcome State Fault Refusal :=
  intLit .residue EType.isInt intAdd a b lit s
def execVsubLit (a b : BitVec 8) (lit : Word) (s : State) : Host.Outcome State Fault Refusal :=
  intLit .residue EType.isInt intSub a b lit s
def execVmulLit (a b : BitVec 8) (lit : Word) (s : State) : Host.Outcome State Fault Refusal :=
  intLit .residue EType.isInt intMul a b lit s
def execVmulhLit (a b : BitVec 8) (lit : Word) (s : State) : Host.Outcome State Fault Refusal :=
  intLit .residue EType.isInt intMulHigh a b lit s
def execVandLit (a b : BitVec 8) (lit : Word) (s : State) : Host.Outcome State Fault Refusal :=
  intLit .parity anyType bitAnd a b lit s
def execVorLit (a b : BitVec 8) (lit : Word) (s : State) : Host.Outcome State Fault Refusal :=
  intLit .parity anyType bitOr a b lit s
def execVxorLit (a b : BitVec 8) (lit : Word) (s : State) : Host.Outcome State Fault Refusal :=
  intLit .parity anyType bitXor a b lit s
def execVshlLit (a b : BitVec 8) (lit : Word) (s : State) : Host.Outcome State Fault Refusal :=
  intLit .parity EType.isInt shiftL a b lit s
def execVshrLit (a b : BitVec 8) (lit : Word) (s : State) : Host.Outcome State Fault Refusal :=
  intLit .parity EType.isInt shiftR a b lit s
def execVminLit (a b : BitVec 8) (lit : Word) (s : State) : Host.Outcome State Fault Refusal :=
  intLit .residue EType.isInt intMin a b lit s
def execVmaxLit (a b : BitVec 8) (lit : Word) (s : State) : Host.Outcome State Fault Refusal :=
  intLit .residue EType.isInt intMax a b lit s

/-- VMAD: b × c + src3 formed exactly and fitted once (R240). -/
def execVmad (a b c e : BitVec 8) (s : State) : Host.Outcome State Fault Refusal :=
  let ok := s.wave.etype.isInt
  let n := s.wave.shape ok
  vectorWork .residue (a, n) (s.wave.dstOk n a && s.wave.srcOk n b && s.wave.srcOk n c && s.wave.srcOk n e) ok 8
    (fun w =>
      let t := w.etype
      w.byElem a (fun _ _ x y z => t.fit w.sat (t.toInt x * t.toInt y + t.toInt z)) (w.src b) (w.src c) (w.src e)) s

/-! ### One source (R241) -/

/-- A one-source instruction, element by element. -/
def intUnary (cls : Check) (accepts : EType → Bool) (r : EType → Bool → Nat → Nat) (a b : BitVec 8) (s : State) :
    Host.Outcome State Fault Refusal :=
  let ok := accepts s.wave.etype
  let n := s.wave.shape ok
  vectorWork cls (a, n) (s.wave.dstOk n a && s.wave.srcOk n b) ok 4
    (fun w => w.byElem a (fun _ _ x _ _ => r w.etype w.sat x) (w.src b) (fun _ => 0) fun _ => 0) s

def execVabs (a b : BitVec 8) (s : State) : Host.Outcome State Fault Refusal :=
  intUnary .residue (fun t => t.isInt && t.signed) (fun t sat x => t.fit sat (t.toInt x).natAbs) a b s
def execVneg (a b : BitVec 8) (s : State) : Host.Outcome State Fault Refusal :=
  intUnary .residue EType.isInt (fun t sat x => t.fit sat (-(t.toInt x))) a b s

/-- The types of VCLZ, VPOPC, VBREV, VBFE and VBFI (R235). -/
def bitType (t : EType) : Bool := t.isInt && decide (t.bitsOf ≥ 32)

/-- The low `n` bits of a number in reverse order. -/
def reverseBits (n v : Nat) : Nat := (upto n).foldl (fun r i => 2 * r + bits v i 1) 0

def execVclz (a b : BitVec 8) (s : State) : Host.Outcome State Fault Refusal :=
  intUnary .parity bitType (fun t _ x => leadingZeros t.bitsOf x) a b s
def execVpopc (a b : BitVec 8) (s : State) : Host.Outcome State Fault Refusal :=
  intUnary .parity bitType (fun t _ x => popCount t.bitsOf x) a b s
def execVbrev (a b : BitVec 8) (s : State) : Host.Outcome State Fault Refusal :=
  intUnary .parity bitType (fun t _ x => reverseBits t.bitsOf x) a b s

/-- A whole lane value moved from a source of the lane (R241, R243). -/
def moveWork (n : Nat) (ok : Bool) (a : BitVec 8) (f : Wave → Nat → Nat) (s : State) :
    Host.Outcome State Fault Refusal :=
  vectorWork .parity (a, s.wave.etype.regs) (s.wave.dstOk s.wave.etype.regs a && ok) true n (fun w => w.byLane a w.etype.regs (f w)) s

def execVmov (a b : BitVec 8) (s : State) : Host.Outcome State Fault Refusal :=
  moveWork 4 (s.wave.srcOk s.wave.etype.regs b) a (fun w l => w.src b l) s
def execVmovLit (a : BitVec 8) (lit : Word) (s : State) : Host.Outcome State Fault Refusal :=
  moveWork 8 true a (fun w _ => w.etype.literal lit) s
def execVbcast (a b : BitVec 8) (s : State) : Host.Outcome State Fault Refusal :=
  let v := (s.readU b).toNat
  moveWork 4 true a (fun _ _ => v) s
def execVsel (a b c : BitVec 8) (k : BitVec 3) (s : State) : Host.Outcome State Fault Refusal :=
  let n := s.wave.etype.regs
  moveWork 8 (s.wave.srcOk n b && s.wave.srcOk n c) a
    (fun w l => if (w.getK k.toNat).getLsbD l then w.src b l else w.src c l) s

/-! ### Compare and bit fields (R242, R244) -/

def ICond.holds (x y : Int) : ICond → Bool
  | .eq => x = y
  | .ne => x ≠ y
  | .lt => x < y
  | .le => x ≤ y
  | .gt => x > y
  | .ge => x ≥ y

def execVcmp (cond : ICond) (kd : BitVec 3) (b c : BitVec 8) (s : State) : Host.Outcome State Fault Refusal :=
  let ok := s.wave.etype.isInt && !s.wave.etype.packed
  let n := s.wave.shape ok
  vectorWork .residue noVector (s.wave.srcOk n b && s.wave.srcOk n c) ok 8
    (fun w => w.putMask kd fun l => ICond.holds (w.etype.toInt (w.src b l)) (w.etype.toInt (w.src c l)) cond) s

/-- The field lies within the element, 32 bits wide under a type that is not accepted (R195, R244). -/
def fieldOk (w : Wave) (ok : Bool) (pos : BitVec 6) (len : BitVec 7) : Bool :=
  len != 0#7 && decide (pos.toNat + len.toNat ≤ 32 * w.shape ok)

def execVbfe (a b : BitVec 8) (pos : BitVec 6) (len : BitVec 7) (s : State) : Host.Outcome State Fault Refusal :=
  let ok := bitType s.wave.etype
  let n := s.wave.shape ok
  let lo := pos.toNat
  let m := len.toNat
  vectorWork .parity (a, n) (s.wave.dstOk n a && s.wave.srcOk n b && fieldOk s.wave ok pos len) ok 8
    (fun w =>
      let t := w.etype
      w.byElem a
        (fun _ _ x _ _ =>
          let v := bits x lo m
          if t.signed && v.testBit (m - 1) then v + 2 ^ t.bitsOf - 2 ^ m else v)
        (w.src b) (fun _ => 0) fun _ => 0) s

def execVbfi (a b c : BitVec 8) (pos : BitVec 6) (len : BitVec 7) (s : State) : Host.Outcome State Fault Refusal :=
  let ok := bitType s.wave.etype
  let n := s.wave.shape ok
  let lo := pos.toNat
  let m := len.toNat
  vectorWork .parity (a, n) (s.wave.dstOk n a && s.wave.srcOk n b && s.wave.srcOk n c && fieldOk s.wave ok pos len) ok 8
    (fun w => w.byElem a (fun _ _ x y _ => y - bits y lo m * 2 ^ lo + x % 2 ^ m * 2 ^ lo) (w.src b) (w.src c) fun _ => 0) s

end Sys2Proof.Machine
end

