-- ==== Sys2Proof/Machine/CrossLane.lean ====
section
/-! DEFINITION. Cross-lane instructions and the fusion of two waves (05 R145 to R148, 09 R257 to R262). -/

namespace Sys2Proof.Machine

/-- Work of the cross-lane unit behind its check (R371 unit 5). -/
def crossWork (cls : Check) (dst : BitVec 8 × Nat) (budget accepts : Bool) (n : Nat) (f : Wave → Wave) (s : State) :
    Host.Outcome State Fault Refusal :=
  .next (s.perform { budget := budget, convention := accepts, writes := dst } fun s =>
    s.checked cls 5 0 (some s.wave.lanes) fun s => (s.onWave f).next n)

/-! ### Shuffles (R257, R258) -/

/-- The source position of lane `l` in segments of 2^`w` lanes, if any. -/
def shuffleFrom (kind : ShflKind) (w d l idx : Nat) : Option Nat :=
  let n := 2 ^ w
  let base := l - l % n
  match kind with
  | .idx => some (base + idx % n)
  | .up => if l % n ≥ d then some (l - d) else none
  | .down => if l % n + d < n then some (l + d) else none
  | .xor => some (l ^^^ d)
  | .bcast => some (base + d)

def Wave.shuffle (wv : Wave) (kind : ShflKind) (zf : Bool) (w d : Nat) (a b c : BitVec 8) : Wave :=
  wv.byLane a wv.etype.regs fun l =>
    match shuffleFrom kind w d l (wv.laneWord c l).toNat with
    | some t => wv.src b t
    | none => if zf then 0 else wv.src b l

def execVshfl (a b c : BitVec 8) (s : State) : Host.Outcome State Fault Refusal :=
  let n := s.wave.etype.regs
  crossWork .parity (a, n) (s.wave.dstOk n a && s.wave.srcOk n b && s.wave.srcOk 1 c) true 4
    (fun wv => wv.shuffle .idx false 5 0 a b c) s

def execVshflx (kind : ShflKind) (zf : Bool) (w : BitVec 3) (d : BitVec 5) (a b c : BitVec 8) (s : State) :
    Host.Outcome State Fault Refusal :=
  let n := s.wave.etype.regs
  crossWork .parity (a, n) (s.wave.dstOk n a && s.wave.srcOk n b && (decide (kind ≠ .idx) || s.wave.srcOk 1 c)) true 8
    (fun wv => wv.shuffle kind zf w.toNat d.toNat a b c) s

/-! ### Folds (R259, R260) -/

/-- An operation accepts a type. -/
def foldAccepts (o : RedOp) (t : EType) : Bool :=
  match o with
  | .fadd | .fmin | .fmax => t.isFloat
  | _ => t.isInt

/-- One step of a fold on one element, keyed by the lane folded in and the element's index. -/
def Wave.foldElem (w : Wave) (o : RedOp) (l i x y : Nat) : Nat :=
  let t := w.etype
  match o with
  | .add => intAdd t w.sat x y
  | .min => intMin t w.sat x y
  | .max => intMax t w.sat x y
  | .and => x &&& y
  | .or => x ||| y
  | .xor => x ^^^ y
  | .fadd => w.fout l i (FVal.add w.rdn (w.fin x) (w.fin y))
  | .fmin => w.fout l i (FVal.minNum (w.fin x) (w.fin y))
  | .fmax => w.fout l i (FVal.maxNum (w.fin x) (w.fin y))

/-- A lane value made from its own elements, as a narrow result is extended (R188). -/
def Wave.whole (w : Wave) (v : Nat) : Nat := w.etype.join ((upto w.etype.elems).map fun i => w.etype.elem v i)

/-- The accumulator with lane `l` folded in. -/
def Wave.foldLane (w : Wave) (o : RedOp) (b : BitVec 8) (acc l : Nat) : Nat :=
  let t := w.etype
  t.join ((upto t.elems).map fun i => w.foldElem o l i (t.elem acc i) (t.elem (w.src b l) i))

/-- The fold over some lanes in their order. -/
def Wave.foldLanes (w : Wave) (o : RedOp) (b : BitVec 8) : List Nat → Nat
  | [] => 0
  | l :: t => t.foldl (w.foldLane o b) (w.whole (w.src b l))

/-- The active lanes of the segment of 2^`n` positions that holds `l`. -/
def Wave.segment (w : Wave) (n l : Nat) : List Nat := w.lanes.filter fun i => i / 2 ^ n == l / 2 ^ n

/-- The identity of an exclusive scan, for each element (R260). -/
def foldIdentity (o : RedOp) (t : EType) : Nat :=
  match o with
  | .add | .or | .xor => 0
  | .min => t.wrap t.highest
  | .max => t.wrap t.lowest
  | .and => 2 ^ t.bitsOf - 1
  | .fadd => t.fmt.signBit true
  | .fmin => t.fmt.infOf false
  | .fmax => t.fmt.infOf true

/-- The check of VRED and VSCAN (R371). -/
def foldCheck : RedOp → Check
  | .add | .fadd => .residue
  | _ => .parity

def execVred (op : RedOp) (w : BitVec 3) (u : Bool) (a b : BitVec 8) (s : State) :
    Host.Outcome State Fault Refusal :=
  let ok := foldAccepts op s.wave.etype
  let n := s.wave.shape ok
  crossWork (foldCheck op) (if u then noVector else (a, n)) (s.wave.srcOk n b && (u || s.wave.dstOk n a)) ok 8
    (fun wv =>
      if u then
        (if wv.lanes = [] then wv else wv.writeU a (BitVec.ofNat 64 (wv.foldLanes op b wv.lanes)))
      else wv.byLane a wv.etype.regs fun l => wv.foldLanes op b (wv.segment w.toNat l)) s

def execVscan (op : RedOp) (w : BitVec 3) (excl : Bool) (a b : BitVec 8) (s : State) :
    Host.Outcome State Fault Refusal :=
  let ok := foldAccepts op s.wave.etype
  let n := s.wave.shape ok
  crossWork (foldCheck op) (a, n) (s.wave.srcOk n b && s.wave.dstOk n a) ok 8
    (fun wv =>
      let t := wv.etype
      wv.byLane a t.regs fun l =>
        let before := (wv.segment w.toNat l).filter fun i => if excl then i < l else i ≤ l
        if before = [] then t.join (List.replicate t.elems (foldIdentity op t)) else wv.foldLanes op b before) s

/-! ### Matching (R145, R261) -/

/-- The key of a lane over the width of the type. -/
def Wave.matchKey (w : Wave) (b : BitVec 8) (l : Nat) : Nat :=
  w.src b l % 2 ^ (if w.etype.packed then 32 else w.etype.bitsOf)

def execVmatch (a b : BitVec 8) (s : State) : Host.Outcome State Fault Refusal :=
  crossWork .parity (a, 1) (s.wave.dstOk 1 a && s.wave.srcOk s.wave.etype.regs b) true 4
    (fun w => w.byLane a 1 fun l => (w.maskWhere fun i => w.matchKey b i = w.matchKey b l).toNat) s

/-! ### REGRP (R146 to R148, R262) -/

/-- The active lanes that REGRP counts. -/
def Wave.activeLanes (w : Wave) : List Nat := lanesOf w.act

/-- Two waves may fuse (R146). -/
def fuses (a b : Wave) : Bool :=
  decide (a.hdl ≠ b.hdl) && decide (a.team = b.team) && decide (a.pc = b.pc) && decide (a.codever = b.codever) &&
    a.consumer == b.consumer && decide (a.activeLanes.length + b.activeLanes.length ≤ 32)

/-- The migration mask of a wave that stands at REGRP. -/
def Wave.migration (w : Wave) : Word :=
  match w.await with
  | .partner m _ => m
  | _ => 0#32

/-- The receiver after a fusion: registers of migrated blocks, masks and thread ids follow the lanes (R148). -/
def Wave.fuse (r d : Wave) (mask : Word) : Wave :=
  let src := r.activeLanes.map (fun l => (r, l)) ++ d.activeLanes.map fun l => (d, l)
  let n := src.length
  let at_ : Nat → Wave × Nat := fun p => src.getD p (r, p)
  let regs := ((upto 30).filter fun i => mask.getLsbD i).flatMap fun i => (upto 8).map (· + 8 * i)
  let cells := regs.flatMap fun g => (upto 32).map fun p => (g, p)
  let w := cells.foldl
    (fun w c => w.setV c.1 c.2 (if c.2 < n then (at_ c.2).1.getV c.1 (at_ c.2).2 else 0#32)) r
  let w := (upto 8).foldl
    (fun w j => w.setK j (maskOf ((upto n).filter fun p => ((at_ p).1.getK j).getLsbD (at_ p).2))) w
  let idOf : Nat → Word := fun p =>
    if p < n then (at_ p).1.threadId (at_ p).2 else BitVec.ofNat 32 (0x400 + 32 * r.widx + p)
  let ids : Sparse Word := (upto 32).foldl (fun t p => Sparse.put 0#32 t p (idOf p)) []
  { w with tid := ids }

/-- A side of a redundant pair with what a donor's side holds: its writes behind the receiver's, and the signature of its
records so far as one record more. The manual does not say how the records of two sides join (R148, R376, R377; log entry
45). -/
def PairSide.joined (p q : PairSide) : PairSide :=
  let held := p.held ++ q.held
  if q.recs = 0 then { p with held := held, ended := held.length, sigs := p.sigs ++ q.sigs }
  else
    { p.take (bytesOfNat 8 q.sig.toNat ++ List.replicate 24 0#8) with
      held := held, ended := held.length, sigs := (p.take (bytesOfNat 8 q.sig.toNat ++ List.replicate 24 0#8)).sigs ++ q.sigs }

/-- Two waves fuse: the one of the lower team index receives and goes on after REGRP, the other retires. A lane that moves
to another core finds there what it wrote before: the donor's core writes its L1 back, and the receiver's keeps nothing
older; a side of a redundant pair keeps the donor's held writes with its own (R104, R148, R377). -/
def State.fuseWaves (s : State) (a b : Wave) : State :=
  let (r, d) := if a.widx < b.widx then (a, b) else (b, a)
  let w := { r.fuse d (a.migration ||| b.migration) with
    pair := match r.pair, d.pair with
      | some p, some q => some (p.joined q)
      | p, _ => p }
  let s := if r.coreNo = d.coreNo then s else (s.cleanCore d.coreNo).invalidateCore r.coreNo
  let s := s.updWave r.hdl fun _ =>
    { ((w.advance 4).setF false) with slots := 0#8, st := .resident, await := .nothing, since := s.nowOf r.die }
  s.retire d.hdl

/-- A wave at REGRP goes on unpaired: F is set and every register stays (R147). -/
def State.unpaired (s : State) (h : Handle) : State :=
  s.updWave h fun w =>
    { ((w.advance 4).setF true) with st := .resident, await := .nothing, since := s.nowOf w.die }

/-- The waiting wave of lowest team index that may pair with a wave, its window still open (R147). -/
def State.partnerOf (s : State) (w : Wave) : Option Wave :=
  leastBy (fun a b => a.widx < b.widx)
    (s.allWaves.filter fun o =>
      decide (o.st = .waiting) && fuses w o &&
        (match o.await with
         | .partner _ e => decide (s.nowOf o.die < e)
         | _ => false))

/-- A wave arrives at REGRP with a window that ends at a clock: it pairs, goes on, or waits; a parked wave that it could
pair with becomes runnable (R147). -/
def State.arrive (s : State) (h : Handle) (mask : Word) (ends : Nat) : State :=
  let s := s.updWave h fun w => { w with await := .partner mask ends }
  match s.findWave h with
  | none => s
  | some w =>
    match s.partnerOf w with
    | some o => s.fuseWaves w o
    | none =>
      if ends ≤ s.nowOf w.die then s.unpaired h
      else
        let s := s.updWave h fun w => { w with st := .waiting, due := false, since := s.nowOf w.die }
        let parked := s.allWaves.filter fun o =>
          decide (o.st = .parked) && fuses w o &&
            (match o.await with
             | .partner _ _ => true
             | _ => false)
        parked.foldl (fun s o => s.wakeUp o.hdl) s

/-- A wave comes back to REGRP from off-core: after its window it goes on unpaired, before its end it is open again (R147). -/
def State.comeBack (s : State) (h : Handle) (mask : Word) (ends : Nat) : State :=
  match s.findWave h with
  | none => s
  | some w => if ends ≤ s.nowOf w.die then s.unpaired h else s.arrive h mask ends

/-- The end of a wave's window has something to do: the wave waits, or is parked and has not been told (R147). -/
def State.windowOver (s : State) (w : Wave) : Bool :=
  match w.await with
  | .partner _ e => decide (e ≤ s.nowOf w.die) && (decide (w.st = .waiting) || (decide (w.st = .parked) && !w.due))
  | _ => false

/-- The nanoseconds of a window given in aclk of 940 MHz, rounded up (R3, R147; log entry 1). -/
def windowNs (aclk : Nat) : Nat := (aclk * 1000 + 939) / 940

/-- The operands of REGRP are legal: no bit beyond the mask, the window or the budget (R146). -/
def Wave.regrpOk (w : Wave) (m win : DWord) : Bool :=
  decide (m.toNat < 2 ^ 30) && decide (win.toNat < 2 ^ 20) && decide (m.toNat < 2 ^ w.vblk)

def execRegrp (b c : BitVec 8) (s : State) : Host.Outcome State Fault Refusal :=
  let m := s.readU b
  let win := s.readU c
  .next
    (if !s.wave.regrpOk m win then s.trap .illRsvd
     else s.checked .parity 5 0 (some s.wave.lanes) fun s =>
       if s.wave.openSet ≠ [] ∨ s.wave.batches ≠ [] then (s.setF true).next 4
       else s.waitAll.arrive s.wave.hdl (m.setWidth 32) (s.now + windowNs win.toNat))

/-- The window of a wave at REGRP ends: a waiting wave goes on, a parked one becomes runnable (R147). -/
def execRegrpWindowExpiry (h : Handle) (s : State) : Host.Outcome State Fault Refusal :=
  match s.findWave h with
  | none => .next s
  | some w =>
    .next (if !s.windowOver w then s else if w.st = .waiting then s.unpaired h else s.wakeUp h)

end Sys2Proof.Machine
end

