-- ==== Sys2Proof/Machine/Engine.lean ====
section
/-! DEFINITION. The engines: parameter blocks, templates and groups, copies, multicasts, gathers and collectives, their
completion and failure (12 R310 to R323, 03 R90, 14 R368). -/

namespace Sys2Proof.Machine

/-! ### Templates and groups (R313, R317) -/

/-- A template from its 32 bytes, where it is not malformed (R313). -/
def parseTemplate (l : List Byte) : Option Template :=
  let t : Template := ⟨natAt l 0 4, natAt l 4 2, natAt l 6 2, intAt l 8 4, intAt l 12 4, intAt l 16 4, intAt l 20 4,
    natAt l 24 1⟩
  if t.dims < 4 ∧ natAt l 25 7 = 0 ∧ 1 ≤ t.len0 ∧ t.len0 ≤ 2 ^ 24 ∧
      (t.dims = 1 → t.n1m = 0 ∧ t.ss1 = 0 ∧ t.ds1 = 0) ∧ (t.dims < 3 → t.n2m = 0 ∧ t.ss2 = 0 ∧ t.ds2 = 0) ∧
      t.len0 * (t.n1m + 1) * (t.n2m + 1) ≤ 2 ^ 32 then some t
  else none

/-- A member from its 16 bytes, where it is not malformed (R317). -/
def parseMember (l : List Byte) : Option Member :=
  let en := natAt l 6 1
  if natAt l 7 1 = 0 ∧ (en = 1 ∨ (en = 0 ∧ natAt l 0 16 = 0)) then
    some ⟨intAt l 0 2, intAt l 2 2, intAt l 4 2, en = 1, natAt l 8 4, natAt l 12 4⟩
  else none

/-- A group from its 256 bytes. -/
def parseGroup (l : List Byte) : Option (List Member) :=
  let ms := (upto 16).map fun i => parseMember (bytesAt l (16 * i) 16)
  if ms.all (·.isSome) then some (ms.filterMap fun m => m) else none

/-- The defined template of the running grid's table; of the wave's code version where the wave has no grid (R313;
log entry 21). -/
def State.templateOf (s : State) (i : Nat) : Option Template :=
  let table : List (Nat × Template) := match s.myTeam.bind fun t => s.grid t.grid with
    | none => ((s.code s.wave.codever).map (·.templates)).getD []
    | some g => g.templates
  ((table.find? (·.1 = i)).map (·.2)).filter fun t => t.dims ≠ 0

/-- The defined group of the running grid's table. -/
def State.groupOf (s : State) (i : Nat) : Option (List Member) :=
  match s.myTeam.bind fun t => s.grid t.grid with
  | none => none
  | some g => ((g.groups.find? (·.1 = i)).map (·.2)).filter fun l => l.any (·.en)

/-! ### Engine addresses (R311) -/

/-- A place that an engine reads or writes: a virtual address, or an offset of a team's scratchpad. -/
inductive Place
  | virt (va : DWord)
  | pad (team off : Nat)
deriving DecidableEq, Repr

/-- A source or destination address, where it is valid. -/
def placeOf (team : Nat) (a : DWord) : Option Place :=
  let tag := bits a.toNat 56 8
  if tag = 0 then some (.virt a)
  else if tag = 0x80 ∧ bits a.toNat 22 34 = 0 then some (.pad team (bits a.toNat 0 22))
  else none

/-- A counter address that a parameter block may hold. -/
def ctrAddrOk (a : DWord) : Bool :=
  let tag := bits a.toNat 56 8
  tag / 16 == 9 || (a.toNat % 8 == 0 && (tag == 0 || (tag == 0x80 && bits a.toNat 22 34 == 0)))

/-- The engine address of a place. -/
def Place.address (p : Place) (o : Int) : DWord :=
  match p with
  | .virt va => va + BitVec.ofInt 64 o
  | .pad _ off => BitVec.ofNat 64 (0x80 * 2 ^ 56 + ((off : Int) + o).toNat % 2 ^ 22)

/-- A byte that an engine may touch: its key, its page's type, and the bytes from it that one access may take. -/
structure Reached where
  key : Nat
  type : Nat
  left : Nat
deriving DecidableEq, Repr

/-- One access of an engine: the reached byte, or the cause of R315 with the bytes that are given up. -/
def State.engReach (s : State) (e : Eng) (p : Place) (o : Int) (n : Nat) (k : Kind) :
    State × Except (Nat × Nat) Reached :=
  match p with
  | .virt va =>
    let a := (va + BitVec.ofInt 64 o).toNat
    let room := 65536 - a % 65536
    match s.translate e.die e.proc e.priv false k a with
    | (s, .error c) => (s, .error (c.code, min n room))
    | (s, .ok x) =>
      let type := pteType x.entry.pte
      match s.reachNow e.die e.proc k (pteTarget x.entry.pte) (ptePkg x.entry.pte) x.pa with
      | .error c => (s, .error (c.code, min n room))
      | .ok key =>
        if k.writes && type == 1 && !e.priv then (s, .error (11, min n room)) else (s, .ok ⟨key, type, min n room⟩)
  | .pad team off =>
    let at_ : Int := off + o
    match s.team team with
    | none => (s, .error (8, n))
    | some t =>
      if at_ < 0 then (s, .error (8, min n (-at_).toNat))
      else if at_.toNat < t.units * 16384 then
        (s, .ok ⟨spKey team at_.toNat, 0, min n (t.units * 16384 - at_.toNat)⟩)
      else (s, .error (8, n))

/-! ### Copies (R90, R314, R315) -/

/-- A run of bytes to be copied. -/
structure Run where
  src : Place
  so : Int
  dst : Place
  do_ : Int
  len : Nat
deriving DecidableEq, Repr

/-- A piece of a run that lies in one page at both ends. -/
structure Chunk where
  skey : Nat
  stype : Nat
  dkey : Nat
  dtype : Nat
  len : Nat
deriving DecidableEq, Repr

/-- A failure: its cause and the failing address. -/
abbrev Failure := Nat × DWord

/-- The first of some bytes that lies in a sector in error. -/
def State.firstPoison (s : State) (key n : Nat) : Option Nat :=
  if s.anyPoison key n then (upto n).find? fun i => s.anyPoison (key + i) 1 else none

/-- The failure of a read that meets a sector in error, at the first byte read of it (R65, R315). -/
def State.poisonRead (s : State) (p : Place) (o : Int) (key n : Nat) : List Failure :=
  match s.firstPoison key n with
  | none => []
  | some i => [(10, p.address (o + i))]

/-- The pieces of a run and its failures, in order. The fuel passes every page end of both places. -/
def State.planRun (s : State) (e : Eng) : Nat → Run → State × List Chunk × List Failure
  | 0, _ => (s, [], [])
  | f + 1, r =>
    if r.len = 0 then (s, [], [])
    else
      match s.engReach e r.src r.so r.len .load with
      | (s, .error (c, n)) =>
        let (s, cs, fs) := s.planRun e f { r with so := r.so + n, do_ := r.do_ + n, len := r.len - n }
        (s, cs, (c, r.src.address r.so) :: fs)
      | (s, .ok a) =>
        match s.engReach e r.dst r.do_ a.left .store with
        | (s, .error (c, n)) =>
          let (s, cs, fs) := s.planRun e f { r with so := r.so + n, do_ := r.do_ + n, len := r.len - n }
          (s, cs, (c, r.dst.address r.do_) :: fs)
        | (s, .ok b) =>
          let n := b.left
          let bad := s.poisonRead r.src r.so a.key n
          let (s, cs, fs) := s.planRun e f { r with so := r.so + n, do_ := r.do_ + n, len := r.len - n }
          (s, ⟨a.key, a.type, b.key, b.type, n⟩ :: cs, bad ++ fs)

def State.planRuns (s : State) (e : Eng) : List Run → State × List Chunk × List Failure
  | [] => (s, [], [])
  | r :: t =>
    let (s, cs, fs) := s.planRun e (2 * (r.len / 65536) + 8) r
    let (s, cs', fs') := s.planRuns e t
    (s, cs ++ cs', fs ++ fs')

/-- A byte bound for a counter cell of a type-C page: its key, its value, and the cell byte that it comes from. -/
structure CellByte where
  key : Nat
  val : Byte
  from_ : Option Nat
deriving DecidableEq, Repr

/-- What a piece reads. -/
def State.chunkData (s : State) (c : Chunk) : List Byte :=
  if isDevKey c.skey then s.devRead c.skey c.len else s.readBytes (c.stype = 2) c.skey c.len

/-- The values of a piece written to a destination that is no type-C page. -/
def State.writeChunk (s : State) (c : Chunk) (bs : List Byte) : State :=
  if isDevKey c.dkey then s.devWrite c.dkey bs else s.writeBytes c.dkey bs

/-- The bytes of a piece for counter cells, each with the cell byte that it comes from. -/
def Chunk.cellBytes (c : Chunk) (bs : List Byte) : List CellByte :=
  (bs.zip (upto bs.length)).map fun e =>
    ⟨c.dkey + e.2, e.1, if c.stype = 1 ∨ isSpKey c.skey then some (c.skey + e.2) else none⟩

/-- A cell set with a status, and every waiter judged (R70, R90); a shadow frame of an enabled alias entry takes no write
(R62). -/
def State.initWith (s : State) (key : Nat) (v : DWord) (st : CtrStatus) : State :=
  s.unshadowed key fun s => (((s.putDWord key v).setStatus key st).markRewritten key).fire key v st

/-- The last byte written to place `i` of a cell. -/
def cellByteAt (l : List CellByte) (cell i : Nat) : Option CellByte := l.reverse.find? (·.key = 8 * cell + i)

/-- The counter cell that all eight bytes of a cell come from, in order (R90). -/
def cellSource (l : List CellByte) (cell : Nat) : Option Nat :=
  ((cellByteAt l cell 0).bind (·.from_)).filter fun p =>
    p % 8 == 0 && (upto 8).all fun i => (cellByteAt l cell i).bind (·.from_) == some (p + i)

/-- One initialisation of a cell from the bytes written to it, the last of each place (R90). -/
def State.initFrom (s : State) (l : List CellByte) (cell : Nat) : State :=
  let v := natOfBytes ((upto 8).map fun i => ((cellByteAt l cell i).map (·.val)).getD (s.rawByte (8 * cell + i)))
  let st := match cellSource l cell with
    | some p => s.ctrStatus p
    | none => .ok
  s.initWith (8 * cell) (BitVec.ofNat 64 v) st

/-- A cell of the team's scratchpad takes the status of the counter cell that was copied into it whole; one that is not OK
wakes its waiters (R69, R90). -/
def State.carryStatus (s : State) (l : List CellByte) (cell : Nat) : State :=
  match cellSource l cell with
  | none => s
  | some p =>
    let st := s.ctrStatus p
    let s := s.setStatus (8 * cell) st
    if st = .ok then s else s.fire (8 * cell) (s.ctrValue (8 * cell)) st

/-- The elements of a list, each once, in the order of their first places. -/
def firsts : List Nat → List Nat
  | [] => []
  | a :: t => a :: (firsts t).filter (· ≠ a)

/-- How far a piece's destination lies from its source, where the two meet; 0 where they do not. -/
def Chunk.gap (c : Chunk) : Nat :=
  if c.skey < c.dkey ∧ c.dkey < c.skey + c.len then c.dkey - c.skey
  else if c.dkey < c.skey ∧ c.skey < c.dkey + c.len then c.skey - c.dkey
  else 0

/-- The bytes read by a piece that lies `d` off its destination, `i` of them read so far: each its prior value, what an
earlier piece left, or what the piece itself wrote there, freely chosen (R314; log entry 6). -/
def mixBytes (n d : Nat) : Nat → List (Byte × Byte) → List Byte → List Byte
  | _, [], out => out
  | i, (a, b) :: t, out =>
    let kept := if Config.freeBit (n + 2 * i) then b else a
    let v := if 0 < d ∧ d ≤ i ∧ Config.freeBit (n + 2 * i + 1) then out.getD (i - d) kept else kept
    mixBytes n d (i + 1) t (out ++ [v])

/-- What a piece of a copy that began at `before` reads: a byte that the copy writes as well is free among its values
(R314). -/
def State.pieceData (before s : State) (c : Chunk) : State × List Byte :=
  let a := before.chunkData c
  let b := s.chunkData c
  if a = b ∧ c.gap = 0 then (s, b)
  else
    let l := a.zip b
    let bs := if c.skey < c.dkey then mixBytes s.fresh c.gap 0 l [] else (mixBytes s.fresh c.gap 0 l.reverse []).reverse
    ({ s with fresh := s.fresh + 2 * b.length }, bs)

/-- What copied bytes do to the counter cells that they lie in: cells of type-C pages are initialised, cells of scratchpad
take statuses (R90). The cells are settled one after another, and where source and destination overlap a cell gives the
status that stands in it by then: R314 lets a byte that a copy both reads and writes read either value and names no status
(log entry 45). -/
def State.settleCells (s : State) (l : List CellByte) : State :=
  (firsts (l.map fun b => b.key / 8)).foldl
    (fun (s : State) q => if isSpKey (8 * q) then s.carryStatus l q else s.initFrom l q) s

/-- The cell bytes of a piece that need settling: those for type-C pages, and, in a copy that reads counter cells, those for
scratchpad. -/
def Chunk.cells (c : Chunk) (counters : Bool) (bs : List Byte) : List CellByte :=
  if c.dtype = 1 then c.cellBytes bs
  else if counters && isSpKey c.dkey then
    (c.cellBytes bs).map fun b => if c.stype = 1 then b else { b with from_ := none }
  else []

/-- A cell byte without the cell that it comes from: what a copy that carries no status leaves. -/
def CellByte.plain (b : CellByte) : CellByte := { b with from_ := none }

/-- The cell bytes of a piece of a request: one of the bulk engine carries statuses, any other writes values alone (R90,
R97). -/
def Chunk.settled (c : Chunk) (bulk counters : Bool) (bs : List Byte) : List CellByte :=
  if bulk then c.cells counters bs else (c.cells false bs).map CellByte.plain

/-- A copy whose every access may be made. -/
def State.copyAll (s : State) (bulk : Bool) (cs : List Chunk) : State :=
  let counters := cs.any (·.stype = 1)
  let r := cs.foldl
    (fun (r : State × List CellByte) c =>
      let (u, bs) := s.pieceData r.1 c
      (if c.dtype = 1 then u else u.writeChunk c bs, r.2 ++ c.settled bulk counters bs))
    (s, [])
  r.1.settleCells r.2

/-- The bytes of a piece that a failed request has written: any subset, but none of a sector in error (R65, R315). -/
def State.partChunk (before s : State) (c : Chunk) : State × List (Nat × Byte) :=
  let (s, bs) := before.pieceData s c
  let n := s.fresh
  let keep := ((upto bs.length).zip bs).filter fun e =>
    Config.freeBit (n + e.1) && !s.anyPoison (c.skey + e.1) 1
  ({ s with fresh := n + bs.length }, keep)

/-- A copy that fails. -/
def State.copyPart (s : State) (bulk : Bool) (cs : List Chunk) : State :=
  let counters := cs.any (·.stype = 1)
  let r := cs.foldl
    (fun (r : State × List CellByte) c =>
      let (s, keep) := s.partChunk r.1 c
      let at_ : Nat → Chunk := fun i => { c with skey := c.skey + i, dkey := c.dkey + i, len := 1 }
      (if c.dtype = 1 then s else keep.foldl (fun (s : State) e => s.writeChunk (at_ e.1) [e.2]) s,
        r.2 ++ keep.flatMap fun e => (at_ e.1).settled bulk counters [e.2]))
    (s, [])
  r.1.settleCells r.2

/-- A place lies in a type-C page of the request's process, whatever the page permits. -/
def State.counterPage (s : State) (e : Eng) (p : Place) (o : Int) : Bool :=
  match p with
  | .pad .. => false
  | .virt va =>
    match s.walk e.proc (va + BitVec.ofInt 64 o).toNat with
    | .ok (_, _, p) => pteType p == 1
    | .error _ => false

/-- A run has a destination byte in a type-C page: one place of each page that it meets is looked at. -/
def State.intoCounters (s : State) (e : Eng) (r : Run) : Bool :=
  r.len != 0 && (upto (r.len / 65536 + 2)).any fun (i : Nat) => s.counterPage e r.dst (r.do_ + min (i * 65536) (r.len - 1))

/-- The request is of the bulk engine: a copy or a multicast (R97). -/
def Eng.bulk (e : Eng) : Bool :=
  match e.kind with
  | .copy _ | .multi .. => true
  | _ => false

/-- A copy of some runs: the first failure, if there is one (R314, R315). One into type-C pages without privilege writes
nothing, whichever of its accesses fails (R90). -/
def State.copyRuns (s : State) (e : Eng) (runs : List Run) : State × Option Failure :=
  let barred := !e.priv && runs.any (s.intoCounters e)
  let (s, cs, fs) := s.planRuns e runs
  match fs with
  | [] => (s.copyAll e.bulk cs, none)
  | f :: _ => (if barred || fs.any (·.1 = 11) then s else s.copyPart e.bulk cs, some f)

/-- The runs of a template (R314). -/
def templateRuns (t : Template) (src dst : Place) : List Run :=
  (upto (t.n2m + 1)).flatMap fun (i2 : Nat) => (upto (t.n1m + 1)).map fun (i1 : Nat) =>
    ⟨src, i1 * t.ss1 + i2 * t.ss2, dst, i1 * t.ds1 + i2 * t.ds2, t.len0⟩

/-- The runs of a gather (R320). -/
def gatherRuns (rlen : Nat) (idx : List Nat) (src dst : Place) : List Run :=
  let n := 16 * (rlen + 1)
  ((upto idx.length).zip idx).map fun e => ⟨src, e.2 * n, dst, e.1 * n, n⟩

/-! ### Completion (R111, R315, R368) -/

/-- The path class of a request (R97). -/
def Eng.path (e : Eng) : Nat :=
  match e.kind with
  | .copy _ | .multi .. => 1
  | .gather _ _ => 3
  | .coll .. | .unread _ => 4

/-- The waves of a core that a full queue of its engines holds: a request of the core is about to end, and their memory-stall
time counts until now (R312, R346). -/
def State.countQueued (s : State) (core : Nat) : State :=
  if (s.engs.filter fun e => decide (e.core = core)).length < 32 then s
  else
    (s.allWaves.filter fun w => decide (w.coreNo = core) && w.ready && decide (0xE0 ≤ s.peekOp w) &&
      decide (s.peekOp w ≤ 0xE3)).foldl (fun (s : State) w => s.countStall w.hdl) s

/-- The end of a request: the add, or the break with its record held on the counter. Where the counter cannot be reached that
is reported at once, after the failure of the payload, which no counter can hold (R315; log entry 21). -/
def State.finishEng (s : State) (e : Eng) (fail : Option (Nat × DWord × Nat)) : State :=
  let s := s.countQueued e.core
  let s := { s with engs := s.engs.filter (·.uid ≠ e.uid) }
  let record : Nat → Nat × DWord × Nat → EngRecord := fun key f =>
    ⟨key, e.ctr, e.proc, e.die, e.pc, e.wave, f.2.1, e.path, f.1, f.2.2⟩
  match s.ctrTarget e.die e.proc e.priv e.team e.ctr with
  | (s, .error c) =>
    (fail.toList ++ [(c, e.ctr, 0xFF)]).foldl (fun (s : State) f => s.sendEngineFault (record 0 f) 0#32 0#64) s
  | (s, .ok key) =>
    match fail with
    | none => s.ctrAdd key e.delta
    | some f => ({ s with engRecords := s.engRecords ++ [record key f] }).ctrBreak key .faulted

/-- The wave of a request, or what its records need of a wave that has gone. -/
def State.engWave (s : State) (e : Eng) : Wave :=
  (s.findWave e.wave).getD { Wave.blank with hdl := e.wave, proc := e.proc, die := e.die }

def State.updEng (s : State) (uid : Nat) (f : Eng → Eng) : State :=
  { s with engs := s.engs.map fun e => if e.uid = uid then f e else e }

/-- The team at an index of a grid that is placed and has not ended (R318). -/
def State.teamAt (s : State) (grid : Nat) (x y z : Int) : Option Nat :=
  (s.teams.find? fun t => decide (t.grid = grid) && !t.side1 && decide ((t.ix : Int) = x) && decide ((t.iy : Int) = y) &&
    decide ((t.iz : Int) = z)).map (·.uid)

/-- The live members of a group with their numbers. -/
def liveMembers (g : List Member) : List (Nat × Member) := ((upto g.length).zip g).filter fun e => e.2.en

/-- The participants of a collective that this package's dies have started (R321). -/
def State.joined (s : State) (cid : DWord) (ckey : Word) : List Eng :=
  s.engs.filter fun e =>
    match e.kind with
    | .coll _ _ _ _ c _ k _ => decide (c = cid) && decide (k = ckey) && e.started
    | _ => false

/-- Members of a collective on a package. -/
def membersOf (members : BitVec 256) (pkg : Nat) : List Nat := [0, 1].filter fun d => members.getLsbD (2 * pkg + d)

/-- Every participant of a collective is a die of this package. -/
def localOnly (members : BitVec 256) (pkg : Nat) : Bool :=
  (upto 256).all fun i => !members.getLsbD i || i / 2 == pkg

/-- Two requests give the same descriptor of a collective (R321). -/
def Eng.agrees (a b : Eng) : Bool :=
  match a.kind, b.kind with
  | .coll k o t c _ m _ _, .coll k' o' t' c' _ m' _ _ => decide (k = k' ∧ o = o' ∧ t = t' ∧ c = c' ∧ m = m')
  | _, _ => false

/-- Bytes of an element type of a collective (R321). -/
def collBytes (ety : Nat) : Nat := if ety = 9 ∨ ety = 10 then 2 else 4

/-- A participant's contribution sets out for every other one that is reached over Ethernet; the manual does not say by what
steps a collective exchanges its data (R321, R413, R414; log entry 46). -/
def State.scatter (s : State) (e : Eng) : State :=
  match e.kind with
  | .coll _ _ ety count _ members _ _ =>
    ((upto 256).filter fun i => members.getLsbD i && i / 2 != s.pkg && !s.inDomain e.die (i / 2)).foldl
      (fun (s : State) i => s.sendPieces e.die (i / 2) (i % 2) 1 (count * collBytes ety) e.uid) s
  | _ => s

/-- The events that follow the start of a request. A collective ends when every participant of it, all of this package, has
started, or when one of them differs (R321). -/
def State.afterStart (s : State) (e : Eng) : State :=
  if e.broken then s.owe (.engineCompletion e.uid)
  else
    match e.kind with
    | .copy _ | .gather _ _ | .unread _ => s.owe (.engineCompletion e.uid)
    | .multi _ g .. =>
      (liveMembers g).foldl (fun (s : State) m => s.owe (.multicastMemberDelivery e.uid m.1)) s
    | .coll _ _ _ _ cid members ckey _ =>
      let l := s.joined cid ckey
      if !l.all e.agrees || (localOnly members s.pkg && l.length == (membersOf members s.pkg).length) then
        s.owe (.engineCompletion e.uid)
      else s

/-- The check that fails in an engine's work for a request, and whether its replay fails as well: the residue of the first
address, corrupted by the injection that the instruction met, or, after an error of the datapath, the parity of the data or
the residue of the addresses (R226, R368, R371 unit 11). The injection or error is spent. -/
def State.engStrike (s : State) (e : Eng) : State × Option (Check × Bool) :=
  let r := s.resinjOf e.die
  if e.strike.isSome && rjArm r then
    ({ s.setResinj e.die (r &&& ~~~1#64) with
        engs := s.engs.map fun x => if x.die = e.die then { x with strike := none } else x },
      some (.residue, decide (rjCount r = 2)))
  else
    match s.upset with
    | some u =>
      if u.wave = e.wave ∧ u.unit = 11 then ({ s with upset := none }, some (if u.other then .residue else .parity, u.twice))
      else (s, none)
    | none => (s, none)

/-- An engine starts: its checks, and the members of a multicast (R226, R318, R368). -/
def State.startEng (s : State) (e : Eng) : State :=
  let (s, strike) := s.engStrike e
  let hit := strike.isSome
  let twice := (strike.map (·.2)).getD false
  let rec1 : CheckRec :=
    ⟨(strike.map (·.1)).getD .residue, e.pc, 0#64, e.op, 0xFF, 11, 0, false, e.path, 0#32⟩
  let s := if twice then s.reportCheck (s.engWave e) rec1 else if hit then s.corrected (s.engWave e) rec1 else s
  let targets := match e.kind with
    | .multi _ g _ grid x y z =>
      (liveMembers g).map fun m => (m.1, s.teamAt grid (x + m.2.dx) (y + m.2.dy) (z + m.2.dz))
    | _ => []
  let e := { e with started := true, broken := twice, targets := targets, strike := none }
  let s := s.updEng e.uid fun _ => e
  (if twice then s else s.scatter e).afterStart e

def execEngineStart (id : Nat) (s : State) : Host.Outcome State Fault Refusal :=
  .next
    (match s.engs.find? (·.uid = id) with
     | some e => if e.started then s else s.startEng e
     | none => s)

/-! ### Multicast (R318) -/

/-- A member ends; after the last one the request completes. -/
def State.memberDone (s : State) (e : Eng) (m : Nat) (fail : Option DWord) : State :=
  let e := match fail with
    | none => { e with done := e.done ++ [m] }
    | some a => { e with failed := e.failed ++ [(m, a)] }
  let s := s.updEng e.uid fun _ => e
  if e.done.length + e.failed.length = e.targets.length then s.owe (.engineCompletion e.uid) else s

/-- The source delivered to one receiver, and its counter added to on success. -/
def State.deliverMember (s : State) (e : Eng) (t : Template) (src : DWord) (m : Member) (i : Nat)
    (team : Option Nat) : State :=
  match team.bind s.team, placeOf e.team src with
  | some r, some p =>
    if m.ctr % 8 ≠ 0 ∨ r.units * 16384 < m.ctr + 8 then
      s.memberDone e i (some (BitVec.ofNat 64 (0x80 * 2 ^ 56 + m.ctr)))
    else
      match s.copyRuns e (templateRuns t p (.pad r.uid m.dst)) with
      | (s, none) => (s.ctrAdd (spKey r.uid m.ctr) e.delta).memberDone e i none
      | (s, some f) => s.memberDone e i (some f.2)
  | _, _ => s.memberDone e i (some 0#64)

def execMulticastMemberDelivery (id member : Nat) (s : State) : Host.Outcome State Fault Refusal :=
  .next
    (match s.engs.find? (·.uid = id) with
     | none => s
     | some e =>
       match e.kind, e.targets.find? (·.1 = member) with
       | .multi t g .., some (_, team) =>
         if e.broken || e.done.contains member || e.failed.any (·.1 = member) then s
         else
           match g[member]? with
           | some m => s.deliverMember e t e.src m member team
           | none => s
       | _, _ => s)

/-- The failed member of the lowest number. -/
def lowestFailed (l : List (Nat × DWord)) : Option (Nat × DWord) := leastBy (fun a b => decide (a.1 < b.1)) l

/-! ### Collectives (R321) -/

/-- The float or integer type of an element type of a collective. -/
def collType (ety : Nat) : EType :=
  match ety with
  | 0 => .i32 | 1 => .n32 | 8 => .f32 | 9 => .f16 | _ => .bf16

/-- One step of a fold. -/
def collStep (op ety x y : Nat) : Nat :=
  let t := collType ety
  if t.isFloat then
    let a := t.fmt.decode x
    let b := t.fmt.decode y
    t.fmt.round Rnd.rne (if op = 0 then FVal.add false a b else if op = 1 then FVal.minNum a b else FVal.maxNum a b)
  else if op = 0 then t.wrap (t.toInt x + t.toInt y)
  else if op = 1 then (if t.toInt x ≤ t.toInt y then x else y)
  else if t.toInt x ≤ t.toInt y then y else x

/-- Element `i` folded over the contributions in ascending rank. -/
def collFold (op ety : Nat) (parts : List (List Byte)) (i : Nat) : List Byte :=
  let n := collBytes ety
  match parts.map fun l => natAt l (n * i) n with
  | [] => List.replicate n 0#8
  | v :: t => bytesOfNat n (t.foldl (collStep op ety) v)

/-- What the participant of a rank receives. -/
def collResult (kind op ety count rank : Nat) (parts : List (List Byte)) : List Byte :=
  let share := count / parts.length
  match kind with
  | 0 => (upto count).flatMap (collFold op ety parts)
  | 1 => (upto share).flatMap fun i => collFold op ety parts (rank * share + i)
  | _ => parts.flatten

/-- The ranks of the members, as die numbers 2 × pkg + die in ascending order. -/
def collRanks (members : BitVec 256) : List Nat := (upto 256).filter fun i => members.getLsbD i

/-- The pieces of one place that an access may take, and the failures. -/
def State.planPlace (s : State) (e : Eng) (p : Place) (k : Kind) : Nat → Int → Nat → State × List Reached × List Failure
  | 0, _, _ => (s, [], [])
  | f + 1, o, n =>
    if n = 0 then (s, [], [])
    else
      match s.engReach e p o n k with
      | (s, .error (c, m)) =>
        let (s, l, fs) := s.planPlace e p k f (o + m) (n - m)
        (s, l, (c, p.address o) :: fs)
      | (s, .ok a) =>
        let bad := if k.writes then [] else s.poisonRead p o a.key a.left
        let (s, l, fs) := s.planPlace e p k f (o + a.left) (n - a.left)
        (s, a :: l, bad ++ fs)

/-- The fuel that passes every page end of a length. -/
def pageFuel (n : Nat) : Nat := 2 * (n / 65536) + 8

/-- The contribution of a participant of this package, or its failure. -/
def State.contribution (s : State) (e : Eng) (n : Nat) : State × Except Failure (List Byte) :=
  match placeOf e.team e.src with
  | none => (s, .error (1, e.src))
  | some p =>
    match s.planPlace e p .load (pageFuel n) 0 n with
    | (s, _, f :: _) => (s, .error f)
    | (s, l, []) => (s, .ok (l.flatMap fun a =>
        if isDevKey a.key then s.devRead a.key a.left else s.readBytes (a.type = 2) a.key a.left))

/-- Bytes of a destination written in one piece. -/
def State.deliverPiece (s : State) (a : Reached) (bs : List Byte) : State :=
  if a.type = 1 then
    let l := (bs.zip (upto bs.length)).map fun b => (⟨a.key + b.2, b.1, none⟩ : CellByte)
    (firsts (l.map fun b => b.key / 8)).foldl (fun (s : State) q => s.initFrom l q) s
  else if isDevKey a.key then s.devWrite a.key bs
  else s.writeBytes a.key bs

/-- Bytes written to a destination page by page: a failure leaves any subset of them (R315). -/
def State.deliverBytes (s : State) (e : Eng) (bs : List Byte) : State × Option Failure :=
  match placeOf e.team e.dst with
  | none => (s, some (1, e.dst))
  | some p =>
    let (s, l, fs) := s.planPlace e p .store (pageFuel bs.length) 0 bs.length
    if fs.any (·.1 = 11) then (s, fs.head?) else
    let put : State × List Byte → Reached → State × List Byte := fun r a =>
      let here := r.2.take a.left
      let n := r.1.fresh
      let s :=
        if fs = [] then r.1.deliverPiece a here
        else
          let s := (here.zip (upto here.length)).foldl
            (fun (s : State) b =>
              if Config.freeBit (n + b.2) then s.deliverPiece { a with key := a.key + b.2 } [b.1] else s) r.1
          { s with fresh := n + here.length }
      (s, r.2.drop a.left)
    ((l.foldl put (s, bs)).1, fs.head?)

/-- Two byte ranges of one address space share a byte. -/
def rangesMeet (a : DWord) (n : Nat) (b : DWord) (m : Nat) : Bool :=
  decide (a.toNat < b.toNat + m) && decide (b.toNat < a.toNat + n)

/-- Free bytes (log entry 6). -/
def State.freeBytes (s : State) (n : Nat) : State × List Byte :=
  ({ s with fresh := s.fresh + n }, (upto n).map fun i => Config.freeByte (s.fresh + i))

/-- The ends of every participant of this package: one failure breaks all (R321). -/
def State.breakAll (s : State) (parts : List Eng) (f : Failure) : State :=
  parts.foldl (fun (s : State) e => s.finishEng e (some (f.1, f.2, 0xFF))) s

/-- The contributions of the participants of this package, with their die numbers. -/
def State.gatherParts (s : State) (n : Nat) : List Eng → State × Except Failure (List (Nat × List Byte))
  | [] => (s, .ok [])
  | e :: t =>
    match s.contribution e n with
    | (s, .error f) => (s, .error f)
    | (s, .ok bs) =>
      match s.gatherParts n t with
      | (s, .error f) => (s, .error f)
      | (s, .ok l) => (s, .ok ((2 * s.pkg + e.die, bs) :: l))

/-- A collective completes at the dies of this package. The participants elsewhere hand in their contributions, in
ascending rank, with the event; `ok` false says that one differs or cannot be reached, with `m` 0, or fails, with `m` one
more than the cause (R321). -/
def State.finishColl (s : State) (e : Eng) (kind op ety count : Nat) (cid : DWord) (members : BitVec 256)
    (ckey : Word) : State :=
  let mine := s.joined cid ckey
  if mine.any (·.broken) then s.breakAll mine (14, e.src)
  else if !s.inp.ok then s.breakAll mine (if s.inp.m = 0 then 13 else (s.inp.m - 1) % 16, 0#64)
  else if !mine.all e.agrees then s.breakAll mine (13, 0#64)
  else if mine.length ≠ (membersOf members s.pkg).length then s
  else
    let n := count * collBytes ety
    let far := (collRanks members).filter fun i => i / 2 ≠ s.pkg
    if s.inp.bytes.length < far.length * n then s
    else
      let given := ((upto far.length).zip far).map fun r => (r.2, bytesAt s.inp.bytes (r.1 * n) n)
      match s.gatherParts n mine with
      | (s, .error f) => s.breakAll mine f
      | (s, .ok own) =>
        let part : Nat → List Byte := fun i => (((own ++ given).find? (·.1 = i)).map (·.2)).getD []
        let parts := (collRanks members).map part
        let r := mine.foldl
          (fun (r : State × Option Failure) x =>
            let rank := match x.kind with
              | .coll _ _ _ _ _ _ _ k => k
              | _ => 0
            let bs := collResult kind op ety count rank parts
            let open_ := rangesMeet x.src n x.dst bs.length && !(kind == 0 && x.src == x.dst)
            let (s, bs) := if open_ then r.1.freeBytes bs.length else (r.1, bs)
            let (s, f) := s.deliverBytes x bs
            (s, r.2.orElse fun _ => f))
          (s, none)
        match r.2 with
        | some f => r.1.breakAll mine f
        | none => mine.foldl (fun (s : State) x => s.finishEng x none) r.1

/-! ### Completion events -/

/-- The outcome of a request whose payload has been performed or abandoned. -/
def State.completeEng (s : State) (e : Eng) : State :=
  match e.kind with
  | .copy t =>
    if e.broken then s.finishEng e (some (14, e.src, 0xFF))
    else
      match placeOf e.team e.src, placeOf e.team e.dst with
      | some a, some b =>
        let (s, f) := s.copyRuns e (templateRuns t a b)
        s.finishEng e (f.map fun f => (f.1, f.2, 0xFF))
      | _, _ => s
  | .gather rlen idx =>
    if e.broken then s.finishEng e (some (14, e.src, 0xFF))
    else
      match placeOf e.team e.src, placeOf e.team e.dst with
      | some a, some b =>
        let (s, f) := s.copyRuns e (gatherRuns rlen idx a b)
        s.finishEng e (f.map fun f => (f.1, f.2, 0xFF))
      | _, _ => s
  | .multi .. =>
    if e.broken then s.finishEng e (some (14, e.src, 0xFF))
    else if e.done.length + e.failed.length ≠ e.targets.length then s
    else s.finishEng e ((lowestFailed e.failed).map fun f => (12, f.2, f.1))
  | .coll kind op ety count cid members ckey _ => s.finishColl e kind op ety count cid members ckey
  | .unread a => s.finishEng e (some (10, a, 0xFF))

def execEngineCompletion (id : Nat) (s : State) : Host.Outcome State Fault Refusal :=
  .next
    (match s.engs.find? (·.uid = id) with
     | some e => if e.started then s.completeEng e else s
     | none => s)

/-! ### The engine instructions (R310, R312) -/

/-- The parameter block. -/
def Wave.param (w : Wave) (p : BitVec 8) (i : Nat) : DWord := w.getS (p.toNat + i)

/-- The records of a redundant pair's side for an instruction that reads some uniform registers (R376). -/
def State.pairRecs (s : State) (regs : List DWord) : List (List Byte) :=
  instrRecs s.wave.pc s.iword s.iext regs

/-- The counter and delta of a parameter block pass (R312). -/
def Wave.paramOk (w : Wave) (p : BitVec 8) : Bool := ctrAddrOk (w.param p 2) && !(w.param p 3).msb

/-- An engine instruction behind its checks: it does not issue while its core holds 32 requests; refused, it sets F and
starts nothing; accepted, its request is queued (R312). The first request that a pending injection names is the one that it
strikes (R226). -/
def State.request (s : State) (p : BitVec 8) (x : Slots) (regs : List DWord) (kind : State → State × Option EngKind) :
    State :=
  let w := s.wave
  if (s.engs.filter fun e => decide (e.core = w.coreNo)).length ≥ 32 then s
  else
    let s := s.waitSlots x
    s.once .once (s.pairRecs regs) fun s =>
      match kind s with
      | (s, none) => (s.setF true).next 8
      | (s, some k) =>
        let (uid, s) := s.newUid
        let strike := if s.engs.any fun e => decide (e.die = w.die) && e.strike.isSome then none
          else (s.strikes none).map fun _ => s.resinjOf w.die
        let e : Eng := ⟨uid, k, w.hdl, w.proc, w.priv, w.team, w.die, w.coreNo, w.pc, s.opcode, w.param p 0, w.param p 1,
          w.param p 2, w.param p 3, false, [], [], [], false, strike⟩
        let s : State := { s with engs := s.engs ++ [e] }
        (((s.setF false).setSlot x).owe (.engineStart uid)).next 8

def Wave.params (w : Wave) (p : BitVec 8) : List DWord := (upto 4).map (w.param p)

def execXcp (p tmpl : BitVec 8) (x : Slots) (s : State) : Host.Outcome State Fault Refusal :=
  let w := s.wave
  .next (s.request p x (w.params p) fun s =>
    (s, match s.templateOf tmpl.toNat with
     | some t =>
       if w.paramOk p && (placeOf w.team (w.param p 0)).isSome && (placeOf w.team (w.param p 1)).isSome then
         some (.copy t)
       else none
     | none => none))

def execXcpm (p tmpl grp : BitVec 8) (x : Slots) (s : State) : Host.Outcome State Fault Refusal :=
  let w := s.wave
  .next (s.request p x (w.params p) fun s =>
    (s, match s.templateOf tmpl.toNat, s.groupOf grp.toNat, s.myTeam with
     | some t, some g, some m =>
       if w.paramOk p && (placeOf w.team (w.param p 0)).isSome && w.param p 1 == 0#64 then
         some (.multi t g grp.toNat m.grid m.ix m.iy m.iz)
       else none
     | _, _, _ => none))

def execXgat (p v : BitVec 8) (rlen : BitVec 12) (x : Slots) (s : State) : Host.Outcome State Fault Refusal :=
  let w := s.wave
  .next (s.perform { budget := w.srcOk 1 v } fun s => s.request p x (w.params p) fun s =>
    (s, if w.paramOk p && bits (w.param p 0).toNat 56 8 == 0 && (placeOf w.team (w.param p 1)).isSome then
        some (.gather rlen.toNat ((lanesOf w.act).map fun l => (w.laneWord v l).toNat))
      else none))

/-- The descriptor of a collective from its 64 bytes, where every field is in range (R321). -/
def parseColl (l : List Byte) (pkg die : Nat) (ckey : Word) : Option EngKind :=
  let kind := natAt l 0 1
  let op := natAt l 1 1
  let ety := natAt l 2 1
  let count := natAt l 4 4
  let members := BitVec.ofNat 256 (natAt l 16 32)
  let me := 2 * pkg + die
  let rank := ((collRanks members).filter (· < me)).length
  if kind < 3 ∧ (if kind = 2 then op = 0 else op < 3) ∧ [0, 1, 8, 9, 10].contains ety ∧ natAt l 3 1 = 0 ∧
      natAt l 48 16 = 0 ∧ 1 ≤ count ∧ count ≤ 2 ^ 28 ∧ members.getLsbD me ∧
      (kind = 1 → count % (collRanks members).length = 0) then
    some (.coll kind op ety count (BitVec.ofNat 64 (natAt l 8 8)) members ckey rank)
  else none

/-- An XCOLL with the same identifier and key still runs on the die. -/
def State.collRuns (s : State) (die : Nat) (k : EngKind) : Bool :=
  match k with
  | .coll _ _ _ _ cid _ ckey _ => s.engs.any fun e =>
      (match e.kind with
       | .coll _ _ _ _ c _ q _ => decide (c = cid) && decide (q = ckey) && decide (e.die = die)
       | _ => false)
  | _ => false

/-- The collective engine reads the descriptor at issue: a sector of it in error fails the request (R65, R315). -/
def execXcoll (p d : BitVec 8) (x : Slots) (s : State) : Host.Outcome State Fault Refusal :=
  let w := s.wave
  .next (s.request p x (w.params p ++ [s.readU d]) fun s =>
    let ok := w.paramOk p && (placeOf w.team (w.param p 0)).isSome && (placeOf w.team (w.param p 1)).isSome
    match s.readImage w.die w.proc w.priv (s.readU d).toNat 64 with
    | (s, .ok l) =>
      match s.badImage w.die w.proc w.priv (s.readU d).toNat 64 with
      | some a => (s, if ok then some (.unread (BitVec.ofNat 64 a)) else none)
      | none =>
        match parseColl l s.pkg w.die ((s.myProc.map (·.ckey)).getD 0#32) with
        | some k => (s, if ok && !s.collRuns w.die k then some k else none)
        | none => (s, none)
    | (s, .error _) => (s, none))

/-! ### XTMPL (R319, R322) -/

/-- No running multicast of the grid names the group. -/
def State.quiesced (s : State) (grid idx : Nat) : Bool :=
  !s.engs.any fun e =>
    match e.kind with
    | .multi _ _ grp g .. => decide (grp = idx) && decide (g = grid)
    | _ => false

/-- The running grid's tables changed by an image read at die scope, or the refusal (R322). -/
def State.rewriteTable (s : State) (x : Slots) (c : BitVec 8) (n : Nat) (change : Grid → List Byte → Option Grid) :
    State :=
  let w := s.wave
  let va := s.readU c
  (s.waitSlots x).once .once (s.pairRecs [va]) fun s =>
    match s.readImage w.die w.proc w.priv va.toNat n with
    | (s, .error _) => (s.setF true).next 8
    | (s, .ok l) =>
      match s.myTeam.bind fun t => s.grid t.grid with
      | none => (s.setF true).next 8
      | some g =>
        match change g l with
        | none => (s.setF true).next 8
        | some g' => (((s.updGrid g.uid fun _ => g').setF false).setSlot x).next 8

def execXtmplTmpl (idx c : BitVec 8) (x : Slots) (s : State) : Host.Outcome State Fault Refusal :=
  .next (s.rewriteTable x c 32 fun g l =>
    (parseTemplate l).map fun t =>
      { g with templates := g.templates.filter (·.1 ≠ idx.toNat) ++ [(idx.toNat, t)] })

def execXtmplGrp (idx c : BitVec 8) (x : Slots) (s : State) : Host.Outcome State Fault Refusal :=
  .next (s.rewriteTable x c 256 fun g l =>
    if s.quiesced g.uid idx.toNat then
      (parseGroup l).map fun m => { g with groups := g.groups.filter (·.1 ≠ idx.toNat) ++ [(idx.toNat, m)] }
    else none)

end Sys2Proof.Machine
end

