-- ==== Sys2Proof/Machine/Object.lean ====
section
/-! DEFINITION. Kernel objects: handles, quotas, creation, waves, processes, grids, timers, names and deletion
(06 R151 to R157, R166, R169, R170, R175, R176; 12 R325 to R328, R335 to R337). -/

namespace Sys2Proof.Machine

/-! ### The order of a kernel-object instruction (R325) -/

/-- A kernel-object instruction behind its slots and, in a redundant pair, its comparison point: side 0 makes the
request for both (R105, R325, R376). -/
def State.object (s : State) (x : Slots) (regs : List DWord) (body : State → State) : State :=
  (s.waitSlots x).once .once (s.pairRecs regs) body

/-- The HKU's reply: the destination, F, and the slot (R325). -/
def State.answered (s : State) (x : Slots) (a : BitVec 8) (v : DWord) (refused : Bool) : State :=
  (((s.writeU a v).setF refused).setSlot x).next 8

/-- A reply that has no destination. -/
def State.finished (s : State) (x : Slots) : State := (s.setSlot x).next 8

/-- A release that the instruction makes before its request (R127, R326, R327). -/
def State.releasing (s : State) (sc : Scope) (body : State → State) : State :=
  s.releaseFirst sc body

/-- The handle in a uniform register: its low 32 bits. -/
def State.handleIn (s : State) (c : BitVec 8) : Handle := (s.readU c).setWidth 32

/-! ### Handles and quotas (R153) -/

/-- The process that owns the live object of a handle, or that a process handle may be named by (R153, R156). -/
def State.ownedBy (s : State) (h : Handle) (me : Handle) : Bool :=
  match hType h with
  | 1 => s.procs.any fun p => decide (p.hdl = h) && (decide (h = me) || decide (p.parent = me))
  | 2 => match s.findWave h with
    | some w => decide (w.proc = me)
    | none => false
  | 3 => s.ports.any fun p => decide (p.hdl = h) && decide (p.proc = me)
  | 4 => s.sets.any fun p => decide (p.hdl = h) && decide (p.proc = me)
  | 5 => s.timers.any fun p => decide (p.hdl = h) && decide (p.proc = me)
  | 6 => s.codes.any fun c => decide (c.hdl = h) && decide (c.proc = me) && !c.withdrawn
  | _ => false

/-- A handle of a type that the wave at issue may name. -/
def State.names1 (s : State) (type : Nat) (h : Handle) : Bool := decide (hType h = type) && s.ownedBy h s.wave.proc

/-- An operand handle of the right type and owner, else OBJ_BAD, precisely and with no effect (R153). -/
def State.named (s : State) (type : Nat) (h : Handle) (body : State → State) : State :=
  if s.names1 type h then body s else s.trap .objBad

/-- The objects of a type that a process owns. -/
def State.countOf (s : State) (proc : Handle) (type : Nat) : Nat :=
  match type with
  | 2 => (s.allWaves.filter fun w => decide (w.proc = proc)).length
  | 3 => (s.ports.filter fun p => decide (p.proc = proc)).length
  | 4 => (s.sets.filter fun p => decide (p.proc = proc)).length
  | 5 => (s.timers.filter fun p => decide (p.proc = proc)).length
  | 6 => (s.codes.filter fun p => decide (p.proc = proc)).length
  | _ => 0

/-- The quota of a process for a type; processes have none (R156). -/
def State.quotaOf (s : State) (proc : Handle) (type : Nat) : Nat :=
  if 2 ≤ type ∧ type ≤ 6 then ((s.proc proc).map fun p => p.quota.getD (type - 2) 0).getD 0 else 2 ^ 20

/-- The wave contexts in use on a die (R151). -/
def State.contexts (s : State) (die : Nat) : Nat := (s.allWaves.filter fun w => decide (hDie w.hdl = die)).length

/-- `n` objects of a type, which take `bytes` of the die's pool, may be created (R153). -/
def State.mayCreate (s : State) (proc : Handle) (type die n bytes : Nat) : Bool :=
  decide (s.countOf proc type + n ≤ s.quotaOf proc type) &&
    (type != 2 || decide (s.contexts die + n ≤ 131072)) && decide (n ≤ s.freeObjects die) &&
    decide (s.poolUsed die + bytes ≤ poolSize)

/-- A creation, else OBJ_QUOTA (R153): the new object's handle. -/
def State.creating (s : State) (proc : Handle) (type bytes : Nat) (body : State → Handle → State) : State :=
  match s.newHandle type s.wave.die with
  | some h => if s.mayCreate proc type s.wave.die 1 bytes then body s h else s.trap .objQuota
  | none => s.trap .objQuota

/-! ### Code versions that a launch or a wave binds to (R170, R208, R210) -/

/-- A PC lies in a version's range. -/
def CodeVer.covers (c : CodeVer) (pc : Nat) : Bool :=
  decide (c.base.toNat ≤ pc) && decide (pc < c.base.toNat + 65536 * c.frames.length)

/-- A version that a memory image names: live, of the process, not withdrawn (R325). -/
def State.versionNamed (s : State) (proc h : Handle) : Option CodeVer :=
  s.codes.find? fun c => decide (c.hdl = h) && decide (c.proc = proc) && !c.withdrawn

/-- Every write lease on an open version's frames has expired by this time, and their lines have drained (R31, R210). -/
def State.sealTime (s : State) (c : CodeVer) : Nat :=
  s.horizon c.proc (c.base.toNat / 65536) c.frames.length + 2

/-- The clock from which what binds to a version may run, 0 where it may at once. A launch that comes while the first one
still waits waits as well (R210). -/
def State.boundFrom (s : State) (die : Nat) (c : CodeVer) : Nat :=
  let t := if c.sealed then c.ready else s.sealTime c
  if t ≤ s.nowOf die then 0 else t

/-- A version sealed by the first launch that binds to it: its new frames are code frames (R210). -/
def State.sealCode (s : State) (c : CodeVer) : State :=
  s.updCode c.hdl fun d =>
    if d.sealed then d else { d with sealed := true, ready := s.sealTime c, drained := false, own := [] }

/-- What binds to a sealed version whose write leases have ended finds its lines drained: the first drains them (R31, R210). -/
def State.drainCode (s : State) (die : Nat) (h : Handle) : State :=
  match s.code h with
  | none => s
  | some c =>
    if c.sealed && !c.drained && decide (c.ready ≤ s.nowOf die) then
      s.drainAll.updCode h fun d => { d with drained := true }
    else s

/-! ### Waves and processes (R326) -/

/-- The lowest-numbered cluster of a die that is not retired in place of one that is (R326, R428). -/
def State.clusterRetired (s : State) (die c : Nat) : Bool :=
  (Sparse.get 0#64 s.mwin (mwKey die (0x200 + 8 * c))).getLsbD 24

def State.liveCluster (s : State) (die c : Nat) : Nat :=
  if s.clusterRetired die c then ((upto 6).find? fun i => !s.clusterRetired die i).getD c else c

/-- The process part of a descriptor (R326). -/
structure ProcPart where
  ptroot : DWord
  dlease : Nat
  fport : Handle
  ocbase : DWord
  flist : DWord
  quota : List Nat
  ckey : Word
deriving DecidableEq, Repr

/-- The process part of 64 bytes, where its fields are in range (R156, R326). -/
def parseProc (l : List Byte) : Option ProcPart :=
  let quota := (upto 5).map fun i => natAt l (32 + 4 * i) 4
  let dl := natAt l 8 1
  if 1 ≤ dl ∧ dl ≤ 9 ∧ natAt l 9 3 = 0 ∧ natAt l 16 8 % 2 ^ 24 = 0 ∧ quota.all (· < 2 ^ 20) ∧ natAt l 56 8 = 0 then
    some ⟨BitVec.ofNat 64 (natAt l 0 8), dl, BitVec.ofNat 32 (natAt l 12 4), BitVec.ofNat 64 (natAt l 16 8),
      BitVec.ofNat 64 (natAt l 24 8), quota, BitVec.ofNat 32 (natAt l 52 4)⟩
  else none

/-- The fault port of a process part is 0 or a port of the creating process (R325, R326). -/
def State.faultPortOk (s : State) (p : ProcPart) (creator : Handle) : Bool :=
  p.fport == 0#32 || (decide (hType p.fport = 3) && s.ownedBy p.fport creator)

/-- The frames of a free-frame list that holds what is handed in: the manual gives the list no layout (log entry 13). -/
def givenFrames (flist : DWord) (l : List Nat) : List Nat :=
  if flist = 0#64 then [] else l.filter fun f => isDram f && decide (f % 65536 = 0)

/-- The attributes of a process written (R156); a list that was not its own before holds the frames handed in. -/
def Proc.withPart (p : Proc) (q : ProcPart) (l : List Nat) : Proc :=
  { p with ptroot := q.ptroot, dlease := q.dlease, fport := q.fport, ocbase := q.ocbase, flist := q.flist,
           quota := q.quota, ckey := q.ckey,
           frames := if q.flist = p.flist then p.frames else givenFrames q.flist l }

/-- The wave part of a descriptor (R326). -/
structure WavePart where
  pc : DWord
  code : Handle
  prio : Nat
  vblk : Nat
  tiles : Nat
  priv : Bool
  cluster : Nat
  xctr : DWord
  s : List DWord
deriving DecidableEq, Repr

/-- The wave part of 128 bytes, where its fields are in range (R326). -/
def parseWave (l : List Byte) : Option WavePart :=
  let prio := natAt l 12 1
  let vblk := natAt l 13 1
  let tiles := natAt l 14 1
  let fl := natAt l 15 1
  let cl := natAt l 16 1
  if prio ≤ 7 ∧ 1 ≤ vblk ∧ vblk ≤ 30 ∧ tiles ≤ 8 ∧ fl < 2 ∧ (cl ≤ 5 ∨ cl = 0xFF) ∧ natAt l 17 7 = 0 ∧
      natAt l 96 32 = 0 then
    some ⟨BitVec.ofNat 64 (natAt l 0 8), BitVec.ofNat 32 (natAt l 8 4), prio, vblk, tiles, fl = 1, cl,
      BitVec.ofNat 64 (natAt l 24 8), (upto 8).map fun i => BitVec.ofNat 64 (natAt l (32 + 8 * i) 8)⟩
  else none

/-- The registers of a new wave: s0 upward from a list, thread ids from its index (R132, R326, R328). -/
def Wave.initial (w : Wave) (regs : List DWord) : Wave :=
  let w := ((upto regs.length).zip regs).foldl (fun (w : Wave) e => w.setS e.1 e.2) w
  { w with tid := (upto 32).foldl (fun t l => Sparse.put 0#32 t l (BitVec.ofNat 32 (32 * w.widx + l))) [] }

/-- A wave that the HKU creates on a die, with a place for its context image: a team of one, with neither scratchpad nor tag
entries, queued in its cluster's run queue (R172, R326). A version that is still open is sealed, and the wave becomes
runnable when the leases on it have expired (R210). -/
def State.createWave (s : State) (h proc : Handle) (die cluster ctx : Nat) (c : Option CodeVer) (p : WavePart) : State :=
  let (uid, s) := s.newUid
  let from_ : Nat := (c.map (s.boundFrom die)).getD 0
  let wait := decide (from_ ≠ 0)
  let w : Wave :=
    { Wave.blank with
      hdl := h, proc := proc, team := uid, priv := p.priv, vblk := p.vblk, ntiles := p.tiles,
      basePri := p.prio, curPri := p.prio, codever := (c.map (·.hdl)).getD 0#32, xctr := p.xctr, pc := p.pc,
      die := die, cluster := cluster, st := .created, since := max from_ (s.nowOf die), ctx := ctx }
  let w := w.initial p.s
  let t : Team :=
    ⟨uid, 0, proc, 0, 0, 0, 1, h, die, 8 * cluster, 0, 0, 0, 0, [], false, 0, 0, 0, false, 0⟩
  let s := s.cleanse ctx (imageSize p.vblk p.tiles)
  let s : State := { s with waves := s.waves ++ [w], teams := s.teams ++ [t] }
  let s := match c with
    | some v => (s.sealCode v).drainCode die v.hdl
    | none => s
  if wait then s else s.makeRunnable h

/-- The checks of R326 that follow the fields of a wave part: reasons 5, 3 and 4, or the version to bind to. -/
def State.waveVersion (s : State) (p : WavePart) : Except Nat (Option CodeVer) :=
  let w := s.wave
  let v := if p.code = 0#32 then s.code w.codever else s.versionNamed w.proc p.code
  if p.code ≠ 0#32 ∧ v.isNone then .error 5
  else if p.priv && !w.priv then .error 3
  else
    match v with
    | some c => if c.covers p.pc.toNat then .ok (some c) else .error 4
    | none => .error 4

/-- A new wave of the wave at issue's die: its handle to the destination (R326). -/
def State.bearWave (s : State) (x : Slots) (a : BitVec 8) (proc : Handle) (p : WavePart) (c : Option CodeVer) : State :=
  s.creating proc 2 (imageSize p.vblk p.tiles) fun s h =>
    let die := s.wave.die
    let cl := s.liveCluster die (if p.cluster = 0xFF then s.wave.cluster else p.cluster)
    match s.imagesFor die [imageSize p.vblk p.tiles] with
    | some (ctx :: _) => (s.createWave h proc die cl ctx c p).answered x a (h.setWidth 64) false
    | _ => s.trap .objQuota

def execCrwave (a b : BitVec 8) (x : Slots) (s : State) : Host.Outcome State Fault Refusal :=
  let va := s.readU b
  .next (s.object x [va] fun s =>
    s.releasing .pkg fun s =>
      let w := s.wave
      match s.readImage w.die w.proc w.priv va.toNat 128 with
      | (s, .error _) => s.answered x a 2#64 true
      | (s, .ok l) =>
        match parseWave l with
        | none => s.answered x a 1#64 true
        | some p =>
          match s.waveVersion p with
          | .error r => s.answered x a (BitVec.ofNat 64 r) true
          | .ok c => s.bearWave x a w.proc p c)

/-- A process with its first wave: the creating process is its parent (R156, R326). The first wave is bound to a version
of the creator, whose frames it fetches. -/
def execCrwaveProc (a b : BitVec 8) (x : Slots) (s : State) : Host.Outcome State Fault Refusal :=
  let va := s.readU b
  .next (s.object x [va] fun s => s.perform { privileged := true } fun s =>
    s.releasing .pkg fun s =>
      let w := s.wave
      match s.readImage w.die w.proc w.priv va.toNat 192 with
      | (s, .error _) => s.answered x a 2#64 true
      | (s, .ok l) =>
        match parseWave l, parseProc (l.drop 128) with
        | some p, some q =>
          if !s.faultPortOk q w.proc then s.answered x a 1#64 true
          else
            match s.waveVersion p with
            | .error r => s.answered x a (BitVec.ofNat 64 r) true
            | .ok c =>
              match s.newHandle 1 w.die with
              | none => s.trap .objQuota
              | some ph =>
                let new : Proc :=
                  ({ hdl := ph, ptroot := 0#64, dlease := 5, fport := 0#32, ocbase := 0#64, flist := 0#64, quota := [],
                     parent := w.proc, ckey := 0#32, frames := [], ocFrames := [] } : Proc).withPart q s.inp.frames
                let t : State := { s with procs := s.procs ++ [new] }
                match t.newHandle 2 w.die with
                | some _ =>
                  if t.mayCreate ph 2 w.die 1 (imageSize p.vblk p.tiles) &&
                      (t.imagesFor w.die [imageSize p.vblk p.tiles]).isSome then t.bearWave x a ph p c
                  else s.trap .objQuota
                | none => s.trap .objQuota
        | _, _ => s.answered x a 1#64 true)

/-- The object counter area stands at the process's `ocbase`: its pages are mapped there (R157). What an older `ocbase` mapped
stays mapped: the manual does not take it away (log entry 45). -/
def State.mapCounters (s : State) (h : Handle) : State :=
  match s.proc h with
  | none => s
  | some p => p.ocFrames.foldl (fun (s : State) e => s.mapLeaf h (p.ocbase.toNat + 65536 * e.1) (ocLeaf e.2)) s

/-- The attributes of the wave's process, or of one that its process created, rewritten (R156, R157, R326). -/
def execCrwaveAttr (a b c : BitVec 8) (x : Slots) (s : State) : Host.Outcome State Fault Refusal :=
  let va := s.readU b
  let h := s.handleIn c
  .next (s.object x [va, s.readU c] fun s => s.perform { privileged := true } fun s =>
    s.named 1 h fun s =>
      s.releasing .pkg fun s =>
        let w := s.wave
        match s.readImage w.die w.proc w.priv va.toNat 64 with
        | (s, .error _) => s.answered x a 2#64 true
        | (s, .ok l) =>
          let creator := ((s.proc h).map (·.parent)).getD 0#32
          match parseProc l with
          | some q =>
            if s.faultPortOk q (if creator = 0#32 then h else creator) then
              ((s.updProc h fun p => p.withPart q s.inp.frames).mapCounters h).answered x a 0#64 false
            else s.answered x a 1#64 true
          | none => s.answered x a 1#64 true)

/-! ### Grids (R327, R339) -/

/-- A launch descriptor's fields (R327). -/
structure LaunchPart where
  kernel : DWord
  code : Handle
  gx : Nat
  gy : Nat
  gz : Nat
  curve : Nat
  priv : Bool
  doneCtr : DWord
  args : DWord
  cset : List DWord
deriving DecidableEq, Repr

/-- A launch descriptor of 256 bytes, where its fields are in range (R131, R327, R342). -/
def parseLaunch (l : List Byte) : Option LaunchPart :=
  let gx := natAt l 12 4
  let gy := natAt l 16 2
  let gz := natAt l 18 2
  let curve := natAt l 20 1
  let fl := natAt l 21 1
  if 1 ≤ gx ∧ gx < 2 ^ 31 ∧ 1 ≤ gy ∧ 1 ≤ gz ∧ gx * gy * gz ≤ 2 ^ 40 ∧ curve ≤ 2 ∧ fl < 2 ∧ natAt l 22 10 = 0 ∧
      natAt l 48 80 = 0 then
    some ⟨BitVec.ofNat 64 (natAt l 0 8), BitVec.ofNat 32 (natAt l 8 4), gx, gy, gz, curve, fl = 1,
      BitVec.ofNat 64 (natAt l 32 8), BitVec.ofNat 64 (natAt l 40 8),
      (upto 16).map fun i => BitVec.ofNat 64 (natAt l (128 + 8 * i) 8)⟩
  else none

/-- The vector blocks and tiles of wave `i` of a kernel's teams: producers first (R135, R205). -/
def waveBudget (k : KernelNote) (i : Nat) : Nat × Nat := if i < k.pw then (k.pv, k.pt) else (k.cv, k.ct)

/-- What each of a core's four partitions holds: waves of the team, slots, blocks and tiles. -/
structure PartLoad where
  mine : Nat
  slots : Nat
  blocks : Nat
  tiles : Nat
deriving DecidableEq, Repr

/-- A wave fits in a partition (R137). -/
def PartLoad.fits (p : PartLoad) (vblk tiles : Nat) : Bool :=
  decide (p.slots < 16) && decide (p.blocks + vblk ≤ 512) && decide (p.tiles + tiles ≤ 8)

def PartLoad.add (p : PartLoad) (vblk tiles : Nat) : PartLoad :=
  ⟨p.mine + 1, p.slots + 1, p.blocks + vblk, p.tiles + tiles⟩

/-- The partition of a wave: the one with the fewest waves of its team among those where it fits, the lower number on a
tie (R137). -/
def choosePart (load : List PartLoad) (vblk tiles : Nat) : Option Nat :=
  (leastBy (fun a b : Nat × PartLoad => decide (a.2.mine < b.2.mine) || (decide (a.2.mine = b.2.mine) && decide (a.1 < b.1)))
    (((upto load.length).zip load).filter fun e => e.2.fits vblk tiles)).map (·.1)

/-- The partitions of a team's waves, in ascending index, or nothing where one does not fit (R137). -/
def placeWaves : List (Nat × Nat) → List PartLoad → Option (List Nat)
  | [], _ => some []
  | (v, t) :: rest, load =>
    match choosePart load v t with
    | none => none
    | some i =>
      (placeWaves rest ((upto load.length).zip load |>.map fun e => if e.1 = i then e.2.add v t else e.2)).map (i :: ·)

/-- The budgets of a team's waves. -/
def teamBudgets (k : KernelNote) : List (Nat × Nat) := (upto k.waves).map (waveBudget k)

/-- An empty core's partitions. -/
def emptyCore : List PartLoad := List.replicate 4 ⟨0, 0, 0, 0⟩

/-- Units of a scratchpad declaration (R44). -/
def teamUnits (k : KernelNote) : Nat := (k.sp + 16383) / 16384

/-- Some core can hold a team of the kernel, when nothing else is on it (R43, R48, R137). -/
def holdable (k : KernelNote) : Bool :=
  (placeWaves (teamBudgets k) emptyCore).isSome && decide (teamUnits k ≤ 160) &&
    (k.tags == 0 || [64, 128, 256, 512, 1024, 2048, 4096].contains k.tags)

/-- The current version of the code of a version (R208). -/
def State.currentOf (s : State) (v : CodeVer) : CodeVer :=
  if v.current then v
  else (s.codes.find? fun c => c.current && !c.withdrawn && decide (c.proc = v.proc) && decide (c.base = v.base)).getD v

/-- The version that a launch binds to: the current one of the code that is named; else the current version of the code of the
launching wave, or of its process, that holds the kernel (R208, R327). -/
def State.launchVersion (s : State) (proc own : Handle) (p : LaunchPart) : Option CodeVer :=
  if p.code = 0#32 then
    let live := s.codes.filter fun c => c.current && !c.withdrawn
    let mine := match s.code own with
      | some v => live.filter fun c => decide (c.proc = v.proc) && decide (c.base = v.base)
      | none => []
    let all := mine ++ live.filter fun c => decide (c.proc = proc)
    match all.find? fun c => c.kernels.any (·.addr = p.kernel) with
    | some c => some c
    | none => all.head?
  else (s.versionNamed proc p.code).map s.currentOf

/-- A grid launched on a die from a descriptor, by a wave bound to the version `own`: 0, or the reason of R327 in its order. A
version that is still open is sealed, and no team is placed before the leases on it have expired (R210). -/
def State.launch (s : State) (die : Nat) (proc own : Handle) (priv : Bool) (desc : Nat) : State × Nat :=
  match s.readImage die proc priv desc 256 with
  | (s, .error _) => (s, 2)
  | (s, .ok l) =>
    match parseLaunch l with
    | none => (s, 1)
    | some p =>
      let v := s.launchVersion proc own p
      if p.code ≠ 0#32 ∧ v.isNone then (s, 6)
      else if p.priv && !priv then (s, 3)
      else
        match v with
        | none => (s, 4)
        | some c =>
          match c.kernels.find? (·.addr = p.kernel) with
          | none => (s, 4)
          | some k =>
            if !holdable k || decide (k.waves > s.quotaOf proc 2) then (s, 5)
            else
              let (uid, s) := s.newUid
              let g : Grid :=
                ⟨uid, proc, die, p.gx, p.gy, p.gz, p.curve, c.hdl, k, p.priv, p.args, p.doneCtr, p.cset, c.templates,
                  c.groups, s.boundFrom die c, s.nowOf die, 0, 0, 0, none, 0, 0, 0, 0, 0, false⟩
              ((({ s with grids := s.grids ++ [g] } : State).sealCode c).drainCode die c.hdl, 0)

def execCrgrid (a b : BitVec 8) (x : Slots) (s : State) : Host.Outcome State Fault Refusal :=
  let va := s.readU b
  .next (s.object x [va] fun s =>
    s.releasing .pkg fun s =>
      let w := s.wave
      match s.launch w.die w.proc w.codever w.priv va.toNat with
      | (s, r) => s.answered x a (BitVec.ofNat 64 r) (r ≠ 0))

/-! ### Timers (R169, R335) -/

def State.expiryKey (s : State) (t : Timer) : Nat := s.pairKey t.proc t.hdl

def execTmnew (a : BitVec 8) (x : Slots) (s : State) : Host.Outcome State Fault Refusal :=
  .next (s.object x [] fun s =>
    s.creating s.wave.proc 5 0 fun s h =>
      match s.newPair s.wave.proc h with
      | none => s.trap .objQuota
      | some t =>
        ({ t with timers := t.timers ++ [⟨h, t.wave.proc, false, 0#64, 0#64⟩] } : State).answered x a (h.setWidth 64) false)

/-- A period that TMARM takes (R335). -/
def periodOk (p : DWord) : Bool := p == 0#64 || (decide (1000 ≤ p.toNat) && decide (p.toNat ≤ 2 ^ 40))

def execTmarm (a b c : BitVec 8) (after : Bool) (x : Slots) (s : State) : Host.Outcome State Fault Refusal :=
  let h := s.handleIn a
  let per := s.readU c
  let dl := s.readU b + (if after then BitVec.ofNat 64 (s.nowOf (hDie h)) else 0#64)
  .next (s.object x [s.readU a, s.readU b, per] fun s =>
    s.named 5 h fun s =>
      if periodOk per then
        ((s.updTimer h fun t => { t with armed := true, deadline := dl, period := per }).setF false).finished x
      else (s.setF true).finished x)

def execTmstop (a : BitVec 8) (x : Slots) (s : State) : Host.Outcome State Fault Refusal :=
  let h := s.handleIn a
  .next (s.object x [s.readU a] fun s =>
    s.named 5 h fun s =>
      let was := s.timers.any fun t => decide (t.hdl = h) && t.armed
      ((s.updTimer h fun t => { t with armed := false }).setF (!was)).finished x)

/-- A timer's deadline has passed. -/
def State.timerDue (s : State) (t : Timer) : Bool := t.armed && decide (t.deadline.toNat ≤ s.nowOf (hDie t.hdl))

/-- One expiry: the add, and the next deadline from the previous one (R169). -/
def execTimerExpiry (tm : Handle) (s : State) : Host.Outcome State Fault Refusal :=
  .next
    (match s.timer tm with
     | none => s
     | some t =>
       if s.timerDue t then
         let s := s.updTimer tm fun t =>
           if t.period = 0#64 then { t with armed := false } else { t with deadline := t.deadline + t.period }
         s.ctrAdd (s.expiryKey t) 1#64
       else s)

/-! ### Names (R166, R336) -/

def execNmreg (a b : BitVec 8) (x : Slots) (s : State) : Host.Outcome State Fault Refusal :=
  let key := s.readU a
  let h := s.handleIn b
  .next (s.object x [key, s.readU b] fun s =>
    s.named 3 h fun s =>
      let die := s.wave.die
      let full := (s.names.filter fun e => decide (e.1 = die)).length ≥ 65536
      if full || s.names.any (fun e => decide (e.1 = die) && decide (e.2.1 = key)) then (s.setF true).finished x
      else (({ s with names := s.names ++ [(die, key, s.portName h)] } : State).setF false).finished x)

/-- NMREG.del: a key that is registered on the caller's die is removed. The manual does not say whether its port must be the
one named, or one of the caller's: any is removed (log entry 45). -/
def execNmregDel (a b : BitVec 8) (x : Slots) (s : State) : Host.Outcome State Fault Refusal :=
  let key := s.readU a
  let h := s.handleIn b
  .next (s.object x [key, s.readU b] fun s =>
    s.named 3 h fun s =>
      let die := s.wave.die
      let mine : Nat × DWord × DWord → Bool := fun e => decide (e.1 = die) && decide (e.2.1 = key)
      if s.names.any mine then
        (({ s with names := s.names.filter fun e => !mine e } : State).setF false).finished x
      else (s.setF true).finished x)

/-- The first port name that a search finds (R166): the caller's die, the other die, then, where the search leaves the
package, those of the domain in ascending number and those of scale-out, of which the manual gives no order: ascending too
(log entry 45). -/
def State.findName (s : State) (die : Nat) (key : DWord) (inpkg : Bool) : Option DWord :=
  let on : Nat → Option DWord := fun d =>
    (s.names.find? fun e => decide (e.1 = d) && decide (e.2.1 = key)).map (·.2.2)
  let far : Bool → Option DWord := fun dom =>
    (leastBy (fun a b : Nat × DWord × DWord => decide (a.1 < b.1))
      (s.farNames.filter fun e =>
        decide (e.2.1 = key) && s.inDomain die e.1 == dom && s.peerUp die e.1)).map (·.2.2)
  match on die with
  | some n => some n
  | none =>
    match on (1 - die) with
    | some n => some n
    | none =>
      if inpkg then none
      else
        match far true with
        | some n => some n
        | none => far false

def execNmfind (a b : BitVec 8) (inpkg : Bool) (x : Slots) (s : State) : Host.Outcome State Fault Refusal :=
  let key := s.readU b
  .next (s.object x [key] fun s =>
    match s.findName s.wave.die key inpkg with
    | some n => s.answered x a n false
    | none => s.answered x a 0#64 true)

/-! ### What completes without a wave (R105, R325) -/

/-- A slot of a wave completes. -/
def State.clearSlot (s : State) (h : Handle) (slot : BitVec 3) : State :=
  s.updWave h fun w => { w with slots := w.slots &&& ~~~(BitVec.ofNat 8 (2 ^ slot.toNat)) }

def execObjectRequestReply (h : Handle) (slot : BitVec 3) (s : State) : Host.Outcome State Fault Refusal :=
  .next (s.clearSlot h slot)

/-- An access of a wave completes. Where its slot alone held the wave's next instruction, the wave's memory-stall time ends
(R105, R346). -/
def execAccessCompletion (h : Handle) (slot : BitVec 3) (s : State) : Host.Outcome State Fault Refusal :=
  let stalled := (s.findWave h).any fun w =>
    w.ready && decide (s.slotsWaited w ≠ 0#8) && decide (s.slotsWaited w &&& ~~~(BitVec.ofNat 8 (2 ^ slot.toNat)) = 0#8)
  .next ((if stalled then s.countStall h else s).clearSlot h slot)

end Sys2Proof.Machine
end

