-- ==== Sys2Proof/Machine/Message.lean ====
section
/-! DEFINITION. Ports, messages and grants, wait sets, deletion, and the wake of a wave
(01 R32; 06 R158 to R168, R175 to R178; 12 R329 to R334, R337). -/

namespace Sys2Proof.Machine

/-! ### PNEW (R329, R406) -/

/-- The lowest free unit of a die's command window (R406). -/
def State.freeUnit (s : State) (die : Nat) : Option Nat :=
  let used := (s.ports.filter fun p => decide (hDie p.hdl = die)).map (·.cwUnit)
  ((upto 255).map (· + 1)).find? fun u => !used.contains u

/-- The memory key of a unit's ring, and of its directory entry (R151, R406). -/
def unitKey (die u : Nat) : Nat := reservedBase die + 0x10000000 + 0x40000 * u
def directoryKey (die u : Nat) : Nat := reservedBase die + 0x10000000 + 16 * u

/-- The directory entry of a port (R406). -/
def State.directory (s : State) (p : Port) : List Byte :=
  bytesOfNat 16 (s.arrivalKey p * 2 ^ 64 + p.dlog * 2 ^ 36 + 2 ^ 35 + (s.portName p.hdl).toNat % 2 ^ 35)

/-- A port created under a handle: its ring, its counter pair, its directory entry. Nothing where the pool has no room
(R153, R157, R158, R406). -/
def State.createPort (s : State) (h proc : Handle) (dlog opn : Nat) (gwin : DWord) (gslots : Nat) (role : PortRole) :
    Option State :=
  let die := hDie h
  match s.newPair proc h with
  | none => none
  | some s =>
    let place : Option (Nat × Nat) :=
      if opn = 3 then (s.freeUnit die).map fun u => (u, unitKey die u)
      else (s.poolTake die (64 * 2 ^ dlog)).map fun k => (0, k)
    match place with
    | none => none
    | some (u, ring) =>
      let p : Port := ⟨h, proc, dlog, opn, gwin, gslots, role, u, ring, 0, [], [], false, []⟩
      let s : State := { s with ports := s.ports ++ [p] }
      some (if u = 0 then s else s.putBytes (directoryKey die u) (s.directory p))

/-- The reason of R329 in its order, 0 for none. -/
def State.portReason (s : State) (attr gwin : DWord) : Nat :=
  let n := bits attr.toNat 0 4
  let gs := bits attr.toNat 6 9
  let w := s.wave
  if attr.toNat ≥ 2 ^ 15 ∨ n < 4 ∨ 12 < n ∨ 256 < gs ∨ (bits attr.toNat 4 2 = 3 ∧ (s.freeUnit w.die).isNone) then 1
  else if gs = 0 then 0
  else if gwin.toNat % 65536 ≠ 0 ∨ gwin.toNat < 65536 ∨ 2 ^ 55 < gwin.toNat + 65536 * gs ∨
      (upto gs).any fun j =>
        (match s.walk w.proc (gwin.toNat + 65536 * j) with
         | .ok _ => true
         | .error _ => false) then 2
  else if ((s.myProc.map (·.flist)).getD 0#64) = 0#64 then 5
  else 0

def execPnew (a b c : BitVec 8) (x : Slots) (s : State) : Host.Outcome State Fault Refusal :=
  let attr := s.readU b
  let gwin := s.readU c
  .next (s.object x [attr, gwin] fun s =>
    let r := s.portReason attr gwin
    if r ≠ 0 then s.answered x a (BitVec.ofNat 64 r) true
    else
      s.creating s.wave.proc 3 (if bits attr.toNat 4 2 = 3 then 0 else 64 * 2 ^ bits attr.toNat 0 4) fun s h =>
        let gs := bits attr.toNat 6 9
        match s.createPort h s.wave.proc (bits attr.toNat 0 4) (bits attr.toNat 4 2) (if gs = 0 then 0#64 else gwin) gs
            .plain with
        | none => s.trap .objQuota
        | some s => (s.onWave fun w => w.setS (a.toNat + 1) (s.portName h)).answered x a (h.setWidth 64) false)

/-! ### Admission (R32, R161, R162) -/

/-- Bound, tokens per µs and burst of a delivery class (R161). -/
def classBound : Nat → Nat
  | 0 => 2000 | 1 => 4000 | 2 => 12000 | _ => 60000
def classRate : Nat → Nat
  | 0 => 512 | 1 => 128 | 2 => 32 | _ => 8
def classBurst : Nat → Nat
  | 0 => 4096 | 1 => 1024 | 2 => 512 | _ => 256
def classScope : Nat → Scope
  | 0 => .die | 1 => .pkg | 2 => .dom | _ => .sys

/-- Thousandths of tokens that a die has spent of a class's bucket and that have not come back (R161): a bucket gains
one thousandth of `rate` tokens in each ns. -/
def State.spentNow (s : State) (die cls : Nat) : Nat :=
  let k := 4 * die + cls
  Sparse.get 0 s.spent k - (s.nowOf die - Sparse.get 0 s.spentAt k) * classRate cls

/-- Tokens of a send with `n` grants (R161). -/
def tokensOf (cls n : Nat) : Nat := 1 + (if cls ≥ 2 then 16 * n else 0)

def State.hasTokens (s : State) (die cls n : Nat) : Bool :=
  decide (s.spentNow die cls + 1000 * n ≤ 1000 * classBurst cls)

def State.spend (s : State) (die cls n : Nat) : State :=
  let k := 4 * die + cls
  let left := s.spentNow die cls + 1000 * n
  { s with spent := Sparse.put 0 s.spent k left, spentAt := Sparse.put 0 s.spentAt k (s.nowOf die) }

/-- Grant slots of a port that messages in flight will take. -/
def State.promised (s : State) (h : Handle) : Nat :=
  ((s.flights.filter fun f => decide (f.port = h) && decide (f.pkg = s.pkg)).map fun f =>
    (f.grants.filter fun g => !g.done).length).sum

/-- What a send finds at the home of the port that it names. -/
structure PortHome where
  up : Bool
  live : Bool
  admits : Bool
  full : Bool
  room : Nat
  cls : Nat
  pkg : Nat
deriving DecidableEq, Repr

/-- The home of a name, seen by the wave at issue (R159, R161, R162). A reserved bit is the home's matter too: with the path
down, reason 1 is skipped as a whole. -/
def State.homeOf (s : State) (name : DWord) : PortHome :=
  let w := s.wave
  let pkg := pkgOfName name
  if pkg = s.pkg then
    match s.portOfName name with
    | none => ⟨true, false, false, false, 0, 0, s.pkg⟩
    | some p =>
      ⟨true, true, decide (p.opn ≠ 0) || decide (p.proc = w.proc), p.broken || decide (p.load ≥ p.depth),
        p.gslots - p.slotsUsed.length - s.promised p.hdl, classFrom w.die p.hdl, s.pkg⟩
  else
    let cls := s.farClass w.die pkg
    match s.farPorts.find? (·.1 = name) with
    | none => ⟨s.peerUp w.die pkg, false, false, false, 0, cls, pkg⟩
    | some (_, opn, places, credits) =>
      ⟨s.peerUp w.die pkg, true, decide (2 ≤ opn), decide (places = 0), credits, cls, pkg⟩

/-- The addresses of a message's grants (R160). -/
def grantAddrs (m : List Byte) (n : Nat) : List DWord := (upto n).map fun i => BitVec.ofNat 64 (natAt m (56 - 8 * i) 8)

/-- The header of a wave's message passes (R162 reason 3). -/
def headerOk (m : List Byte) : Bool :=
  let b := natAt m 13 1
  decide (b / 32 = 0) && decide (natAt m 14 2 = 0) && decide (b % 8 ≤ 4) &&
    (grantAddrs m (min (b % 8) 4)).all fun a => decide (a.toNat % 65536 = 0)

/-- No element twice. -/
def distinct (l : List DWord) : Bool :=
  match l with
  | [] => true
  | a :: t => !t.contains a && distinct t

/-- The pages of a send may be granted: grant-pool pages with `w`, each with its horizon within R32; across packages the
process has a free-frame list (R156, R162 reason 6). -/
def State.grantsOk (s : State) (cls : Nat) (pages : List DWord) : Bool :=
  let w := s.wave
  distinct pages && (pages.isEmpty || decide (cls < 2) || decide (((s.myProc.map (·.flist)).getD 0#64) ≠ 0#64)) &&
    pages.all fun a =>
      match s.walk w.proc a.toNat with
      | .ok (_, _, p) =>
        decide (pteType p = 3) && pteW p && decide (pteTarget p = 0) &&
          decide (s.horizon w.proc (a.toNat / 65536) 1 + 1500 ≤ s.now + classBound cls)
      | .error _ => false

/-- The reason for which a send is refused, the first in order; 0 where it is admitted (R162). -/
def State.sendReason (s : State) (h : PortHome) (m : List Byte) : Nat :=
  let n := natAt m 13 1 % 8
  if h.up && !h.live then 1
  else if h.up && !h.admits then 2
  else if !headerOk m then 3
  else if h.up && h.full then 4
  else if !s.hasTokens s.wave.die h.cls (tokensOf h.cls n) then 5
  else if !s.grantsOk h.cls (grantAddrs m n) then 6
  else if h.up && decide (h.room < n) then 7
  else if !h.up then 8
  else 0

/-- A leaf made invalid: its page is mapped no more. -/
def State.unmap (s : State) (proc : Handle) (va : Nat) : State :=
  match s.walk proc va with
  | .ok (_, addr, p) => s.putLeaf proc va addr (p &&& ~~~1#64)
  | .error _ => s

/-- A grant-window slot of a process is free again (R164). -/
def State.freeGrantSlot (s : State) (proc : Handle) (va : Nat) : State :=
  { s with ports := s.ports.map fun p =>
      if p.proc = proc ∧ p.gwin ≠ 0#64 ∧ p.gwin.toNat ≤ va ∧ va < p.gwin.toNat + 65536 * p.gslots then
        { p with slotsUsed := p.slotsUsed.filter (· ≠ (va - p.gwin.toNat) / 65536) }
      else p }

/-- A granted page leaves the sender (R32, R164): its record for the message, and the sender's `v` cleared. -/
def State.grantOut (s : State) (va : DWord) : State × Grant :=
  let proc := s.wave.proc
  let p := match s.walk proc va.toNat with
    | .ok (_, _, p) => p
    | .error _ => 0#64
  (((s.unmap proc va.toNat).freeGrantSlot proc va.toNat),
    ⟨va, proc, p, s.horizon proc (va.toNat / 65536) 1, 0#64, false⟩)

def State.grantAll (s : State) : List DWord → State × List Grant
  | [] => (s, [])
  | a :: t =>
    let (s, g) := s.grantOut a
    let (s, gs) := s.grantAll t
    (s, g :: gs)

/-- An admitted message: its tokens, its place, its pages, and the message under way (R161 to R164). -/
def State.takeIn (s : State) (name : DWord) (h : PortHome) (m : List Byte) : State :=
  let w := s.wave
  let n := natAt m 13 1 % 8
  let s := s.spend w.die h.cls (tokensOf h.cls n)
  let (s, gs) := s.grantAll (grantAddrs m n)
  let (uid, s) := s.newUid
  let port := handleOfName name
  let m := setBytes (setBytes m 8 (bytesOfNat 4 w.hdl.toNat)) 13 [BitVec.ofNat 8 (h.cls * 8 + n)]
  let rproc : Handle := if h.pkg = s.pkg then ((s.port port).map (·.proc)).getD 0#32 else 0#32
  let f : Flight := ⟨uid, port, h.pkg, m, h.cls, s.now, w.hdl, w.die, w.proc, w.priv, rproc, gs⟩
  let s :=
    if h.pkg = s.pkg then ({ s with flights := s.flights ++ [f] } : State).updPort port fun p => { p with held := p.held + 1 }
    else s.sendFar name n f
  if gs = [] then s.owe (.messageLanding uid) else s

/-- The 64 bytes in eight uniform registers (R330). -/
def Wave.block64 (w : Wave) (c : BitVec 8) : List Byte :=
  (upto 8).flatMap fun i => bytesOfNat 8 (w.getS (c.toNat + i)).toNat

def execPsend (a b c : BitVec 8) (x : Slots) (s : State) : Host.Outcome State Fault Refusal :=
  let name := s.readU b
  let m := s.wave.block64 c
  .next (s.object x (name :: (upto 8).map fun i => s.wave.getS (c.toNat + i)) fun s =>
    let h := s.homeOf name
    let r := s.sendReason h m
    if r ≠ 0 then s.answered x a (BitVec.ofNat 64 r) true
    else s.releasing (classScope h.cls) fun s => (s.takeIn name h m).answered x a 0#64 false)

/-! ### Grants (R164, R175) -/

/-- A granted page goes back: within the package to the sender's address (R175, R176). Of one that came from another package
the sender has its own frame back already; where the frame here goes the manual does not say: to the receiver's free-frame
list, from which it was taken (log entry 45). -/
def State.returnGrant (s : State) (proc : Handle) (g : Grant) : State :=
  let s := if g.dst = 0#64 then s else (s.unmap proc g.dst.toNat).freeGrantSlot proc g.dst.toNat
  if g.sproc = 0#32 then s.updProc proc fun p => { p with frames := p.frames ++ [pteFrame g.pte] }
  else if (s.proc g.sproc).isSome then s.mapLeaf g.sproc g.va.toNat g.pte
  else s

/-- The leaf of a granted page: grant-pool, with the sender's `r` and `w` (R164). -/
def grantLeaf (frame : Nat) (r w : Bool) : DWord :=
  BitVec.ofNat 64 (frame + 3 * 2 ^ 6 + w.toNat * 2 ^ 3 + r.toNat * 2 ^ 2 + 3)

/-- A frame mapped into the lowest free slot of a port's grant window: the state, and the slot's address. -/
def State.mapGrant (s : State) (h : Handle) (frame : Nat) (r w : Bool) : State × DWord :=
  match s.port h with
  | none => (s, 0#64)
  | some p =>
    match (upto p.gslots).find? fun j => !p.slotsUsed.contains j with
    | none => (s, 0#64)
    | some j =>
      let va := p.gwin.toNat + 65536 * j
      let s := s.updPort h fun p => { p with slotsUsed := p.slotsUsed ++ [j] }
      (s.mapLeaf p.proc va (grantLeaf frame r w), BitVec.ofNat 64 va)

/-- A grant's leases have run out, with the 2 ns of the package's clocks (R31, R164). -/
def Grant.ready (g : Grant) (now : Nat) : Bool := !g.done && decide (g.horizon + 2 ≤ now)

def State.updFlight (s : State) (uid : Nat) (f : Flight → Flight) : State :=
  { s with flights := s.flights.map fun g => if g.uid = uid then f g else g }

/-- Each ready grant of a message dealt with in turn. -/
def State.dealGrants (s : State) (f : Flight) (deal : State → Grant → State × Grant) : List Grant → State × List Grant
  | [] => (s, [])
  | g :: t =>
    let (s, g) := if g.ready (s.nowOf f.senderDie) then deal s g else (s, g)
    let (s, gs) := s.dealGrants f deal t
    (s, g :: gs)

/-- Grants of a message moved or copied; a message whose last grant is done lands next. -/
def State.runGrants (s : State) (f : Flight) (deal : State → Grant → State × Grant) : State :=
  let (s, gs) := s.dealGrants f deal f.grants
  let s := s.updFlight f.uid fun f => { f with grants := gs }
  if gs.all (·.done) && f.grants.any (fun g => !g.done) then s.owe (.messageLanding f.uid) else s

/-- Within the package: the page is drained and mapped in the receiver's window (R164); where the port is gone there is
nothing to map. -/
def execGrantMapping (id : Nat) (s : State) : Host.Outcome State Fault Refusal :=
  .next
    (match s.flights.find? fun f => decide (f.uid = id) && decide (f.pkg = s.pkg) with
     | none => s
     | some f =>
       s.runGrants f fun s g =>
         let (s, va) := s.drainAll.mapGrant f.port (pteFrame g.pte) (pteR g.pte) (pteW g.pte)
         (s, { g with dst := va, done := true }))

/-- Across packages: the page has been read for its copy, which sets out in datagrams where it crosses Ethernet; the frame goes
to the sender's free-frame list, and its leaf stays clear (R164, R413). -/
def execGrantCopy (id : Nat) (s : State) : Host.Outcome State Fault Refusal :=
  .next
    (match s.flights.find? fun f => decide (f.uid = id) && decide (f.pkg ≠ s.pkg) with
     | none => s
     | some f =>
       s.runGrants f fun s g =>
         let s := if f.cls = 3 then s.sendPieces f.senderDie f.pkg (hDie f.port) 2 65536 f.uid else s
         (s.drainAll.updProc g.sproc fun p => { p with frames := p.frames ++ [pteFrame g.pte] }, { g with done := true }))

/-! ### Landing (R163, R165, R176, R363) -/

/-- A timing record: counted, logged, and sent to the fault ports of both processes, once where they are the same
(R165, R363, R427). -/
def State.timing (s : State) (die : Nat) (name : DWord) (f : Flight) (rcvr : Option Handle) (tland late : Nat) : State :=
  let body := bytesOfNat 8 name.toNat ++ bytesOfNat 4 f.sender.toNat ++ [BitVec.ofNat 8 f.cls] ++ List.replicate 3 0#8 ++
    bytesOfNat 8 f.sent ++ bytesOfNat 8 tland ++ bytesOfNat 8 late ++ List.replicate 8 0#8
  let s := (s.count die 0x128).logRecord die 4 body
  let s := s.sendFault f.sproc die 0#32 4 body []
  match rcvr with
  | some p => if p = f.sproc then s else s.sendFault p die 0#32 4 body []
  | none => s

/-- The grant entries of a message in the receiver's addresses (R160). -/
def rewriteGrants (m : List Byte) (gs : List Grant) : List Byte :=
  ((upto gs.length).zip gs).foldl (fun m e => setBytes m (56 - 8 * e.1) (bytesOfNat 8 e.2.dst.toNat)) m

/-- The next message of the same wave to the same port may land (R163). -/
def State.landNext (s : State) (f : Flight) : State :=
  match s.flights.find? fun g => decide (g.sender = f.sender) && decide (g.port = f.port) && decide (g.pkg = f.pkg) with
  | some g => if g.grants.all (·.done) then s.owe (.messageLanding g.uid) else s
  | none => s

/-- A message of the package lands, or is discarded where its port is gone. -/
def State.landLocal (s : State) (f : Flight) : State :=
  match s.port f.port with
  | none => f.grants.foldl (fun (s : State) g => s.returnGrant f.rproc g) s
  | some p =>
    let s := s.updPort f.port fun p => { p with held := p.held - 1 }
    let s := s.landSlots f.port [(rewriteGrants f.bytes f.grants, ⟨0, none, f.sender, f.cls, f.grants, f.sproc, f.spriv⟩)]
    let die := hDie f.port
    let t := s.nowOf die
    if f.sent + classBound f.cls < t then
      s.timing die (s.portName f.port) f (some p.proc) t (t - f.sent - classBound f.cls)
    else s

/-- The pages of a message from another package: each is copied into a credited frame and mapped (R164). -/
def State.copyIn (s : State) (h proc : Handle) (rw : Nat) (data : List Byte) : Nat → Nat → State × List Grant
  | 0, _ => (s, [])
  | n + 1, i =>
    match (s.port h).map (·.credited) with
    | some (f :: rest) =>
      let s := s.updPort h fun p => { p with credited := rest }
      let s := s.writeBytes f (bytesAt data (65536 * i) 65536)
      let r := rw.testBit (2 * i)
      let w := rw.testBit (2 * i + 1)
      let (s, va) := s.mapGrant h f r w
      let (s, gs) := s.copyIn h proc rw data n (i + 1)
      (s, ⟨0#64, 0#32, grantLeaf f r w, 0, va, true⟩ :: gs)
    | _ => (s, [])

/-- A message that another package sends (R34, R161, R164): `val` names the port, `bytes` holds the 64 bytes and then
the granted pages, `n` is the class, `m` the `r` and `w` of each page, and `pa` the clock at its PSEND. One that the port
cannot take was refused at its sender. -/
def State.landForeign (s : State) (inp : Input) : State :=
  let name : DWord := inp.val.setWidth 64
  let m := bytesAt inp.bytes 0 64
  let n := natAt m 13 1 % 8
  match s.portOfName name with
  | none => s
  | some p =>
    if p.opn < 2 ∨ p.broken ∨ p.load ≥ p.depth ∨ !headerOk m ∨ p.credited.length < n ∨
        p.gslots - p.slotsUsed.length - s.promised p.hdl < n ∨ (inp.n ≠ 2 ∧ inp.n ≠ 3) then s
    else
      let (s, gs) := s.copyIn p.hdl p.proc inp.m (inp.bytes.drop 64) n 0
      let m := setBytes m 13 [BitVec.ofNat 8 (inp.n * 8 + n)]
      let sender : Handle := BitVec.ofNat 32 (natAt m 8 4)
      let s := s.landSlots p.hdl [(rewriteGrants m gs, ⟨0, none, sender, inp.n, gs, 0#32, false⟩)]
      let die := hDie p.hdl
      let t := s.nowOf die
      if inp.pa + classBound inp.n < t then
        s.timing die name ⟨0, p.hdl, s.pkg, [], inp.n, inp.pa, sender, 0, 0#32, false, 0#32, []⟩ (some p.proc) t
          (t - inp.pa - classBound inp.n)
      else s

/-- A message lands (R163): one at a time, those of one wave to one port in the order of their sends, each when its
grants are done. Number 0 stands for one that another package sends. -/
def execMessageLanding (id : Nat) (s : State) : Host.Outcome State Fault Refusal :=
  .next
    (if id = 0 then s.landForeign s.inp
     else
       match s.flights.find? (·.uid = id) with
       | none => s
       | some f =>
         let earlier := s.flights.any fun g =>
           decide (g.uid < id) && decide (g.sender = f.sender) && decide (g.port = f.port) && decide (g.pkg = f.pkg)
         if earlier || f.grants.any (fun g => !g.done) then s
         else
           let s : State := { s with flights := s.flights.filter (·.uid ≠ id) }
           let s := if f.pkg = s.pkg then s.landLocal f else s
           s.landNext f)

/-! ### PRECV (R163, R331) -/

/-- A message put in eight registers, past the PRECV (R331). -/
def Wave.received (w : Wave) (a : BitVec 8) (bs : List Byte) : Wave :=
  let w := (upto 8).foldl (fun (w : Wave) i => w.setS (a.toNat + i) (BitVec.ofNat 64 (natAt bs (8 * i) 8))) w
  (w.setF false).advance 8

/-- Whoever waits longest for a message of a port is told of what is left there. -/
def State.tellNext (s : State) (port : Handle) : State :=
  match s.port port with
  | some p => if p.msgs = [] then s else s.announce p
  | none => s

/-- The wave that has waited longest takes the oldest message, and the next one is told of what is left (R163). The consumed
add releases for the receiver, at die scope (R123); a lost sector stops it, and the wave takes MC_ECC (R367). -/
def State.serve (s : State) (w : Wave) (port : Handle) (dst : BitVec 8) (acq : Bool) : State :=
  match (if w.st = .waiting then s.release w.coreNo .die else (s, [])) with
  | (s, d :: ds) => (s.lostFor w 0xEC (d :: ds)).tellNext port
  | (s, []) =>
    match s.takeMessage port with
    | none => s
    | some (s, bs, _) =>
      let s := s.acquire w.coreNo acq
      ((s.bothSides w.hdl (·.received dst bs)).wakeUp w.hdl).tellNext port

def OrdExt.acquires (x : OrdExt) : Bool := isAcq x.order && wide x.scope

/-- A message of a port is there for a PRECV that comes now: no wave waits for it (R163). -/
def State.present (s : State) (h : Handle) : Bool :=
  (s.receiver h).isNone && (s.port h).any fun p => !p.msgs.isEmpty

/-- PRECV: the oldest message where there is one and no wave waits for it, its consumed add a release at die scope; else the
`try` form fails and the other waits (R123, R331). -/
def receive (try_ : Bool) (a b : BitVec 8) (x : OrdExt) (s : State) : Host.Outcome State Fault Refusal :=
  let h := s.handleIn b
  .next (s.object x.slots [s.readU b] fun s =>
    s.named 3 h fun s =>
      if s.present h then
        s.releasing .die fun s =>
          match s.takeMessage h with
          | none => s
          | some (s, bs, _) =>
            let s := s.acquire s.wave.coreNo (OrdExt.acquires x)
            (s.setSlot x.slots).onWave (·.received a bs)
      else if try_ then (s.setF true).finished x.slots
      else s.wait (.message h a (OrdExt.acquires x) (s.nowOf (hDie h))))

def execPrecv (a b : BitVec 8) (x : OrdExt) (s : State) : Host.Outcome State Fault Refusal := receive false a b x s
def execPrecvTry (a b : BitVec 8) (x : OrdExt) (s : State) : Host.Outcome State Fault Refusal := receive true a b x s

/-! ### Wait sets (R167, R168, R332 to R334) -/

def execWsnew (a : BitVec 8) (x : Slots) (s : State) : Host.Outcome State Fault Refusal :=
  .next (s.object x [] fun s =>
    s.creating s.wave.proc 4 (8 * Config.spillBytes) fun s h =>
      ({ s with sets := s.sets ++ [⟨h, s.wave.proc, [], 0#32, [], []⟩] } : State).answered x a (h.setWidth 64) false)

/-- A member written, in ascending order of numbers; none makes it dead. -/
def putMember (l : List (Nat × SetMember)) (i : Nat) (m : Option SetMember) : List (Nat × SetMember) :=
  l.filter (fun e => decide (e.1 < i)) ++ (m.toList.map fun v => (i, v)) ++ l.filter fun e => decide (i < e.1)

def State.setMember (s : State) (h : Handle) (i : Nat) (m : Option SetMember) : State :=
  s.updSet h fun t => { t with members := putMember t.members i m }

/-- The cell of a counter address of WSSET, checked as a counter wait's is (R35, R311, R333): the member, or the trap or
fault that the instruction takes. -/
def State.waitCell (s : State) (va : DWord) : State × Option Nat :=
  let w := s.wave
  let tag := bits va.toNat 56 8
  if va.toNat % 8 ≠ 0 then (s.trapAt .align 0 0xFF va, none)
  else if refTag va = 9 then (s.trapAt .ctrSpace 0 0xFF va, none)
  else if tag = 0x80 then
    let off := bits va.toNat 0 56
    match s.myTeam with
    | some t =>
      if off + 8 ≤ t.units * 16384 then (s, some (spKey t.uid off))
      else (s.trapAt .pageNp Cause.spbound.code 0xFF va, none)
    | none => (s.trapAt .pageNp Cause.spbound.code 0xFF va, none)
  else
    match s.translate w.die w.proc w.priv (w.unfKind ≠ .no) .ctrRead va.toNat with
    | (s, .error c) => (s.takePageFault [⟨0, va, c⟩] 0#32 .uniform false false, none)
    | (s, .ok t) =>
      if pteType t.entry.pte ≠ 1 then (s.trapAt .ctrSpace 0 0xFF va, none)
      else
        match s.reach w.die w.proc .ctrRead (pteTarget t.entry.pte) (ptePkg t.entry.pte) t.pa with
        | .ok k => (s, some k)
        | .error c => (s.takePageFault [⟨0, va, c⟩] 0#32 .uniform false false, none)

def execWsset (a b c : BitVec 8) (member : BitVec 3) (x : Slots) (s : State) : Host.Outcome State Fault Refusal :=
  let h := s.handleIn a
  let va := s.readU b
  let thr := s.readU c
  .next (s.object x [s.readU a, va, thr] fun s =>
    s.named 4 h fun s =>
      if va = 0#64 then (s.setMember h member.toNat none).finished x
      else
        match s.waitCell va with
        | (s, none) => s
        | (s, some k) => (s.setMember h member.toNat (some ⟨k, thr, 0#32⟩)).finished x)

def execWssetPort (a b c : BitVec 8) (member : BitVec 3) (x : Slots) (s : State) : Host.Outcome State Fault Refusal :=
  let h := s.handleIn a
  let p := s.handleIn b
  let thr := s.readU c
  .next (s.object x [s.readU a, s.readU b, thr] fun s =>
    s.named 4 h fun s => s.named 3 p fun s =>
      (s.setMember h member.toNat (some ⟨s.pairKey s.wave.proc p, thr, p⟩)).finished x)

def execWssetTimer (a b c : BitVec 8) (member : BitVec 3) (x : Slots) (s : State) : Host.Outcome State Fault Refusal :=
  let h := s.handleIn a
  let t := s.handleIn b
  let thr := s.readU c
  .next (s.object x [s.readU a, s.readU b, thr] fun s =>
    s.named 4 h fun s => s.named 5 t fun s =>
      (s.setMember h member.toNat (some ⟨s.pairKey s.wave.proc t, thr, t⟩)).finished x)

/-- Whether a member is broken, and whether it is reached (R167). -/
def State.judgeMember (s : State) (gone : List Nat) (e : Nat × SetMember) : Bool × Bool :=
  let (v, st) := s.ctrRead e.2.key
  let bad := gone.contains e.1 || decide (st ≠ .ok)
  (bad, !bad && reached v e.2.thr)

/-- The members of a list that satisfy something, as a mask of 8 bits. -/
def memberMask (l : List (Nat × SetMember)) (f : Nat × SetMember → Bool) : Nat :=
  (l.map fun e => if f e then 2 ^ e.1 else 0).sum

/-- The lowest bit of a mask, 0 for none. -/
def lowestBit (m : Nat) : Nat := ((upto 8).find? fun i => m.testBit i).getD 0

/-- The report of a wait set (R168). -/
def setReport (time bro hit : Nat) : DWord :=
  BitVec.ofNat 64 (time % 2 ^ 32 * 2 ^ 32 + bro * 2 ^ 16 + hit * 2 ^ 8 + lowestBit (bro ||| hit))

/-- What a WSWAIT leaves in a wave (R334). -/
def Wave.reported (w : Wave) (a : BitVec 8) (time bro hit : Nat) : Wave :=
  (((((w.setZ (hit ≠ 0)).setB (bro ≠ 0)).setF false).writeU a (setReport time bro hit))).advance 8

/-- The failures held on the members found broken are reported to the wave that observes them (R315). -/
def State.observeMembers (s : State) (h : Handle) (pc : DWord) (l : List (Nat × SetMember)) : State :=
  l.foldl (fun (s : State) e => s.observe e.2.key (s.ctrRead e.2.key).2 h pc) s

/-- An evaluation: what every live member shows (R167). -/
def State.evalSet (s : State) (gone : List Nat) (l : List (Nat × SetMember)) : Nat × Nat :=
  (memberMask l fun e => (s.judgeMember gone e).1, memberMask l fun e => (s.judgeMember gone e).2)

/-- WSWAIT evaluates the set, and waits where nothing is shown (R167). A member behind a peer path that is down already is
read and its waiter registered as with the path up: the manual speaks of a path that fails later (R76; log entry 45). -/
def execWswait (a b : BitVec 8) (x : OrdExt) (s : State) : Host.Outcome State Fault Refusal :=
  let h := s.handleIn b
  .next (s.object x.slots [s.readU b] fun s =>
    s.named 4 h fun s =>
      let time := s.nowOf (hDie h)
      match s.set h with
      | none => s
      | some t =>
        if t.members = [] ∨ t.waiter ≠ 0#32 then
          (((s.writeU a (setReport time 0 0)).setF true)).finished x.slots
        else
          let r := s.evalSet [] t.members
          if r.1 ≠ 0 ∨ r.2 ≠ 0 then
            let s := s.observeMembers s.wave.hdl s.wave.pc t.members
            let s := s.acquire s.wave.coreNo (OrdExt.acquires x)
            (s.setSlot x.slots).onWave (·.reported a time r.1 r.2)
          else
            let s := t.members.foldl (fun (s : State) e => s.register ⟨e.2.key, e.2.thr, .member h⟩) s
            let s := s.updSet h fun t => { t with waiter := s.wave.hdl, reg := t.members, gone := [] }
            s.wait (.waitSet h a (OrdExt.acquires x)))

/-- A waiting WSWAIT ends with a report (R167 step 5). -/
def State.endSet (s : State) (t : WaitSet) (bro hit : Nat) : State :=
  let h := t.waiter
  let time := s.nowOf (hDie t.hdl)
  let s := (s.unregister (.member t.hdl)).updSet t.hdl fun t => { t with waiter := 0#32, reg := [], gone := [] }
  match s.findWave h with
  | none => s
  | some w =>
    match w.await with
    | .waitSet set dst acq =>
      if set = t.hdl ∧ !w.due then
        let s := s.acquire w.coreNo acq
        (s.bothSides h (·.reported dst time bro hit)).wakeUp h
      else s
    | _ => s

/-- The evaluation that the first member to fire opens; the others join it (R167). -/
def execWaitSetEvaluation (set : Handle) (s : State) : Host.Outcome State Fault Refusal :=
  .next
    (match s.set set with
     | none => s
     | some t =>
       let still := (s.waiters.filter fun w => decide (w.party = .member set)).length
       if t.waiter = 0#32 ∨ (still = t.reg.length ∧ t.gone = []) then s
       else
         let r := s.evalSet t.gone t.reg
         let s := match s.findWave t.waiter with
           | some w => s.observeMembers w.hdl w.pc t.reg
           | none => s
         s.endSet t r.1 r.2)

/-! ### Wakes and retries (R81, R177, R178) -/

/-- The event that a wave awaits has come: a counter, or a message (R81, R143). -/
def execWaiterWake (h : Handle) (value : DWord) (st : CtrStatus) (s : State) : Host.Outcome State Fault Refusal :=
  .next
    (match s.findWave h with
     | none => s
     | some w =>
       let registered := s.waiters.any fun e => decide (e.party = .wave h)
       if w.due then s
       else
         match w.await with
         | .counter key thr dst acq => if registered then s else s.wakeCounter w key thr dst acq none value st
         | .cont key thr dst acq npc => if registered then s else s.wakeCounter w key thr dst acq (some npc) value st
         | .message port dst acq _ =>
           if (s.receiver port).map (·.hdl) = some h then s.serve w port dst acq else s
         | _ => s)

/-- A reply that its port refused is tried again (R177); a port that is gone takes none. -/
def execKernelReplyRetry (n : Nat) (s : State) : Host.Outcome State Fault Refusal :=
  .next
    (match s.pendReplies.find? (·.uid = n) with
     | none => s
     | some r =>
       let s : State := { s with pendReplies := s.pendReplies.filter (·.uid ≠ n) }
       match r.slots with
       | b :: _ => s.sendReply r.die r.name b
       | [] => s)

/-- The `jc` counter of a journal record has been reached: the record is marked completed, its time first (R178). -/
def execJournalCompletion (die seq : Nat) (s : State) : Host.Outcome State Fault Refusal :=
  let k := journalKey die seq
  .next
    (if s.rawNat k 8 = seq ∧ (s.rawByte (k + 56)).toNat < 2 ∧ !(s.waiters.any fun w => decide (w.party = .journal die seq)) then
      (s.putBytes (k + 40) (bytesOfNat 8 (s.nowOf die))).putBytes (k + 56) [2#8]
     else s)

/-! ### ODEL (R175, R176, R337) -/

/-- The wait sets that wait on a deleted object find its member broken (R176). -/
def State.memberGone (s : State) (h : Handle) : State :=
  let hit : WaitSet → List Nat := fun t => (t.reg.filter fun e => decide (e.2.obj = h)).map (·.1)
  let s' : State := { s with sets := s.sets.map fun t => { t with gone := t.gone ++ hit t } }
  (s.sets.filter fun t => !(hit t).isEmpty).foldl (fun (s : State) t => s.owe (.waitSetEvaluation t.hdl)) s'

/-- Counters of a deleted object are broken FAULTED where waiters remain (R95). -/
def State.breakWaited (s : State) (keys : List Nat) : State :=
  if s.waiters.any fun w => keys.contains w.key then
    keys.foldl (fun (s : State) k => s.ctrBreak k .faulted) s
  else s

/-- A PRECV that waits on a deleted port ends with F and B (R331). -/
def State.endReceivers (s : State) (h : Handle) : State :=
  (s.allWaves.filter fun w =>
    match w.await with
    | .message p _ _ _ => decide (p = h) && !w.due
    | _ => false).foldl
    (fun (s : State) w => (s.bothSides w.hdl fun w => ((w.setF true).setB true).advance 8).wakeUp w.hdl) s

def State.deletePort (s : State) (h : Handle) : State :=
  match s.port h with
  | none => s
  | some p =>
    let s := (s.memberGone h).breakWaited [s.arrivalKey p, s.consumedKey p]
    let s := s.endReceivers h
    let s := p.msgs.foldl (fun (s : State) m => m.grants.foldl (fun (s : State) g => s.returnGrant p.proc g) s) s
    let s := s.updProc p.proc fun q => { q with frames := q.frames ++ p.credited }
    let name := s.portName h
    let s : State := { s with names := s.names.filter (·.2.2 ≠ name), ports := s.ports.filter (·.hdl ≠ h) }
    let s := if p.cwUnit = 0 then s else s.putBytes (directoryKey (hDie h) p.cwUnit) (List.replicate 16 0#8)
    let s := if s.pendFaults.any (·.port = h) then s.oweIn .pendingFaultSend { h := h } else s
    s.freeSlot h

def State.deleteTimer (s : State) (h : Handle) : State :=
  match s.timer h with
  | none => s
  | some t =>
    let s := (s.memberGone h).breakWaited [s.expiryKey t]
    ({ s with timers := s.timers.filter (·.hdl ≠ h) } : State).freeSlot h

/-- A wave in WSWAIT on a deleted set wakes with every live member broken (R175). -/
def State.deleteSet (s : State) (h : Handle) : State :=
  match s.set h with
  | none => s
  | some t =>
    let s := if t.waiter = 0#32 then s else s.endSet t (memberMask t.reg fun _ => true) 0
    ({ s with sets := s.sets.filter (·.hdl ≠ h) } : State).freeSlot h

/-- A code version withdrawn: its handle is stale at once, the version lives on for what is bound to it (R170). -/
def State.deleteCode (s : State) (h : Handle) : State :=
  (s.updCode h fun c => { c with withdrawn := true }).reapCode h

/-- An object that is no process deleted. -/
def State.deleteOne (s : State) (h : Handle) : State :=
  match hType h with
  | 2 => s.kill h
  | 3 => s.deletePort h
  | 4 => s.deleteSet h
  | 5 => s.deleteTimer h
  | 6 => s.deleteCode h
  | _ => s

/-- A process deleted with every object of it, waves first, so that their teams end as others do (R175, R327); its grids place
no further team, and breaks that wait for a path are dropped (R91). -/
def State.deleteProc (s : State) (h : Handle) : State :=
  let gone := (s.grids.filter fun g => decide (g.proc = h)).map (·.codever)
  let s := ((s.allWaves.filter fun w => decide (w.proc = h)).map (·.hdl)).foldl (fun (s : State) o => s.deleteOne o) s
  let s : State := { s with grids := s.grids.filter (·.proc ≠ h) }
  let mine := ((s.ports.filter fun p => decide (p.proc = h)).map (·.hdl)) ++ ((s.sets.filter fun p => decide (p.proc = h)).map (·.hdl)) ++
    ((s.timers.filter fun p => decide (p.proc = h)).map (·.hdl)) ++ ((s.codes.filter fun p => decide (p.proc = h)).map (·.hdl))
  let s := mine.foldl (fun (s : State) o => s.deleteOne o) s
  let s := gone.foldl (fun (s : State) c => s.reapCode c) s
  let s : State := { s with procs := s.procs.filter (·.hdl ≠ h), pendBreaks := s.pendBreaks.filter (·.proc ≠ h),
                            leaves := s.leaves.filter (·.1 ≠ h) }
  s.freeSlot h

def execOdel (b : BitVec 8) (s : State) : Host.Outcome State Fault Refusal :=
  let h := s.handleIn b
  .next (s.once .once (s.pairRecs [s.readU b]) fun s =>
    s.named (hType h) h fun s =>
      if hType h = 1 then
        (if s.wave.priv then (s.next 4).deleteProc h else s.trap .illPriv)
      else (s.next 4).deleteOne h)

end Sys2Proof.Machine
end

