-- ==== Sys2Proof/Machine/HostSide.lean ====
section
/-! DEFINITION. The host's side: the counter aperture, the command window, host waiters, HDM, host failure, register
writes (03 R83 to R85; 04 R124; 06 R178; 20 R402 to R411, R414). The host port stands in `die` of the input. -/

namespace Sys2Proof.Machine

/-! ### Host messages (R178, R407) -/

/-- The message of a host as it is delivered: `sender` and `class` 0, reserved bits and `ngr` cleared (R407). -/
def hostMessage (raw : List Byte) : List Byte :=
  setBytes (setBytes raw 8 (List.replicate 4 0#8)) 13 [(raw.getD 13 0#8) &&& 0x20#8, 0#8, 0#8]

/-- What the journal does about the counter of a message with `jc`: outside every window the record is discarded; one
that is reached completes it, else the HKU waits on it (R178). -/
def State.journalWait (s : State) (die seq ctr : Nat) (thr : DWord) : State :=
  if ctr % 8 ≠ 0 ∨ !(s.windowed 0 ctr || s.windowed 1 ctr) then s.putBytes (journalKey die seq + 56) [3#8]
  else
    let (v, st) := s.ctrRead ctr
    if reached v thr ∨ st ≠ .ok then s.owe (.journalCompletion die seq)
    else s.register ⟨ctr, thr, .journal die seq⟩

/-- A record of the journal for a message as the host wrote it (R178). -/
def State.journalRecord (s : State) (p : Port) (raw : List Byte) : State × Nat :=
  let die := hDie p.hdl
  let seq := s.jseq.get die
  let jc := (raw.getD 13 0#8).getLsbD 5
  let thr := if jc then natAt raw 56 8 else 0
  let old : Party → Bool := fun q => decide (16384 ≤ seq) && decide (q = .journal die (seq - 16384))
  let s : State := { s with jseq := s.jseq.set die (seq + 1), waiters := s.waiters.filter fun w => !old w.party }
  let s := s.putBytes (journalKey die seq)
    (bytesOfNat 8 seq ++ bytesOfNat 8 (s.portName p.hdl).toNat ++ bytesOfNat 8 (s.nowOf die) ++
      bytesOfNat 8 (crc64 raw) ++ List.replicate 16 0#8 ++ bytesOfNat 8 thr ++ List.replicate 8 0#8)
  (if jc then s.journalWait die seq (natAt raw 48 8) (BitVec.ofNat 64 thr) else s, seq)

/-- A message that a host's arrival add announces: journalled, then delivered from its slot (R163, R178, R407). -/
def State.hostLanding (s : State) (h : Handle) (slot : Nat) : State :=
  match s.port h with
  | none => s
  | some p =>
    let k := p.ring + 64 * slot
    let raw := Sparse.getList Memory.unlisted s.mem k 64
    let (s, seq) := s.journalRecord p raw
    let s := s.putBytes k (hostMessage raw)
    let s := s.updPort h fun q => { q with msgs := q.msgs ++ [⟨slot, some seq, 0#32, 0, [], 0#32, false⟩] }
    s.announce p

/-- What follows a host's add to a counter that is some port's arrival counter, from its value before: the messages of
that many slots, or the break of a port that the host has overrun (R178, R407). -/
def State.hostArrival (s : State) (key : Nat) (old d : DWord) : State :=
  match s.ports.find? fun p => decide (p.opn = 3) && !p.broken && decide (s.arrivalKey p = key) with
  | none => s
  | some p =>
    if (s.ctrValue key - s.ctrValue (s.consumedKey p)).toNat > p.depth then
      (s.updPort p.hdl fun q => { q with broken := true }).ctrBreak key .faulted
    else
      (upto d.toNat).foldl (fun (s : State) i => s.hostLanding p.hdl ((old.toNat + i) % p.depth)) s

/-! ### The counter aperture (R83) -/

/-- An aperture write that is discarded counts on the die that its offset names, else on the port's. -/
def State.dropAperture (s : State) (die pa : Nat) : State := s.count (if isDram pa then dieOfPa pa else die) 0x130

/-- A host reaches BAR 2 × `n` of a die's function: the link is up, and the BAR has a base. In its reset state it has none
(R404, R409; log entry 46). -/
def State.barOpen (s : State) (die n : Nat) : Bool := !s.hostDown.get die && Sparse.get 0#64 s.bars (3 * die + n) != 0#64

/-- A host write of `size` bytes with data `d` at aperture offset `pa` (R83). -/
def State.apertureWrite (s : State) (die pa size : Nat) (d : DWord) : State :=
  if size ≠ 8 ∨ pa % 8 ≠ 0 ∨ d.msb ∨ !isDram pa ∨ !s.windowed (dieOfPa pa) pa then s.dropAperture die pa
  else
    let old := s.ctrValue pa
    let dead := s.ctrPoisoned pa
    let s := s.ctrAdd pa d
    if dead then s else s.hostArrival pa old d

def execApertureAdd (s : State) : Host.Outcome State Fault Refusal :=
  .next
    (if s.barOpen s.inp.die 1 then s.apertureWrite s.inp.die s.inp.pa s.inp.size (s.inp.val.setWidth 64) else s)

/-- A host read of the aperture: 8 bytes give the counter's value, any other width all ones (R83). What a hole reads as
is a free value (log entry 6). -/
def State.apertureRead (s : State) (a size : Nat) : State :=
  if size ≠ 8 then { s with readBack := List.replicate size 0xFF#8 }
  else if isDram a ∧ a % 8 = 0 then { s with readBack := bytesOfNat 8 (s.ctrRead a).1.toNat }
  else
    let (s, l) := s.freeBytes 8
    { s with readBack := l }

/-- The MSI-X table in BAR 4 of a function, its size, and its pending-bit array (R402, R404). -/
def msixBase : Nat := 0x00F00000
def msixSize : Nat := 16 * 2048
def msixPending : Nat := 0x00F80000

/-- A byte at an offset of BAR 4 of a die's function: the MSI-X table, its pending bits, of which none is ever set, or the
registers (R404; log entry 14). -/
def State.barByte (s : State) (die o : Nat) : Byte :=
  if msixBase ≤ o ∧ o < msixBase + msixSize then Sparse.get 0#8 s.msixTable (32768 * die + (o - msixBase))
  else if msixPending ≤ o ∧ o < msixPending + 256 then 0#8
  else (s.devRead (regBase 0 + o) 1).headD 0#8

/-- A read from outside that stands in no other row: a host's through a BAR, and the board controller's of the management
window and of rail telemetry, whose values are free (R83, R404, R406, R432; log entry 6). -/
def execApertureRead (s : State) : Host.Outcome State Fault Refusal :=
  let i := s.inp
  .next
    (match i.via with
     | .aperture => if s.barOpen i.die 1 then s.apertureRead i.pa i.size else s
     | .window =>
       if s.barOpen i.die 0 && decide (i.pa + i.size ≤ 0x4000000) then
         { s with readBack := s.readBytes false (reservedBase i.die + 0x10000000 + i.pa) i.size }
       else s
     | .registers =>
       if s.barOpen i.die 2 then { s with readBack := (upto i.size).map fun j => s.barByte i.die (i.pa + j) } else s
     | .board =>
       if i.pa + i.size ≤ 0x200000 then { s with readBack := s.devRead (regBase i.die + i.pa) i.size } else s
     | .telemetry =>
       let (s, l) := s.freeBytes i.size
       { s with readBack := l })

/-- Window `n` of the die written with `en` 1 (R83). -/
def execApertureWindowEnable (s : State) : Host.Outcome State Fault Refusal :=
  .next (s.writeWindow s.inp.die (s.inp.n % 16) (2 ^ 127 + s.inp.val.toNat % 2 ^ 127))

/-- Window `n` of the die written with `en` 0: its waiters are withdrawn (R84). -/
def execApertureWindowDisable (s : State) : Host.Outcome State Fault Refusal :=
  let n := s.inp.n % 16
  .next (s.writeWindow s.inp.die n ((Sparse.get 0#128 s.window (s.inp.die * 16 + n)).toNat % 2 ^ 127))

/-- Alias entry `n` of the die written (R59). -/
def execAliasEntryWrite (s : State) : Host.Outcome State Fault Refusal :=
  .next (s.writeAlias s.inp.die (s.inp.n % 64) s.inp.val.toNat)

/-! ### Host waiters (R84, R85) -/

/-- Entry `n` of the die written with `armed` 1. -/
def execHostWaiterArm (s : State) : Host.Outcome State Fault Refusal :=
  .next (s.writeHost s.inp.die (s.inp.n % 4096) (s.inp.val ||| 1#256).toNat (s.inp.val.getLsbD 1))

/-- Entry `n` of the die written with `armed` 0 and its other fields as they stand. -/
def execHostWaiterDisarm (s : State) : Host.Outcome State Fault Refusal :=
  let n := s.inp.n % 4096
  .next (s.writeHost s.inp.die n (s.hostEntry s.inp.die n &&& ~~~3#256).toNat false)

/-- 1 written to `fired` of entry `n`, its other fields as they stand. -/
def execHostWaiterFiredClear (s : State) : Host.Outcome State Fault Refusal :=
  let n := s.inp.n % 4096
  .next (s.writeHost s.inp.die n (s.hostEntry s.inp.die n ||| 2#256).toNat true)

/-- The 16 bytes of a report (R85). -/
def hostReport (value : DWord) (die n : Nat) (st : CtrStatus) (wd : Bool) (now : Nat) : List Byte :=
  bytesOfNat 8 value.toNat ++ bytesOfNat 2 (die * 4096 + n) ++ [BitVec.ofNat 8 (st.code + 4 * wd.toNat), 0#8] ++
    bytesOfNat 4 now

/-- An armed entry fires: the report, the MSI-X message, `last` and `fired`, and `armed` clear (R84). While the link is
down the report and the message are discarded (R409). -/
def execHostWaiterFire (die n : Nat) (value : DWord) (st : CtrStatus) (wd : Bool) (s : State) :
    Host.Outcome State Fault Refusal :=
  let e := s.hostEntry die n
  .next
    (if !hwArmed e || s.waiters.any (fun w => decide (w.party = .host die n)) then s
     else
       let s :=
         if s.hostDown.get die then s
         else
           let s := s.putBytes (hostKey (hwReport e)) (hostReport value die n st wd (s.nowOf die))
           { s with msix := s.msix ++ [(die, hwVector e)] }
       s.putHostEntry die n ((e &&& ~~~0xF#256) ||| BitVec.ofNat 256 (4 * st.code + 2)))

/-! ### HDM and the command window (R124, R403, R407) -/

/-- The device addresses that a die's HDM range decodes (R403). -/
def inHdm (die pa n : Nat) : Bool :=
  decide (0x8000000000 * die ≤ pa) && decide (pa + n ≤ 0x8000000000 * die + 0x5568000000)

/-- A host CXL.mem write: bytes of frames in an enabled window are discarded and counted (R403). -/
def execHostHdmWrite (s : State) : Host.Outcome State Fault Refusal :=
  let die := s.inp.die
  let bs := s.inp.bytes
  let pa := s.inp.pa
  let cell : Nat → Bool := fun i => s.windowed die (pa + i)
  .next
    (if s.hostDown.get die || !inHdm die pa bs.length then s
     else if (upto bs.length).any cell then
       let s' := s.count die 0x130
       ((upto bs.length).zip bs).foldl (fun (s : State) e => if cell e.1 then s else s.writeBytes (pa + e.1) [e.2]) s'
     else s.writeBytes pa bs)

/-- A host CXL.mem read at the owning slice (R124); what a poisoned sector gives the host is free bytes (log entry 6). -/
def execHostHdmRead (s : State) : Host.Outcome State Fault Refusal :=
  let die := s.inp.die
  let n := s.inp.size
  .next
    (if s.hostDown.get die || !inHdm die s.inp.pa n then s
     else if s.anyPoison s.inp.pa n then
       let (s, l) := s.freeBytes n
       { s with readBack := l }
     else { s with readBack := s.readBytes false s.inp.pa n })

/-- A host write through BAR 0 of a die at an offset of its command window; the directory is read-only (R406, R407). -/
def execCommandWindowWrite (s : State) : Host.Outcome State Fault Refusal :=
  let die := s.inp.die
  let off := s.inp.pa
  .next
    (if !s.barOpen die 0 || decide (off < 0x40000) || decide (0x4000000 < off + s.inp.bytes.length) then s
     else s.writeBytes (unitKey die 0 + off) s.inp.bytes)

/-! ### Host failure (R409) -/

/-- The link of a die goes down: nothing of the die is reset; its translation cache must be filled again. -/
def execHostLinkDown (s : State) : Host.Outcome State Fault Refusal :=
  let die := s.inp.die
  .next { s with hostDown := s.hostDown.set die true, atc := s.atc.filter fun e => decide (e.die ≠ die) }

def execHostLinkUp (s : State) : Host.Outcome State Fault Refusal :=
  .next { s with hostDown := s.hostDown.set s.inp.die false }

/-- A Function Level Reset of a die's function: it disarms the host waiters, clears the MSI-X table and the BARs, and
invalidates the translation cache as an ATS invalidation of everything would, which completes when the leases have ended
(R33, R409). -/
def execFunctionLevelReset (s : State) : Host.Outcome State Fault Refusal :=
  let die := s.inp.die
  let armed := s.hostw.filter fun e => decide (e.1 / 4096 = die) && hwArmed e.2
  let s' := armed.foldl
    (fun (s : State) e => s.writeHost die (e.1 % 4096) (s.hostEntry die (e.1 % 4096) &&& ~~~3#256).toNat false) s
  .next { s' with msixTable := Sparse.clear s'.msixTable (32768 * die) (32768 * die + 32768),
                  bars := Sparse.clear s'.bars (3 * die) (3 * die + 3),
                  invals := s'.invals ++ [(die, 0, 2 ^ 48, max (s'.nowOf die) (s'.hostHorizon 0 (2 ^ 48) + 2))] }

/-! ### The load-store domain and its paths (R76, R321, R411, R412, R414) -/

/-- The packages of a collective's members. -/
def memberPackages (members : BitVec 256) : List Nat := (collRanks members).map (· / 2)

/-- Requests of a collective that a path cuts off: their counters are broken (R321). -/
def State.breakCut (s : State) : State :=
  let cut : Eng → Bool := fun e =>
    match e.kind with
    | .coll _ _ _ _ _ members _ _ =>
      (membersOf members s.pkg).any fun d => (memberPackages members).any fun p => decide (p ≠ s.pkg) && !s.peerUp d p
    | _ => false
  let lost := s.engs.filter fun e => e.started && cut e
  let s : State := { s with unacked := s.unacked.filter fun d => !lost.any fun e => decide (e.uid = d.flight) }
  lost.foldl (fun (s : State) e => s.finishEng e (some (4, 0#64, 0xFF))) s

/-- The die on which a party waits. -/
def Party.die (p : Party) : Nat :=
  match p with
  | .wave h => hDie h
  | .member h => hDie h
  | .ui h => hDie h
  | .host d _ => d
  | .journal d _ => d
  | .media e => e / 4

/-- Waiters at a peer home whose path has failed are woken with FAULTED; the counter's status stays (R76). -/
def State.wakeCut (s : State) : State :=
  s.cutOff fun w => isPeerKey w.key && !s.pathUp w.party.die (peerOfKey w.key)

/-- The paths of the package have changed: breaks that waited for one are performed, and what a failed one cut off is
told (R76, R91, R321). -/
def State.pathsChanged (s : State) : State :=
  let s := if s.pendBreaks = [] then s else s.owe .pendingBreakPerform
  s.breakCut.wakeCut

/-! ### Register writes (R7, R34, R83, R84, R404, R405, R411, R413, R414) -/

/-- Bytes written to the register space by a privileged agent on the port of a die (R404, R432). -/
def State.barWrite (s : State) (die pa : Nat) (bs : List Byte) : State :=
  let o := pa - regBase 0
  if pa < regBase 0 then s
  else if msixBase ≤ o ∧ o + bs.length ≤ msixBase + msixSize then
    { s with msixTable := Sparse.putList 0#8 s.msixTable (32768 * die + (o - msixBase)) bs }
  else s.devWrite pa bs

/-- The bits of an address below a BAR's size, which its base does not hold (R404). -/
def barBits (n : Nat) : Nat := if n = 0 then 26 else if n = 1 then 40 else 32

/-- A register that has no row of its own is written: a device register, which a host reaches through BAR 4, the export table,
the route table, the package number, the scale-out table, the datagram transport's port, the base of a BAR. -/
def execRegisterWrite (reg : DevReg) (v : BitVec 256) (size : Nat) (s : State) : Host.Outcome State Fault Refusal :=
  .next
    (match reg with
     | .addr pa =>
       if s.inp.via = .registers ∧ s.barOpen s.inp.die 2 = false then s
       else s.barWrite s.inp.die pa (bytesOfNat (min size 32) v.toNat)
     | .exportFrame f =>
       if v = 0#256 then { s with exports := s.exports.filter (· ≠ f) }
       else if isDram (65536 * f) && !s.exports.contains f then { s with exports := s.exports ++ [f] }
       else s
     | .route die pkg =>
       ({ s with route := Sparse.put 0 s.route (die % 2 * 128 + pkg % 128) (v.toNat % 4096) } : State).pathsChanged
     | .pkgNumber => { s with pkg := v.toNat % 128 }
     | .scaleOut die pkg => { s with scaleOut := Sparse.put 0#256 s.scaleOut (die % 2 * 128 + pkg % 128) v }
     | .datagramPort => { s with datagramPort := v.toNat % 65536 }
     | .bar die n =>
       let b := barBits (n % 3)
       { s with bars := Sparse.put 0#64 s.bars (3 * (die % 2) + n % 3)
                  (BitVec.ofNat 64 (bits v.toNat b (64 - b) * 2 ^ b)) })

end Sys2Proof.Machine
end

