-- ==== Sys2Proof/Machine/Domain.lean ====
section
/-! DEFINITION. Other packages: failing and returning links, lost Ethernet paths, retransmission, accesses of peers
(01 R34; 03 R76; 12 R321; 20 R411 to R414). -/

namespace Sys2Proof.Machine

/-- Link `n` of the die fails: its traffic moves to other links, or the packages behind it go down (R412). -/
def execOczerLinkFailure (s : State) : Host.Outcome State Fault Refusal :=
  let l := (s.inp.die, s.inp.n)
  .next (if s.linksDown.contains l then s else ({ s with linksDown := s.linksDown ++ [l] } : State).pathsChanged)

/-- Link `n` of the die returns. -/
def execOczerLinkRecovery (s : State) : Host.Outcome State Fault Refusal :=
  .next ({ s with linksDown := s.linksDown.filter (· ≠ (s.inp.die, s.inp.n)) } : State).pathsChanged

/-- Ethernet port `m` of the die loses its path to package `n`, or with `size` 1 has it back (R413, R414; log entry 40). -/
def execEthernetLinkFailure (s : State) : Host.Outcome State Fault Refusal :=
  let i := s.inp
  let here : EthLoss → Bool := fun e => decide (e.die = i.die) && decide (e.port = i.m % 3) && decide (e.pkg = i.n)
  .next
    (if i.size = 1 then ({ s with ethDown := s.ethDown.filter fun e => !here e } : State).pathsChanged
     else if s.ethDown.any here then s
     else ({ s with ethDown := s.ethDown ++ [⟨i.die, i.m % 3, i.n, s.nowOf i.die⟩] } : State).pathsChanged)

/-- A message to another package whose Ethernet path every port has lost for 60 µs (R414). -/
def State.pathTimedOut (s : State) (f : Flight) : Bool :=
  decide (f.pkg ≠ s.pkg) && decide (f.cls = 3) && s.ethLost f.senderDie f.pkg &&
    decide (s.ethLostSince f.senderDie f.pkg + 60000 ≤ s.nowOf f.senderDie)

/-- Pages of a discarded message that were not read go to the sender's free-frame list, as pages that were (R164). -/
def State.dropGrants (s : State) (gs : List Grant) : State :=
  gs.foldl
    (fun (s : State) g =>
      if g.done then s else s.updProc g.sproc fun p => { p with frames := p.frames ++ [pteFrame g.pte] }) s

/-- Message `n`, whose path to another package over Ethernet has been lost for 60 µs, is discarded: a timing record says
so, with `tland` 0 (R363, R414). -/
def execD3PathTimeout (s : State) : Host.Outcome State Fault Refusal :=
  .next
    (match s.flights.find? fun f => decide (f.uid = s.inp.n) && s.pathTimedOut f with
     | none => s
     | some f =>
       let s : State := { s with flights := s.flights.filter (·.uid ≠ f.uid),
                                 unacked := s.unacked.filter (·.flight ≠ f.uid) }
       let name : DWord := BitVec.ofNat 64 (f.pkg * 2 ^ 28 + f.port.toNat % 2 ^ 28)
       ((s.dropGrants f.grants).timing f.senderDie name f none 0 (2 ^ 64 - 1)).landNext f)

/-- The timer of the connection of a die with die `m` of package `n` has run out: what has waited 8 µs for its
acknowledgement is sent again (R413). -/
def execRetransmissionTimerExpiry (s : State) : Host.Outcome State Fault Refusal :=
  let i := s.inp
  let late : Datagram → Bool := fun d =>
    decide (d.die = i.die) && decide (d.pkg = i.n) && decide (d.peer = i.m) && decide (d.sent + 8000 ≤ s.nowOf i.die)
  .next { s with unacked := s.unacked.map fun d => if late d then { d with sent := s.nowOf i.die } else d }

/-- How far a sequence number of a connection, of 32 bits, lies after the one that follows an acknowledged one (R413). -/
def seqAfter (ack seq : Nat) : Nat := (seq % 2 ^ 32 + (2 ^ 33 - 1 - ack % 2 ^ 32)) % 2 ^ 32

/-- What has been received in order moves the acknowledged number on. -/
def Received.inOrder : Nat → Received → Received
  | 0, r => r
  | n + 1, r => if r.sack.getLsbD 0 then Received.inOrder n ⟨r.ack + 1#32, r.sack >>> 1⟩ else r

/-- A sequence number received: one beyond the 64 after the acknowledged one, or one received before, changes nothing (R413). -/
def Received.take (r : Received) (seq : Nat) : Received :=
  let i := seqAfter r.ack.toNat seq
  if i < 64 then Received.inOrder 64 { r with sack := r.sack ||| BitVec.ofNat 64 (2 ^ i) } else r

/-- A datagram is acknowledged by a number and the bitmap of the 64 after it (R413). -/
def Datagram.ackedBy (d : Datagram) (ack : Nat) (sack : DWord) : Bool :=
  let i := seqAfter ack d.seq
  decide (2 ^ 31 ≤ i) || (decide (i < 64) && sack.getLsbD i)

/-- A datagram from a die of another package: what it acknowledges is sent no more, and unless it is an acknowledgement
itself it is received and answered with one, whose header is read back. The response to an ECN mark, which the manual does not
describe, is the sender's rate alone (R413; log entry 46). -/
def State.datagramIn (s : State) (die pkg peer kind seq ack : Nat) (sack : DWord) : State :=
  let k := connection die pkg peer
  let mine : Datagram → Bool := fun d => decide (d.die = die) && decide (d.pkg = pkg) && decide (d.peer = peer)
  let s : State := { s with unacked := s.unacked.filter fun d => !(mine d && d.ackedBy ack sack) }
  if kind = 3 then s
  else
    let r := Sparse.get ⟨0#32, 0#64⟩ s.etherIn k
    let s : State := { s with etherIn := Sparse.put ⟨0#32, 0#64⟩ s.etherIn k (r.take seq) }
    let now := s.nowOf die
    { s with readBack :=
        s.datagramHeader ⟨die, pkg, peer, 3, Sparse.get 0 s.etherSeq k, now, now, 0, s.datagramPort, 0⟩ }

/-- Bytes of an exported frame (R34). -/
def State.exported (s : State) (pa n : Nat) : Bool :=
  isDram pa && s.exports.contains (pa / 65536) && decide (pa % 65536 + n ≤ 65536)

/-- A frame of the free-frame list of a port's process set aside for a grant from another package (R164). -/
def State.setAside (s : State) (p : Port) : State :=
  match (s.proc p.proc).map (·.frames) with
  | some (f :: rest) =>
    (s.updProc p.proc fun q => { q with frames := rest }).updPort p.hdl fun q => { q with credited := q.credited ++ [f] }
  | _ => s

/-- What this package keeps of a port of another one (R162, R164). -/
def State.farPort (s : State) (name : DWord) (e : Option (Nat × Nat × Nat)) : State :=
  { s with farPorts := s.farPorts.filter (·.1 ≠ name) ++ (e.toList.map fun v => (name, v)) }

/-- What another package asks or tells. An access at physical address `pa` of this package is served at its home where the
frame is exported, else it ends at the requester and nothing happens here (R34). The Mule of package `n` tells the state of
its ports and its names, and asks for grant credits (R164, R166); the home of a port there reports to the process `h` that its
message landed late (R165); a frame there is exported or not, and its datagrams come in (R34, R413). -/
def execPeerDomainAccess (s : State) : Host.Outcome State Fault Refusal :=
  let a := s.inp.pa
  .next
    (match s.inp.peer with
     | .load n =>
       if !s.exported a n then { s with readBack := [] }
       else if s.anyPoison a n then
         let (s, l) := s.freeBytes n
         { s with readBack := l }
       else { s with readBack := s.readBytes false a n }
     | .store bs => if s.exported a bs.length then s.writeBytes a bs else s
     | .counter op => if s.exported a 8 && decide (a % 8 = 0) then s.ctrPerform a op else s
     | .port name opn places credits =>
       let s := s.farPort name (some (opn, places, credits))
       if places = 0 then s else s.retryReplies name
     | .portGone name =>
       { s.farPort name none with farNames := s.farNames.filter fun e => !decide (e.2.2 = name) }
     | .registers key name =>
       if s.farNames.any fun e => decide (e.1 = s.inp.n) && decide (e.2.1 = key) then s
       else { s with farNames := s.farNames ++ [(s.inp.n, key, name)] }
     | .unregisters key =>
       { s with farNames := s.farNames.filter fun e => !(decide (e.1 = s.inp.n) && decide (e.2.1 = key)) }
     | .wantsCredits name n =>
       match s.portOfName name with
       | none => s
       | some p => (upto n).foldl (fun (s : State) _ => s.setAside p) s
     | .landedLate body => s.sendFault s.inp.h s.inp.die 0#32 4 body []
     | .exports f => { s with peerExports := s.peerExports.filter (· ≠ (s.inp.n, f)) ++ [(s.inp.n, f)] }
     | .unexports f => { s with peerExports := s.peerExports.filter (· ≠ (s.inp.n, f)) }
     | .datagram peer kind seq ack sack => s.datagramIn s.inp.die (s.inp.n % 128) (peer % 2) kind seq ack sack)

end Sys2Proof.Machine
end

