-- ==== Sys2Proof/Machine/Dram.lean ====
section
/-! DEFINITION. The DRAM behind the slices: where an address lies, row activations and back-off, correction, scrubbing and
poison (02 R55, R56, R58, R64 to R66; 03 R89). -/

namespace Sys2Proof.Machine

/-! ### Where an address lies (R55, R56) -/

/-- The slice of its die that owns a DRAM address (R55). -/
def sliceOf (a : Nat) : Nat :=
  bits a 7 9 ^^^ bits a 16 9 ^^^ bits a 25 9 ^^^ bits a 34 5

/-- The stack of the package that a DRAM address lies in: four to a die (R55). -/
def stackOf (a : Nat) : Nat := 4 * dieOfPa a + bits (sliceOf a) 7 2

/-- The pseudo-channel of its stack, and the set within its slice (R55). -/
def pseudoChannelOf (a : Nat) : Nat := 2 * bits (sliceOf a) 0 7 + bits a 16 1
def setOf (a : Nat) : Nat := bits a 16 7

/-- The line index within the pseudo-channel (R56). -/
def pcLine (a : Nat) : Nat := bits a 0 39 / 65536 / 2

/-- The line within its row, the bank and the row (R56). -/
def lineInRow (a : Nat) : Nat := bits (pcLine a) 0 3
def bankOf (a : Nat) : Nat := bits (pcLine a) 3 5 ^^^ bits (pcLine a) 8 5
def rowOf (a : Nat) : Nat := pcLine a / 256

/-- A bank of the package in one number: die, slice, pseudo-channel of the slice, bank. -/
def bankKey (a : Nat) : Nat := ((dieOfPa a * 512 + sliceOf a) * 2 + bits a 16 1) * 32 + bankOf a

/-- A row of the package in one number. -/
def rowKey (a : Nat) : Nat := bankKey a * 2 ^ 14 + rowOf a

/-! ### Activations and back-off (R58) -/

/-- `size` activations of the row that holds address `pa`. Each time the count reaches 1,024 an alert is raised: the count
returns to 0, the slice counts the alert, and the bank is closed to activations for 320 ns, from the end of a window that is
open. -/
def execRowActivationAlert (s : State) : Host.Outcome State Fault Refusal :=
  let a := s.inp.pa
  let n := Sparse.get 0 s.acts (rowKey a) + s.inp.size
  .next
    (if !isDram a then s
     else if n < 1024 then { s with acts := Sparse.put 0 s.acts (rowKey a) n }
     else
       let now := s.nowOf (dieOfPa a)
       let from_ := max now (Sparse.get 0 s.backoff (bankKey a))
       let s := (upto (n / 1024)).foldl (fun (s : State) _ => s.count (dieOfPa a) (0x10000 + 8 * sliceOf a)) s
       { s with acts := Sparse.put 0 s.acts (rowKey a) (n % 1024),
                backoff := Sparse.put 0 s.backoff (bankKey a) (from_ + 320 * (n / 1024)) })

/-- The window of the bank of address `pa` is over. -/
def execBackoffWindowEnd (s : State) : Host.Outcome State Fault Refusal :=
  let b := bankKey s.inp.pa
  .next
    (if Sparse.get 0 s.backoff b ≤ s.nowOf (dieOfPa s.inp.pa) then { s with backoff := Sparse.put 0 s.backoff b 0 } else s)

/-- Periodic refresh reaches the row of address `pa`. -/
def execPeriodicRefresh (s : State) : Host.Outcome State Fault Refusal :=
  .next { s with acts := Sparse.put 0 s.acts (rowKey s.inp.pa) 0 }

/-! ### Correction and poison (R64 to R66) -/

/-- A check record that names a place and no instruction. -/
def placeRec (addr : Nat) : CheckRec := ⟨.ecc, 0#64, 0#64, 0, 0xFF, 9, addr, false, 0, 0#32⟩

/-- A structure of SRAM is read at a place with an error that can be corrected: the reader is given the corrected value,
which is written back, and the log has the place (R64, R66; log entry 46). -/
def State.mendAt (s : State) (die place : Nat) : State := s.corrected { Wave.blank with die := die } (placeRec place)

/-- A corrected error of a sector: logged with its location, its value on its way back to storage (R64, R427). -/
def State.correctSector (s : State) (sector : Nat) : State :=
  let die := dieOfPa (32 * sector)
  let s := s.mendAt die (32 * sector)
  let held := Sparse.getList Memory.unlisted s.mem (32 * sector) 32
  { s with scrubs := (s.scrubs.filter (·.sector ≠ sector)) ++ [⟨sector, held⟩] }

/-- The corrected value of the sector of address `pa` reaches storage; a write that came between has dropped it (R64). -/
def execScrubWriteback (s : State) : Host.Outcome State Fault Refusal :=
  .next
    (match s.scrubs.find? (·.sector = s.inp.pa / 32) with
     | none => s
     | some c => s.putBytes (32 * c.sector) c.bytes)

/-- A patrol read of the sector of address `pa`: an error that can be corrected is scrubbed, one that cannot poisons the
sector and raises nothing (R66); the cells of a counter sector are FAULTED (R89). -/
def execPatrolScrub (s : State) : Host.Outcome State Fault Refusal :=
  let q := s.inp.pa / 32
  .next
    (if !isDram s.inp.pa || Sparse.get false s.poison q then s
     else
       match s.inp.found with
       | .clean => s
       | .correctable => s.correctSector q
       | .uncorrectable => s.faultSector q)

/-- An error that cannot be corrected strikes a sector of a core's L1: a dirty one is lost; with a clean one the line goes,
but for what is dirty in it, and comes again from its home, which is logged as corrected (R64, R65). Where the L1 does not
hold it, the sector in storage is poisoned (R65, R89); the context image of a wave that holds a slot has nothing to lose. -/
def State.strikeSector (s : State) (core sector : Nat) : State :=
  match s.l1At core sector with
  | some e =>
    if e.written = 0#32 then
      let keep := s.l1.filter fun x =>
        !(decide (x.core = core) && decide (lineOf x.sector = lineOf sector) && decide (x.written = 0#32))
      ({ s with l1 := keep } : State).mendAt (core / 48) (32 * sector)
    else s.l1Put { e with bad := true }
  | none =>
    if (s.imageAt (32 * sector)).any fun w => !w.inImage then s
    else if isDram (32 * sector) || isSpKey (32 * sector) then s.faultSector sector
    else s

end Sys2Proof.Machine
end

