-- ==== Sys2Proof/Machine/Hku.lean ====
section
/-! DEFINITION. What the hardware kernel serves: downgrades, fault and service replies, pending messages and breaks, host
translations, copies of code, launches by message (01 R26 to R33, R38; 06 R177; 07 R209; 08 R230; 13 R339; 14 R364). -/

namespace Sys2Proof.Machine

/-- The oldest message of a port that the HKU serves, taken. -/
def State.takeRole (s : State) (die : Nat) (r : PortRole) : Option (State × List Byte × Landed) :=
  match s.rolePort die r with
  | none => none
  | some p => s.takeMessage p.hdl

/-- The oldest message of a role's port as it stands. -/
def State.peekRole (s : State) (die : Nat) (r : PortRole) : Option (List Byte) :=
  match s.rolePort die r with
  | none => none
  | some p => p.msgs.head?.map fun m => Sparse.getList Memory.unlisted s.mem (p.ring + 64 * m.slot) 64

/-- The sender of a message is the host, or a wave of this package that is privileged (R30, R339, R417). -/
def privilegedSender (m : Landed) : Bool := decide (m.cls < 2) && (m.sender == 0#32 || m.spriv)

/-! ### Downgrades (R29 to R33) -/

/-- The key of a downgrade's counter: a type-C page of the process (R30). -/
def State.downgradeKey (s : State) (die : Nat) (proc : Handle) (a : Nat) : State × Option Nat :=
  if a % 8 ≠ 0 then (s, none)
  else
    match s.walkLease die proc true a with
    | (s, .error _) => (s, none)
    | (s, .ok t) =>
      if pteType t.pte ≠ 1 then (s, none)
      else
        match s.reach die proc .ctrRead (pteTarget t.pte) (ptePkg t.pte) (t.xlat a).pa with
        | .ok k => (s, some k)
        | .error _ => (s, none)

/-- A downgrade request (R30, R31): its status, 0 for one that is taken and answered when it completes. -/
def State.beginDowngrade (s : State) (die : Nat) (b : List Byte) (m : Landed) : State × Nat :=
  let proc : Handle := BitVec.ofNat 32 (natAt b 16 4)
  let va := natAt b 24 8
  let len := natAt b 32 8
  if natAt b 20 4 ≠ 0 ∨ natAt b 48 8 ≥ 2 ^ 63 ∨ natAt b 56 8 ≠ 0 then (s, 1)
  else if !privilegedSender m then (s, 6)
  else if (s.proc proc).isNone then (s, 3)
  else if va % 65536 ≠ 0 ∨ len % 65536 ≠ 0 ∨ len = 0 ∨ 2 ^ 40 < len then (s, 2)
  else
    match s.downgradeKey die proc (natAt b 40 8) with
    | (s, none) => (s, 2)
    | (s, some key) =>
      let (uid, s) := s.newUid
      let d : Downgrade :=
        ⟨uid, proc, va, len, key, BitVec.ofNat 64 (natAt b 48 8), s.horizon proc (va / 65536) (len / 65536),
          BitVec.ofNat 64 (natAt b 0 8), BitVec.ofNat 32 (natAt b 8 4), BitVec.ofNat 8 (natAt b 12 1), die⟩
      ({ s with downgrades := s.downgrades ++ [d] }, 0)

/-- The HKU receives a downgrade request of the die. -/
def execDowngradeMessage (s : State) : Host.Outcome State Fault Refusal :=
  let die := s.inp.die
  .next
    (match s.takeRole die .downgrade with
     | none => s
     | some (s, b, m) =>
       match s.beginDowngrade die b m with
       | (s, 0) => s
       | (s, r) => s.answer die b r)

/-- Grant-window slots in a range whose pages are mapped no more become free (R164). -/
def State.freeUnmapped (s : State) (proc : Handle) (va len : Nat) : State :=
  { s with ports := s.ports.map fun p =>
      if p.proc = proc then
        { p with slotsUsed := p.slotsUsed.filter fun j =>
            let a := p.gwin.toNat + 65536 * j
            !(decide (va ≤ a) && decide (a < va + len) &&
              match s.walk proc a with
              | .ok _ => false
              | .error _ => true) }
      else p }

/-- The horizon has passed: the L1s are drained, the counter is added to, and the request is answered (R29, R31, R123). -/
def execDowngradeCompletion (id : Nat) (s : State) : Host.Outcome State Fault Refusal :=
  .next
    (match s.downgrades.find? (·.uid = id) with
     | none => s
     | some d =>
       if s.nowOf d.die < d.horizon + 2 then s
       else
         let s : State := { s with downgrades := s.downgrades.filter (·.uid ≠ id) }
         let s := (s.drainAll.freeUnmapped d.proc d.va d.len).ctrAdd d.key d.delta
         let req := bytesOfNat 8 d.reply.toNat ++ bytesOfNat 4 d.sender.toNat ++ [d.tag]
         s.answer d.die req 0)

/-! ### Host translations (R26, R33) -/

/-- The host page that a virtual page of a process names under a lease that is held, and the end of that lease. -/
def State.hostPage (s : State) (die : Nat) (proc : Handle) (page : Nat) : Option (Nat × Nat) :=
  let va := 65536 * page
  match s.tlbHit die proc va with
  | some t => if pteTarget t.pte = 1 then some ((t.xlat va).pa / 65536, t.expiry) else none
  | none => none

/-- Room in the device translation cache of a die: where it is full, an entry that the manual leaves open goes (R26; log entry
45). -/
def State.atcRoom (s : State) (die : Nat) : State :=
  if s.atc.length < 16384 then s
  else
    let mine := s.atc.filter fun e => decide (e.die = die)
    if mine.length < 16384 then s
    else
      let victim := mine[(Config.freeDWord s.fresh).toNat % mine.length]?
      { s with fresh := s.fresh + 1, atc := s.atc.filter fun e => decide (some e ≠ victim) }

/-- An entry of the device translation cache put in place of what it held of the page. -/
def State.putAtc (s : State) (e : AtcEntry) : State :=
  let others : AtcEntry → Bool := fun o =>
    !(decide (o.die = e.die) && decide (o.proc = e.proc) && decide (o.page = e.page))
  let s := State.atcRoom { s with atc := s.atc.filter others } e.die
  { s with atc := e :: s.atc }

/-- The host grants an access of a page: the cache holds it under the lease that led to it (R26). Where that lease is held no
more nothing is kept (log entry 27). -/
def State.fillAtc (s : State) (die : Nat) (proc : Handle) (page : Nat) (r w : Bool) : State :=
  match s.hostPage die proc page with
  | none => s
  | some (iova, expiry) => s.putAtc ⟨die, proc, iova, r, w, expiry⟩

/-- What the host has answered about a page, nothing where it grants the access: the accesses to it that have not been sent on
go on, or are unfinished; of a fetch the wave keeps the answer (R26, R28). -/
def Wave.hostSays (w : Wave) (page : Nat) (no : Option Cause) : Wave :=
  let tell : Asked → Asked := fun a =>
    match a with
    | .may h =>
      if h.target = 1 ∧ !h.sent ∧ h.va.toNat / 65536 = page then
        (match no with
         | none => .may { h with key := hostKey h.key }
         | some c => .no ⟨h.pos, h.va, c⟩)
      else a
    | .no _ => a
  { w with asked := w.asked.map tell,
           told := if w.asked = [] then no.map fun c => (BitVec.ofNat 64 (65536 * page), c) else w.told }

/-- An ATS answer for the wave `h`, which goes on: an access that is granted proceeds and fills the cache, one that is not leads
to the page request, an error refuses the page (R26). -/
def execAtsCompletion (s : State) : Host.Outcome State Fault Refusal :=
  .next
    (match s.findWave s.inp.h with
     | none => s
     | some v =>
       if v.due then s
       else
         match v.await with
         | .ats die page writes =>
           (match s.inp.ats with
            | .granted r w =>
              if (if writes then w else r) then
                ((s.fillAtc die v.proc page r w).updWave v.hdl (·.hostSays page none)).wakeUp v.hdl
              else (s.updWave v.hdl (·.hostSays page (some .hostpending))).wakeUp v.hdl
            | .error => (s.updWave v.hdl (·.hostSays page (some .hostrefused))).wakeUp v.hdl)
         | _ => s)

/-- Page requests of a die that the host has been sent before one: at most 512 are outstanding at a time (R402). -/
def State.requestsBefore (s : State) (die seq : Nat) : Nat :=
  (s.allWaves.filter fun w =>
    match w.await with
    | .pri d _ n => decide (d = die) && decide (n < seq)
    | _ => false).length

/-- The page request of a wave has failed: what it left unfinished is refused (R26). -/
def Wave.pageRefused (w : Wave) (page : Nat) : Wave :=
  if w.unfKind = .fetch then { w with told := some (BitVec.ofNat 64 (65536 * page), .hostrefused) }
  else
    { w with asked := w.asked.map fun a =>
        match a with
        | .no f => .no (if f.cause = .hostpending then { f with cause := .hostrefused } else f)
        | .may _ => a }

/-- The response to a page request of the wave `h`: on success its lanes are checked afresh and ask again, else they are refused
(R26, R39). A request that has not been sent yet gets none (R402). -/
def execPriResponse (s : State) : Host.Outcome State Fault Refusal :=
  .next
    (match s.findWave s.inp.h with
     | none => s
     | some v =>
       match v.await with
       | .pri die page n =>
         if v.due || decide (512 ≤ s.requestsBefore die n) then s
         else if !s.inp.ok then (s.updWave v.hdl (·.pageRefused page)).wakeUp v.hdl
         else
           let p := s.hostPage die v.proc page
           let drop : AtcEntry → Bool := fun e =>
             decide (e.die = die) && decide (e.proc = v.proc) && decide (p.map (·.1) = some e.page)
           (({ s with atc := s.atc.filter fun e => !drop e } : State).updWave v.hdl fun w => { w with asked := [] }).wakeUp v.hdl
       | _ => s)

/-- An invalidation of host pages from `pa`, `size` bytes: its completion goes out once every lease that led to one of them
has ended, as with a downgrade; no cached translation is recalled. Invalidations that are over complete (R29, R31, R33). -/
def execAtsInvalidation (s : State) : Host.Outcome State Fault Refusal :=
  let die := s.inp.die
  let first := s.inp.pa / 65536
  let n := (s.inp.size + 65535) / 65536
  let ended := s.invals.filter fun i => decide (s.nowOf i.1 ≥ i.2.2.2)
  let s' : State := if ended = [] then s else
    { s.drainAll with invals := s.invals.filter fun i => !decide (s.nowOf i.1 ≥ i.2.2.2) }
  .next
    (if n = 0 then s'
     else { s' with invals := s'.invals ++ [(die, first, n, max (s.nowOf die) (s.hostHorizon first n + 2))] })

/-- Leases that have ended leave the caches; nothing used them any more (R27). -/
def execLeaseExpiry (s : State) : Host.Outcome State Fault Refusal :=
  .next { s with tlb := s.tlb.filter fun t => decide (s.nowOf t.die < t.expiry),
                 atc := s.atc.filter fun e => decide (s.nowOf e.die < e.expiry) }

/-! ### Replies to parked waves (R39, R230, R364) -/

/-- A wave is parked on a fault, a trap or MC_ECC, and has not been answered. -/
def Wave.awaitsReply (w : Wave) : Bool :=
  decide (w.st = .parked) && !w.due &&
    (match w.await with
     | .faultReply => true
     | .trapReply _ => true
     | .eccReply => true
     | _ => false)

/-- A wave is parked in SVC. -/
def Wave.inService (w : Wave) : Bool :=
  decide (w.st = .parked) && !w.due &&
    (match w.await with
     | .svcReply _ _ => true
     | _ => false)

/-- The wave that a reply names. -/
def State.replied (s : State) (b : List Byte) : Option Wave := s.findWave (BitVec.ofNat 32 (natAt b 16 4))

/-- A fault reply performed, or its refusal (R364). -/
def State.faultReplied (s : State) (b : List Byte) : State × Nat :=
  match s.replied b with
  | none => (s, 3)
  | some w =>
    let npc := BitVec.ofNat 64 (natAt b 24 8)
    let act := natAt b 20 1
    if !w.awaitsReply then (s, 3)
    else if natAt b 21 3 ≠ 0 ∨ (w.await = .faultReply ∧ npc ≠ 0#64) then (s, 1)
    else if npc.toNat % 4 ≠ 0 then (s, 2)
    else if act = 0 then (s.resumeWave w npc, 0)
    else if act = 1 then (s.kill w.hdl, 0)
    else (s, 4)

/-- A reply on the service port of the die to a wave parked on a fault, a trap or MC_ECC; one to a wave parked in SVC is
passed on (R364). -/
def execFaultReply (s : State) : Host.Outcome State Fault Refusal :=
  let die := s.inp.die
  .next
    (match s.peekRole die .service with
     | none => s
     | some b =>
       if (s.replied b).any (·.inService) then s.oweIn .svcReply { die := die }
       else
         match s.takeRole die .service with
         | none => s
         | some (s, b, _) =>
           match s.faultReplied b with
           | (s, r) => s.answer die b r)

/-- The results of a service call in the lanes that made it (R230). -/
def Wave.serviceResults (w : Wave) (c : BitVec 8) (act : Word) (res : List Byte) : Wave :=
  ((upto (lanesOf act).length).zip (lanesOf act)).foldl
    (fun (w : Wave) e =>
      (upto 4).foldl (fun (w : Wave) i => w.setV (c.toNat + i) e.2 (BitVec.ofNat 32 (natAt res (16 * e.1 + 4 * i) 4))) w) w

/-- A service reply performed, or its refusal (R230). -/
def State.serviceReplied (s : State) (w : Wave) (c : BitVec 8) (act : Word) (b : List Byte) : State × Nat :=
  let res := natAt b 24 8
  let action := natAt b 20 1
  if natAt b 21 1 ≥ 2 ∨ natAt b 22 2 ≠ 0 ∨ natAt b 32 32 ≠ 0 then (s, 1)
  else if action = 1 then (s.kill w.hdl, 0)
  else if action ≠ 0 then (s, 4)
  else
    let go : State → List Byte → State × Nat := fun s l =>
      let s := s.updWave w.hdl fun v =>
        ((if res = 0 then v else v.serviceResults c act l).setF (natAt b 21 1 = 1))
      (s.wakeUp w.hdl, 0)
    if res = 0 then go s []
    else
      match s.readImage w.die w.proc w.priv res (16 * (lanesOf act).length) with
      | (s, .error _) => (s, 2)
      | (s, .ok l) => go s l

/-- A reply on the service port of the die to a wave parked in SVC (R230). -/
def execSvcReply (s : State) : Host.Outcome State Fault Refusal :=
  let die := s.inp.die
  .next
    (match s.peekRole die .service with
     | none => s
     | some b =>
       match s.replied b with
       | none => s
       | some w =>
         match w.await with
         | .svcReply c act =>
           if !w.inService then s
           else
             match s.takeRole die .service with
             | none => s
             | some (s, b, _) =>
               match s.serviceReplied w c act b with
               | (s, r) => s.answer die b r
         | _ => s)

/-! ### What was kept pending (R38, R91, R228) -/

/-- Pending messages of a port written while they fit, oldest first; those that remain. -/
def State.sendPending (s : State) (h : Handle) : List Pending → State × List Pending
  | [] => (s, [])
  | q :: t =>
    match s.port h with
    | none => (s, q :: t)
    | some p =>
      if !p.broken && decide (p.load + q.slots.length ≤ p.depth) then
        (s.landSlots h (q.slots.map fun b => (b, plainLanded q.wave (classFrom q.die h)))).sendPending h t
      else (s, q :: t)

/-- The record of a trap or a fault whose port is gone goes to the error log alone; that of a machine check stands there
already (R356, R361). -/
def State.logUnsent (s : State) (q : Pending) : State :=
  let b := q.slots.headD []
  if natAt b 12 1 < 2 then s.logRecord q.die 0 (bytesAt b 16 48) else s

/-- A fault port has taken a message, or is gone: what was pending is sent, or its waves are killed (R38, R356). -/
def execPendingFaultSend (s : State) : Host.Outcome State Fault Refusal :=
  let h := s.inp.h
  let mine := s.pendFaults.filter fun q => decide (q.port = h)
  let rest := s.pendFaults.filter fun q => decide (q.port ≠ h)
  .next
    (match s.port h with
     | none =>
       mine.foldl
         (fun (s : State) q =>
           if (s.findWave q.wave).any (·.awaitsReply) then (s.logUnsent q).kill q.wave else s)
         { s with pendFaults := rest }
     | some _ =>
       let (s, left) := ({ s with pendFaults := rest } : State).sendPending h mine
       { s with pendFaults := s.pendFaults ++ left })

/-- A request ring has room again: pending batches are written (R228). -/
def execSvcBatchPendingWrite (s : State) : Host.Outcome State Fault Refusal :=
  let h := s.inp.h
  let mine := s.pendSvc.filter fun q => decide (q.port = h)
  let rest := s.pendSvc.filter fun q => decide (q.port ≠ h)
  .next
    (let (s, left) := ({ s with pendSvc := rest } : State).sendPending h mine
     { s with pendSvc := s.pendSvc ++ left })

/-- Breaks of counters whose path is up again are performed (R91). -/
def execPendingBreakPerform (s : State) : Host.Outcome State Fault Refusal :=
  let up : PendBreak → Bool := fun b => s.pathUp 0 b.pkg || s.pathUp 1 b.pkg
  .next
    ((s.pendBreaks.filter up).foldl (fun (s : State) b => s.ctrBreak b.key b.st)
      { s with pendBreaks := s.pendBreaks.filter fun b => !up b })

/-! ### Copies of code (R209) -/

/-- The walk of a write to a code frame: the copy, and the leaf that names it (R209). -/
def execCodeCopyOnWrite (s : State) : Host.Outcome State Fault Refusal :=
  .next (s.walkLease s.inp.die s.inp.h true s.inp.pa).1

/-! ### Launches by message (R339) -/

/-- The status of a launch refusal (R339). -/
def launchStatus : Nat → Nat
  | 0 => 0 | 1 => 1 | 2 => 2 | 3 => 6 | 4 => 2 | 5 => 5 | _ => 3

/-- A launch is authorised: by the host, by a wave of the process, or by a privileged wave of the process that created
it; the answer says whether the launcher counts as privileged (R339). -/
def launchBy (p : Proc) (m : Landed) : Option Bool :=
  if m.cls ≥ 2 then none
  else if m.sender = 0#32 then some true
  else if m.sproc = p.hdl then some m.spriv
  else if m.spriv && decide (p.parent = m.sproc) then some true
  else none

/-- A launch message of a die's root port performed, or its refusal. -/
def State.launchMessage (s : State) (die : Nat) (b : List Byte) (m : Landed) : State × Nat :=
  let jc := bits (natAt b 13 1) 5 1 = 1
  if natAt b 20 4 ≠ 0 ∨ natAt b 32 16 ≠ 0 ∨ (!jc && decide (natAt b 48 16 ≠ 0)) then (s, 1)
  else
    match s.proc (BitVec.ofNat 32 (natAt b 16 4)) with
    | none => (s, 3)
    | some p =>
      match launchBy p m with
      | none => (s, 6)
      | some priv =>
        match s.launch die p.hdl 0#32 priv (natAt b 24 8) with
        | (s, r) => (s, launchStatus r)

/-- The HKU takes a message of a die's root port (R339). -/
def execRootPortLaunch (s : State) : Host.Outcome State Fault Refusal :=
  let die := s.inp.die
  .next
    (match s.takeRole die .root with
     | none => s
     | some (s, b, m) =>
       match s.launchMessage die b m with
       | (s, r) => s.answer die b r)

end Sys2Proof.Machine
end

