-- ==== Sys2Proof/Machine/Mask.lean ====
section
/-! DEFINITION. Mask instructions (08 R221). -/

namespace Sys2Proof.Machine

/-- A mask instruction: a 32-bit result, zero-extended, with Z and N of it (R213, R221). -/
def maskOp (r : Word → Word → Word) (a b c : BitVec 8) (s : State) : Host.Outcome State Fault Refusal :=
  let v := r (s.readMask b) (s.readMask c)
  .next (uniformWork .parity 4 (fun w => (w.flagsMask v).writeU a (v.setWidth 64)) s)

def execKand (a b c : BitVec 8) (s : State) : Host.Outcome State Fault Refusal := maskOp (· &&& ·) a b c s
def execKor (a b c : BitVec 8) (s : State) : Host.Outcome State Fault Refusal := maskOp (· ||| ·) a b c s
def execKxor (a b c : BitVec 8) (s : State) : Host.Outcome State Fault Refusal := maskOp (· ^^^ ·) a b c s
def execKnot (a b : BitVec 8) (s : State) : Host.Outcome State Fault Refusal := maskOp (fun x _ => ~~~x) a b b s
def execKmov (a b : BitVec 8) (s : State) : Host.Outcome State Fault Refusal := maskOp (fun x _ => x) a b b s

def execKpop (a b : BitVec 8) (s : State) : Host.Outcome State Fault Refusal :=
  let x := s.readMask b
  .next (uniformWork .parity 4
    (fun w => (w.flagsCount x).writeU a (BitVec.ofNat 64 (popCount 32 x.toNat))) s)

/-- The position of the lowest set bit, 32 where there is none (R221). -/
def firstBit (x : Word) : Nat := ((upto 32).find? fun i => x.getLsbD i).getD 32

def execKfirst (a b : BitVec 8) (s : State) : Host.Outcome State Fault Refusal :=
  let x := s.readMask b
  .next (uniformWork .parity 4 (fun w => (w.flagsCount x).writeU a (BitVec.ofNat 64 (firstBit x))) s)

end Sys2Proof.Machine
end

