-- ==== Sys2Proof/Machine/Tile.lean ====
section
/-! DEFINITION. Moving, converting, pruning, reducing and scaling tiles (11 R302 to R308). -/

namespace Sys2Proof.Machine

/-! ### TLD and TST (R302) -/

/-- The panel of a tile selector, and whether it names the whole tile. -/
def selPanel (a : BitVec 8) : Nat := (a.extractLsb' 0 3).toNat
def selWhole (a : BitVec 8) : Bool := a.getLsbD 7

/-- Bytes of a row, and the byte of a tile row at which it stands. -/
def selBytes (a : BitVec 8) : Nat := if selWhole a then 512 else 64
def selCol (a : BitVec 8) : Nat := if selWhole a then 0 else 64 * selPanel a

/-- A piece of a row that lies in one page: its row, its place in the row, its length and its access. -/
structure Piece where
  at_ : Nat
  len : Nat
  acc : Acc
deriving DecidableEq, Repr

/-- The offset of row `r` (R302). -/
def State.rowOff (s : State) (c : BitVec 8) (x : MemExt) (r : Nat) : Int :=
  let v := s.readU c
  ((v >>> 32).setWidth 32 : Word).toInt + 16 * x.imm.toInt + r * (v.toNat % 2 ^ 32)

/-- The access of a row. -/
def State.rowAcc (s : State) (f : Form) (c : BitVec 8) (x : MemExt) (r : Nat) : Acc :=
  let o := s.rowOff c x r
  ⟨r, o, if f.sp then BitVec.ofInt 64 o else xVbase (s.wave.getX f.xreg) + BitVec.ofInt 64 o⟩

/-- A row cut where a page ends. -/
def rowPieces (a : Acc) (n : Nat) : List Piece :=
  let room := 65536 - a.va.toNat % 65536
  if n ≤ room then [⟨0, n, a⟩]
  else [⟨0, room, a⟩, ⟨room, n - room, ⟨a.pos, a.off + room, a.va + BitVec.ofNat 64 room⟩⟩]

/-- Every piece translated, in order: those that translated, and the faults of the others. -/
def State.translatePieces (s : State) (f : Form) : List Piece → State × List (Piece × Except FaultAt Hit)
  | [] => (s, [])
  | p :: t =>
    let (s, r) :=
      if f.sp then (s, .ok ⟨p.acc.pos, p.acc.va, spKey s.wave.team p.acc.off.toNat, 0, 0, 0, 0, false⟩)
      else s.translateAcc { f with size := p.len } p.acc
    let (s, rest) := s.translatePieces f t
    (s, (p, r.mapError (fun c => ⟨p.acc.pos, p.acc.va, c⟩)) :: rest)

/-- The pieces whose accesses may be made. -/
def piecesOk : List (Piece × Except FaultAt Hit) → List (Piece × Hit)
  | [] => []
  | (p, .ok h) :: t => (p, h) :: piecesOk t
  | (_, .error _) :: t => piecesOk t

/-- The checks of a tile move in their order, the rows in the place of lanes; with a fault no row is performed. An injected
failure is taken to be one of the parity that R371 names for the instruction, not of its address (log entry 46). -/
def State.tileRows (s : State) (f : Form) (c : BitVec 8) (x : MemExt) (n : Nat)
    (act : State → List (Piece × Hit) → State) : State :=
  s.sound .residue 3 2 none fun s => s.checked .parity 7 2 none fun s =>
    let rows := (upto 128).map (s.rowAcc f c x)
    match rows.find? fun a => a.va.toNat % 16 != 0 with
    | some a => s.trapAt .align 0 0xFF a.va
    | none =>
      match (if f.sp then rows.find? fun a => !s.inGrant { f with size := n } a else none) with
      | some a => s.trapAt .pageNp Cause.spbound.code 0xFF a.va
      | none =>
        let pieces := rows.flatMap fun a => rowPieces a n
        let (s, rs) :=
          if s.wave.asked = [] then (if f.sp then s else s.rewalk f.xreg).translatePieces f pieces
          else (s.onWave fun w => { w with asked := [] }, pieces.zip (s.wave.asked.map Asked.result))
        match (if f.kind.writes && !f.sp then (piecesOk rs).find? fun h => h.2.type = 1 else none) with
        | some h => s.trapAt .ctrStore 0 0xFF h.2.va
        | none =>
          let sent := rs.map fun r => (r.1, r.2.bind (s.sendOn f))
          let faults := errOf (sent.map (·.2))
          match faults.find? (·.cause = .hostmiss) with
          | some e => s.askHost e f.kind.writes (List.zipWith Asked.of (rs.map (·.2)) (sent.map (·.2)))
          | none =>
            if faults = [] then act s (piecesOk sent)
            else if faults.any (·.cause = .quota) then s.trap .objQuota
            else s.takePageFault faults 0#32 .uniform f.kind.writes true

def tileForm (kind : Kind) (b c : BitVec 8) (x : MemExt) : Form :=
  { uni := true, size := 16, kind := kind, base := b, offs := c, imm := x.imm }

/-- Bytes read at pieces, put in their places in rows of `n` bytes. -/
def gatherRows (n : Nat) (got : List (Piece × List Byte)) (r : Nat) : List Byte :=
  got.foldl (fun l e => if e.1.acc.pos = r then setBytes l e.1.at_ e.2 else l) (List.replicate n 0#8)

/-- The bytes that a read on path `mt` finds: those at the home, for that path leaves nothing in an L1 (R97, R116). -/
def State.rowBytes (s : State) (h : Hit) (n : Nat) : List Byte :=
  s.wave.overlay h.key (if h.dev then s.devRead h.key n else s.readBytes (h.type = 2) h.key n)

/-- The first sector in error that a piece of a row meets at its home. -/
def State.rowPoison (s : State) (h : Piece × Hit) : Option Nat :=
  (sectorsOf h.2.key h.1.len).find? fun q => s.meets false h.2.key h.1.len q

/-- TLD: every row is read before the tile is written; a sector in error is a machine check that writes nothing. -/
def execTld (sel base c : BitVec 8) (x : MemExt) (s : State) : Host.Outcome State Fault Refusal :=
  let f := tileForm .load base c x
  let t := selTile sel
  let n := selBytes sel
  .next (s.perform { budget := s.wave.tileOk t } fun s =>
    (s.waitSlots x.slots).interlock [t] fun s =>
      s.tileRows f c x n fun s hits =>
        match (if s.poison = [] then none else hits.findSome? s.rowPoison) with
        | some q => s.takeEcc 0xFF q 2
        | none =>
          let got := hits.map fun h => (h.1, s.rowBytes h.2 h.1.len)
          let s := s.acquire s.wave.coreNo (acqWide f x)
          let s := s.onWave fun w =>
            if selWhole sel then w.setRows t (gatherRows n got) else w.setPanel t (selPanel sel) (gatherRows n got)
          s.finish f x.slots [])

/-- A piece's bytes by sixteens, each with the number of its record, rows ascending (R376; log entry 22). -/
def pieceCells (n : Nat) (p : Piece) (h : Hit) (data : List Byte) : List (Hit × List Byte) :=
  (upto (p.len / 16)).map fun j =>
    ({ h with pos := p.acc.pos * (n / 16) + p.at_ / 16 + j, va := h.va + BitVec.ofNat 64 (16 * j), key := h.key + 16 * j },
      (data.drop (16 * j)).take 16)

/-- The writes of a TST: a side of a redundant pair makes their records, holds them back unless they are to scratchpad,
and makes a release as an operation that happens once (R376, R377; log entry 22). -/
def State.storeRows (s : State) (f : Form) (x : MemExt) (n : Nat) (cells : List (Piece × Hit × List Byte)) : State :=
  let put : State → State := fun s =>
    s.storeAll State.storeHome (fun _ => false) (cells.map (·.2))
  let all : State → State := fun s => s.releaseThen f x true fun s => (put s).finish f x.slots []
  match s.wave.pair with
  | none => all s
  | some _ =>
    let parts := cells.flatMap fun c => pieceCells n c.1 c.2.1 c.2.2
    let recs := parts.map fun c => writeRec (c.1.va.toNat + if f.sp then 2 ^ 63 else 0) c.2
    if isRel x.order then s.once (if f.sp then .each else .once) recs all
    else
      let pc := s.wave.pc
      let s := if f.sp then put s
        else s.onPair fun p => { p with held := p.held ++ parts.map fun c => ⟨c.1.key, c.2, c.1.pos, []⟩ }
      (s.finish f x.slots []).recorded pc (upto recs.length) recs

/-- TST: rows of the tile written at their homes. -/
def execTst (sel base c : BitVec 8) (x : MemExt) (s : State) : Host.Outcome State Fault Refusal :=
  let f := tileForm .store base c x
  let t := selTile sel
  let n := selBytes sel
  .next (s.perform { budget := s.wave.tileOk t } fun s =>
    (s.waitSlots x.slots).interlock [t] fun s =>
      s.tileRows f c x n fun s hits =>
        s.storeRows f x n (hits.map fun h =>
          (h.1, h.2, ((s.wave.tileRow t h.1.acc.pos).drop (selCol sel + h.1.at_)).take h.1.len)))

/-! ### TZERO, TMOVV and VMOVT (R303, R304) -/

/-- A tile instruction of `n` bytes behind its checks: what it needs, interlock, the check, the work. -/
def tileWork (cls : Check) (unit : Nat) (need : Need) (tiles : List Nat) (lanes : Bool) (n : Nat)
    (f : Wave → Wave) (s : State) : Host.Outcome State Fault Refusal :=
  .next (s.perform need fun s =>
    s.interlock tiles fun s =>
      s.checked cls unit 0 (if lanes then some s.wave.lanes else none) fun s => (s.onWave f).next n)

def execTzero (sel : BitVec 8) (s : State) : Host.Outcome State Fault Refusal :=
  let t := selTile sel
  tileWork .parity 7 { budget := s.wave.tileOk t } [t] false 4
    (fun w =>
      if selWhole sel then { w with tile := Sparse.clear w.tile (65536 * t) (65536 * t + 65536) }
      else
        let from_ : Nat → Nat := fun r => 65536 * t + 512 * r + 64 * selPanel sel
        { w with tile := (upto 128).foldl (fun d r => Sparse.clear d (from_ r) (from_ r + 64)) w.tile }) s

/-- The place of D that register `h`, `j`, lane `l` exchanges with. -/
def movePlace (index : BitVec 7) (col : Bool) (h j l : Nat) : Nat × Nat :=
  if col then (32 * j + l, index.toNat + h) else (index.toNat + h, 32 * j + l)

/-- The registers and lanes of a move. -/
def moveCells (n : BitVec 2) (lanes : List Nat) : List (Nat × Nat × Nat) :=
  (upto (2 ^ n.toNat)).flatMap fun h => (upto 4).flatMap fun j => lanes.map fun l => (h, j, l)

def execTmovv (a b : BitVec 8) (index : BitVec 7) (col : Bool) (n : BitVec 2) (s : State) :
    Host.Outcome State Fault Refusal :=
  let t := codeTile b
  tileWork .parity 7
    { budget := s.wave.tileOk t && s.wave.groupOk (4 * 2 ^ n.toNat) a, writes := (a, 4 * 2 ^ n.toNat) } [t] true 8
    (fun w =>
      (moveCells n w.lanes).foldl
        (fun (v : Wave) e =>
          let p := movePlace index col e.1 e.2.1 e.2.2
          v.setV (a.toNat + 4 * e.1 + e.2.1) e.2.2 (w.tileWord t p.1 p.2)) w) s

/-- A word of a tile written. -/
def Wave.setTileWord (w : Wave) (t m n : Nat) (v : Word) : Wave :=
  { w with tile := Sparse.putList 0#8 w.tile (65536 * t + 512 * m + 4 * n) (bytesOfNat 4 v.toNat) }

def execVmovt (a b : BitVec 8) (index : BitVec 7) (col : Bool) (n : BitVec 2) (s : State) :
    Host.Outcome State Fault Refusal :=
  let t := codeTile a
  tileWork .parity 7 { budget := s.wave.tileOk t && s.wave.groupOk (4 * 2 ^ n.toNat) b } [t] true 8
    (fun w =>
      (moveCells n w.lanes).foldl
        (fun (v : Wave) e =>
          let p := movePlace index col e.1 e.2.1 e.2.2
          v.setTileWord t p.1 p.2 (w.getV (b.toNat + 4 * e.1 + e.2.1) e.2.2)) w) s

/-! ### TCVT (R305) -/

end Sys2Proof.Machine

namespace Sys2Proof

open Machine (Fmt)

/-- The float format of a format code of TCVT. -/
def TcvtFmt.fmt : TcvtFmt → Option Fmt
  | .e4m3 => some Fmt.e4m3
  | .e5m2 => some Fmt.e5m2
  | .e3m2 => some Fmt.e3m2
  | .e2m3 => some Fmt.e2m3
  | .e2m1 => some Fmt.e2m1
  | .bf16 => some Fmt.bf16
  | .f16 => some Fmt.f16
  | .i8 => none

/-- emax (R305). -/
def TcvtFmt.emax : TcvtFmt → Int
  | .e4m3 => 8
  | .e5m2 => 15
  | .e3m2 => 4
  | _ => 2

/-- The rounding codes of TCVT in the terms of R187. -/
def TRnd.mode : TRnd → Nat
  | .rne => 0
  | .rtz => 1
  | .rna => 4
  | .sto => 5

end Sys2Proof

namespace Sys2Proof.Machine

/-- floor(log2) of a finite magnitude that is not zero. -/
def FVal.log2Floor : FVal → Option Int
  | .num _ m e => if m = 0 then none else some (e + Nat.log2 m)
  | _ => none

/-- The scale of a block (R305). -/
def blockScale (fmt : TcvtFmt) (vals : List FVal) : Nat :=
  match vals.filterMap FVal.log2Floor with
  | [] => 127
  | l :: t => (min (max (t.foldl max l - fmt.emax + 127) 0) 254).toNat

/-- One element converted (R305). -/
def tileConvert (fmt : TcvtFmt) (sc sat isrc : Bool) (rn : Rnd) (x e : Nat) : Nat :=
  match fmt.fmt with
  | none =>
    if isrc then EType.i8.fit sat (EType.i32.toInt x)
    else EType.i8.clamp rn (Fmt.f32.decode x)
  | some f =>
    if fmt.scalable then encodeElem f false { rn with sat := sat || sc } x e
    else convertFloat f sat { rn with sat := sat } (Fmt.f32.decode x)

/-- The scale of block `b` of row `m`. -/
def Wave.tileScale (w : Wave) (fmt : TcvtFmt) (t m b : Nat) : Nat :=
  blockScale fmt ((upto 32).map fun i => Fmt.f32.decode (w.tileWord t m (32 * b + i)).toNat)

/-- The bytes of a K-major panel row from its elements. -/
def packRow (fmt : TcvtFmt) (l : List Nat) : List Byte :=
  if fmt = .e2m1 then
    (upto (l.length / 2)).map fun i => BitVec.ofNat 8 (l.getD (2 * i) 0 % 16 + 16 * (l.getD (2 * i + 1) 0 % 16))
  else if fmt.panels = 4 then l.flatMap fun v => bytesOfNat 2 v
  else l.map fun v => BitVec.ofNat 8 v

/-- The row of the destination tile: G panels from panel `p` hold the converted row of the source. -/
def Wave.convertRow (w : Wave) (src : Nat) (fmt : TcvtFmt) (sc sat isrc : Bool) (rnd : TRnd) (m : Nat) :
    List Byte :=
  let vals := (upto 128).map fun n =>
    let e := if sc then w.tileScale fmt src m (n / 32) else 127
    let r := if rnd = .sto then stoHash w.seed (w.threadId 0).toNat (128 * m + n) else 0
    tileConvert fmt sc sat isrc ⟨rnd.mode, r, false⟩ (w.tileWord src m n).toNat e
  packRow fmt vals

def execTcvt (a b c : BitVec 8) (fmt : TcvtFmt) (scaled : Bool) (p : BitVec 3) (sat : Bool) (rnd : TRnd)
    (isrc : Bool) (s : State) : Host.Outcome State Fault Refusal :=
  let d := codeTile a
  let t := codeTile b
  .next (s.perform { budget := s.wave.tileOk d && s.wave.tileOk t } fun s =>
    s.interlock [d, t] fun s =>
      let off := if scaled then (s.readU c).toNat else 0
      let grant := (s.myTeam.map fun t => t.units * 16384).getD 0
      s.checked .residue 6 0 none fun s =>
        if scaled && decide (grant < off + 512) then s.trapAt .pageNp Cause.spbound.code 0xFF (BitVec.ofNat 64 off)
        else
          let w := s.wave
          let s :=
            if scaled then
              let scales := (upto 128).flatMap fun m =>
                (upto 4).map fun j => (BitVec.ofNat 8 (w.tileScale fmt t m j) : Byte)
              s.writeBytes (spKey w.team off) scales
            else s
          (s.onWave fun w =>
            let old : Nat → List Byte := fun r => w.tileRow d r
            w.setRows d fun m =>
              setBytes (old m) (64 * p.toNat) (w.convertRow t fmt scaled sat isrc rnd m)).next 8)

/-! ### TPRUNE (R306) -/

/-- The rank of an element: NaN above every number, else its magnitude. -/
def rankBelow (x y : FVal) : Bool :=
  match x, y with
  | .nan, _ => false
  | _, .nan => true
  | x, y => (x.negIf x.negative).lt (y.negIf y.negative)

/-- The index of the highest rank among some indexes, the lowest among equals. -/
def topRank (vals : List FVal) : List Nat → Nat
  | [] => 0
  | i :: t => t.foldl (fun best j => if rankBelow (vals.getD best .nan) (vals.getD j .nan) then j else best) i

/-- The two elements kept of a group of four: their indexes in ascending order. -/
def keepTwo (vals : List FVal) : Nat × Nat :=
  let i := topRank vals [0, 1, 2, 3]
  let j := topRank vals ([0, 1, 2, 3].filter (· ≠ i))
  (min i j, max i j)

/-- The bits that the device writes of an element: 6-bit ones without the bits above (R284). -/
def storedBits (code v : Nat) : Nat := if code = 2 ∨ code = 3 then v % 64 else v

/-- A row of logical elements pruned: the output elements and the nibbles. -/
def pruneRow (code : Nat) (elems : List Nat) : List Nat × List Nat :=
  let groups := (upto (elems.length / 4)).map fun g => (elems.drop (4 * g)).take 4
  let kept := groups.map fun g => (g, keepTwo (g.map (mValue code)))
  (kept.flatMap fun k => [storedBits code (k.1.getD k.2.1 0), storedBits code (k.1.getD k.2.2 0)],
    kept.map fun k => k.2.1 + 4 * k.2.2)

/-- Pairs of nibbles as bytes, the first lowest. -/
def nibbleBytes (l : List Nat) : List Byte :=
  (upto ((l.length + 1) / 2)).map fun i => BitVec.ofNat 8 (l.getD (2 * i) 0 % 16 + 16 * (l.getD (2 * i + 1) 0 % 16))

/-- The bytes of a panel row from elements of a format code. -/
def packCode (code : Nat) (l : List Nat) : List Byte :=
  if code = 4 then nibbleBytes l
  else if code = 6 ∨ code = 7 then l.flatMap fun v => bytesOfNat 2 v
  else l.map fun v => BitVec.ofNat 8 v

/-- The pruned panel and its metadata (R306). Where both are one panel, of which the manual says nothing, the metadata is
written after the output (log entry 45). -/
def Wave.prune (w : Wave) (a b c : BitVec 8) (code mq : Nat) : Wave :=
  let half := ((mClass code).getD .f8).depth
  let src : Nat → List Nat := fun i =>
    (upto (2 * half)).map fun k =>
      mBits (w.panelByte (MOpnd.tile b).toNat ((MOpnd.panel b).toNat + k / half)) code false i (k % half)
  let rows := (upto 128).map fun i => pruneRow code (src i)
  let row : Nat → List Nat × List Nat := fun i => rows.getD i ([], [])
  let w := w.setPanel (MOpnd.tile a).toNat (MOpnd.panel a).toNat fun i => packCode code (row i).1
  let t := (MOpnd.tile c).toNat
  let p := (MOpnd.panel c).toNat
  let old : Nat → List Byte := fun i => w.tileRow t i
  w.setRows t fun i => setBytes (old i) (64 * p + 16 * mq) (nibbleBytes (row i).2)

def execTprune (a b c : BitVec 8) (fmt : BitVec 4) (mq : BitVec 2) (s : State) :
    Host.Outcome State Fault Refusal :=
  let tiles := [(MOpnd.tile a).toNat, (MOpnd.tile b).toNat, (MOpnd.tile c).toNat]
  tileWork .parity 7 { budget := tiles.all s.wave.tileOk } tiles false 8 (fun w => w.prune a b c fmt.toNat mq.toNat) s

/-! ### TREDMX, TREDSM and TSCL (R307, R308) -/

/-- The values of a row's block, in ascending n. -/
def Wave.rowVals (w : Wave) (t m from_ n : Nat) : List FVal :=
  (upto n).map fun i => Fmt.f32.decode (w.tileWord t m (from_ + i)).toNat

/-- A fold from the first element on. -/
def foldFrom (f : FVal → FVal → FVal) : List FVal → FVal
  | [] => .nan
  | v :: t => t.foldl f v

/-- One step of TREDSM: rounded to f32. -/
def addF32 (x y : FVal) : FVal := Fmt.f32.decode (Fmt.f32.round Rnd.rne (FVal.add false x y))

/-- A tile reduced along its rows into the active lanes of the destination (R307). -/
def Wave.reduceTile (w : Wave) (a : BitVec 8) (t : Nat) (b32 : Bool) (f : List FVal → FVal) : Wave :=
  let blocks := if b32 then 4 else 1
  let width := 128 / blocks
  let cells := (upto 128).flatMap fun m => (upto blocks).map fun c => (m, c)
  cells.foldl
    (fun (v : Wave) e =>
      if w.activeMask.getLsbD (e.1 % 32) then
        v.setV (a.toNat + 4 * e.2 + e.1 / 32) (e.1 % 32)
          (BitVec.ofNat 32 (Fmt.f32.round Rnd.rne (f (w.rowVals t e.1 (width * e.2) width))))
      else v) w

def redNeed (s : State) (a b : BitVec 8) (b32 : Bool) : Need :=
  let n := if b32 then 16 else 4
  { budget := s.wave.tileOk (codeTile b) && s.wave.groupOk n a, writes := (a, n) }

def execTredmx (a b : BitVec 8) (b32 abs : Bool) (s : State) : Host.Outcome State Fault Refusal :=
  tileWork .residue 6 (redNeed s a b b32) [codeTile b] true 8
    (fun w => w.reduceTile a (codeTile b) b32 fun l =>
      foldFrom FVal.maxNum (if abs then l.map fun v => v.negIf v.negative else l)) s

def execTredsm (a b : BitVec 8) (b32 : Bool) (s : State) : Host.Outcome State Fault Refusal :=
  tileWork .residue 6 (redNeed s a b b32) [codeTile b] true 8
    (fun w => w.reduceTile a (codeTile b) b32 (foldFrom addF32)) s

/-- An element scaled, with one rounding (R247, R308). -/
def scaleElem (d f g : Nat) : Nat :=
  Fmt.f32.round Rnd.rne
    (FVal.add false ((Fmt.f32.decode d).mul (Fmt.f32.decode f)) (Fmt.f32.decode g))

def execTscl (a b : BitVec 8) (col add : Bool) (s : State) : Host.Outcome State Fault Refusal :=
  let t := codeTile a
  tileWork .residue 6 { budget := s.wave.tileOk t && s.wave.groupOk (if add then 8 else 4) b } [t] false 8
    (fun w =>
      let coef : Nat → Nat → Nat := fun r i => (w.getV (b.toNat + r + i / 32) (i % 32)).toNat
      w.setWords t fun m n =>
        let i := if col then n else m
        scaleElem (w.tileWord t m n).toNat (coef 0 i) (if add then coef 4 i else 0)) s

end Sys2Proof.Machine
end

