-- ==== Sys2Proof/Machine/Matrix.lean ====
section
/-! DEFINITION. Issuing MMA and MMAS, closing batches and waiting on them (11 R293 to R301). -/

namespace Sys2Proof.Machine

/-- The four registers of the format block, read at issue (R293). -/
structure FormatBlock where
  w0 : Nat
  w1 : Nat
  w2 : Nat
  w3 : Nat

def Wave.formatBlock (w : Wave) (fb : BitVec 6) : FormatBlock :=
  let g : Nat → Nat := fun i => (w.getS (fb.toNat + i)).toNat
  ⟨g 0, g 1, g 2, g 3⟩

def FormatBlock.fmta (f : FormatBlock) : Nat := bits f.w0 0 4
def FormatBlock.fmtb (f : FormatBlock) : Nat := bits f.w0 4 4
def FormatBlock.blka (f : FormatBlock) : Nat := bits f.w0 8 2
def FormatBlock.blkb (f : FormatBlock) : Nat := bits f.w0 10 2
def FormatBlock.isat (f : FormatBlock) : Bool := f.w0.testBit 12
def FormatBlock.sca (f : FormatBlock) : Nat := bits f.w2 0 22
def FormatBlock.scb (f : FormatBlock) : Nat := bits f.w3 0 22

/-- A block code fits its class and the logical depth (R294). -/
def blockOk (c : MClass) (depth blk : Nat) : Bool :=
  c.allows blk && (blk == 0 || decide (16 * 2 ^ blk ≤ depth))

/-- The class of an operation whose format block passes every check of R294. -/
def FormatBlock.check (f : FormatBlock) (sparse : Bool) : Option MClass :=
  match mClass f.fmta, mClass f.fmtb with
  | some c, some d =>
    let depth := c.depth * (if sparse then 2 else 1)
    if f.w0 / 2 ^ 13 = 0 ∧ f.w1 = 0 ∧ f.w2 / 2 ^ 22 = 0 ∧ f.w3 / 2 ^ 22 = 0 ∧ c = d ∧
        (c = .bi → f.fmta = f.fmtb) ∧ blockOk c depth f.blka = true ∧ blockOk c depth f.blkb = true ∧
        (f.isat = true → c = .i8) then some c
    else none
  | _, _ => none

/-- Scale bytes of an operand: 128 rows or columns of depth / L (R295). -/
def scaleCount (depth blk : Nat) : Nat := if blk = 0 then 0 else 128 * (depth / (16 * 2 ^ blk))

/-- An operand lies within the allotment or the budget (R186, R296). -/
def Wave.opndOk (w : Wave) (m : BitVec 8) : Bool :=
  if MOpnd.frag m then decide (8 * (MOpnd.blk m).toNat + 64 ≤ 8 * w.vblk) else w.tileOk (MOpnd.tile m).toNat

/-- The registers of the fragments among two operands, as they stand (R291, R292). -/
def Wave.fragments (w : Wave) (a b : BitVec 8) : Sparse Word :=
  let has : BitVec 8 → Nat → Bool := fun m r =>
    MOpnd.frag m && decide (8 * (MOpnd.blk m).toNat ≤ r) && decide (r < 8 * (MOpnd.blk m).toNat + 64)
  w.v.filter fun e => has a (e.1 / 32) || has b (e.1 / 32)

/-- An MMA takes its place in the queue of its partition's array (R299); where five have not completed, the oldest
completes first. -/
def State.issueMma (s : State) (m : Mma) : State :=
  let queue := s.mmas.filter (·.array = m.array)
  let s := if queue.length ≥ 5 then
      (match queue with
       | q :: _ => s.mmaDone q
       | [] => s)
    else s
  let r := s.resinjOf s.wave.die
  let injected := (s.strikes (some (upto 32))).map fun twice => (rjLane r, twice)
  let arisen := s.upsetAt 6 (some (upto 32))
  let s := if injected.isSome then s.setResinj s.wave.die (r &&& ~~~1#64)
    else if arisen.isSome then { s with upset := none } else s
  let strike := injected.orElse fun _ => arisen
  let (uid, s) := s.newUid
  let s := { s with mmas := s.mmas ++ [{ m with uid := uid, strike := strike }] }
  let s := s.updTeam s.wave.team fun t => { t with busy := t.busy + m.aclk }
  ((s.onWave fun w => { w with openSet := w.openSet ++ [uid] }).owe (.mmaComplete uid)).next 8

/-- MMA and MMAS: the checks of R195, then FMT_BAD, then the scales' bound, then the issue (R296, R298). The manual does not
say what scale bytes in a poisoned scratchpad sector do: R65 speaks of lane loads, engines, stores and reductions; the bytes that
stand there are taken (log entry 45). -/
def mmaIssue (a b c : BitVec 8) (fb : BitVec 6) (ta tb ovw sparse : Bool) (metaP mq : Nat) (s : State) :
    Host.Outcome State Fault Refusal :=
  let w := s.wave
  let f := w.formatBlock fb
  let d := codeTile a
  let odd := sparse && f.fmta == 4 && mq % 2 == 1
  .next (s.perform { budget := w.tileOk d && w.opndOk b && w.opndOk c && (!sparse || w.tileOk (metaP / 8)) && !odd,
                     convention := decide (w.act = BitVec.allOnes 32) } fun s =>
    match f.check sparse with
    | none => s.trap .fmtBad
    | some k =>
      let depth := k.depth * (if sparse then 2 else 1)
      let na := scaleCount depth f.blka
      let nb := scaleCount depth f.blkb
      let grant := (s.myTeam.map fun t => t.units * 16384).getD 0
      if 0 < na ∧ grant < f.sca + na then s.trapAt .pageNp Cause.spbound.code 0xFF (BitVec.ofNat 64 f.sca)
      else if 0 < nb ∧ grant < f.scb + nb then s.trapAt .pageNp Cause.spbound.code 0xFF (BitVec.ofNat 64 f.scb)
      else
        s.waitMmas (s.mmaBlockers s.wave d (mmaSources b c sparse metaP)) fun s => s.issueMma
          { uid := 0, wave := w.hdl, array := w.arrayNo, pc := w.pc, op := s.opcode, d := d, a := b, b := c,
            fmta := f.fmta, fmtb := f.fmtb, blka := f.blka, blkb := f.blkb, isat := f.isat, ta := ta, tb := tb,
            ovw := ovw, sparse := sparse, metaP := metaP, mq := mq, frag := w.fragments b c,
            sa := s.readBytes false (spKey w.team f.sca) na, sb := s.readBytes false (spKey w.team f.scb) nb,
            strike := none })

def execMma (a b c : BitVec 8) (fb : BitVec 6) (ta tb ovw : Bool) (s : State) : Host.Outcome State Fault Refusal :=
  mmaIssue a b c fb ta tb ovw false 0 0 s

def execMmas (a b c : BitVec 8) (fb : BitVec 6) (ta tb ovw : Bool) (mp mt : BitVec 3) (mq : BitVec 2) (s : State) :
    Host.Outcome State Fault Refusal :=
  mmaIssue a b c fb ta tb ovw true (8 * mt.toNat + mp.toNat) mq.toNat s

/-- MCLOSE (R300): the open set becomes a batch, which waits for those of its MMAs that have not completed. -/
def Wave.closeBatch (w : Wave) (running : List Nat) : Wave :=
  let n := w.nb + 1#64
  ({ w with nb := n, batches := w.batches ++ [(n, w.openSet.filter running.contains)], openSet := [] }).settled

def execMclose (a : BitVec 8) (s : State) : Host.Outcome State Fault Refusal :=
  let running := s.mmas.map (·.uid)
  .next ((s.onWave fun w => (w.closeBatch running).writeU a (w.nb + 1#64)).next 4)

/-- MWAIT (R301). -/
def execMwait (b : BitVec 8) (s : State) : Host.Outcome State Fault Refusal :=
  let t := s.readU b
  let ahead := (t - s.wave.nb).toNat
  .next
    (if 1 ≤ ahead ∧ ahead < 2 ^ 63 then
      (s.onWave fun w => ((w.flag 0 false).flag 4 false).flag 5 true).next 4
     else if reached s.wave.mb t then (s.onWave (·.waited)).next 4
     else s.wait (.batch t))

end Sys2Proof.Machine
end

