-- ==== Sys2Proof/Machine/Media.lean ====
section
/-! DEFINITION. The media engines: jobs, rows, references, completion and reset (21 R415 to R424). Engine `n` of the input is
4 × die + e. What the codecs' standards compute is an opaque function of what an engine reads (Config; log entry 20). -/

namespace Sys2Proof.Machine

/-! ### A job's descriptor (R418) -/

/-- A number of the descriptor. -/
def MediaJob.num (j : MediaJob) (o n : Nat) : Nat := natAt j.image o n

def MediaJob.vvc (j : MediaJob) : Bool := j.num 0 1 == 1
def MediaJob.hook (j : MediaJob) : Bool := (j.num 4 1).testBit 0
def MediaJob.conform (j : MediaJob) : Bool := (j.num 4 1).testBit 1
def MediaJob.width (j : MediaJob) : Nat := j.num 8 4
def MediaJob.height (j : MediaJob) : Nat := j.num 12 4
def MediaJob.rowc (j : MediaJob) : DWord := BitVec.ofNat 64 (j.num 56 8)
def MediaJob.refs (j : MediaJob) : Nat := j.num 48 8

/-- A counter of a job is an engine address of tag 0x00 or a reference (R311, R417, R418). -/
def mediaCtrOk (a : DWord) : Bool := bits a.toNat 56 8 == 0 || refTag a == 9

/-- Reserved bytes, or a field out of range (R418, R419, R422). -/
def MediaJob.malformed (j : MediaJob) : Bool :=
  j.num 0 1 > 1 || j.num 1 1 > 1 || !(j.num 2 1 == 8 || j.num 2 1 == 10) || !(j.num 3 1 == 1 || j.num 3 1 == 3) ||
    j.num 4 1 > 3 || j.num 6 2 != 0 || j.num 44 4 != 0 || j.num 78 2 != 0 || j.num 88 8 != 0 || j.num 96 32 != 0 ||
    j.num 40 4 % 128 != 0 || (j.hook && j.conform) ||
    (j.num 80 8 != 0 && (j.vvc || j.op != 0 || !j.conform)) ||
    (if j.hook then !mediaCtrOk j.rowc else j.rowc != 0#64) ||
    (j.op == 0 && j.num 72 4 != 0) || j.num 77 1 > 7

/-- A level above those of R415. -/
def MediaJob.levelAbove (j : MediaJob) : Bool := decide ((if j.vvc then 102 else 19) < j.num 5 1)

/-- Something that the engines do not support, as far as the descriptor says: of an encode outside conformance mode only the
picture's size is judged (R415, R422). -/
def MediaJob.unsupported (j : MediaJob) : Bool :=
  (j.num 3 1 == 3 && j.num 1 1 == 0) || decide (j.width < 16) || decide (16384 < j.width) || decide (j.height = 0) ||
    decide (35651584 < j.width * j.height) || decide ((if j.vvc then 16888 else 8704) < j.height) ||
    ((j.op == 0 || j.conform) && j.levelAbove)

/-- Something that the engines do not support, as far as the stream says, or the limits that an encode is to keep (R415,
R422). -/
def MediaJob.barred (j : MediaJob) : Bool :=
  if j.op = 1 then j.conform && !Config.codecKeeps j.image j.choice else !Config.codecSupports j.image j.stream

/-! ### Picture buffers (R418, R420) -/

/-- A length over a plane: chroma has half of it in 4:2:0. -/
def MediaJob.inPlane (j : MediaJob) (plane n : Nat) : Nat := if plane ≠ 0 ∧ j.num 3 1 = 1 then (n + 1) / 2 else n

/-- The offset of a plane: Y, then Cb, then Cr, of `pitch` bytes a row. -/
def MediaJob.planeAt (j : MediaJob) (plane : Nat) : Nat :=
  j.num 40 4 * ((upto plane).map fun p => j.inPlane p j.height).sum

/-- The bytes of a picture. -/
def MediaJob.planes (j : MediaJob) : Nat := j.planeAt 3

/-- The side area: 64 bytes for each 8 × 8 luma block. -/
def MediaJob.side (j : MediaJob) : Nat := 64 * ((j.width + 7) / 8) * ((j.height + 7) / 8)

/-- The luma rows of a row of superblocks or CTUs (R420). -/
def MediaJob.lines (j : MediaJob) : Nat :=
  let i := Config.codecBlock j.image j.stream j.choice
  if j.vvc then (if i = 0 then 32 else if i = 1 then 64 else 128) else if i = 0 then 64 else 128

/-- The rows of superblocks or CTUs of the picture. -/
def MediaJob.total (j : MediaJob) : Nat := (j.height + j.lines - 1) / j.lines

/-- The samples of a row in every plane: offsets in the buffer and lengths. A sample takes one byte at 8 bits, two at 10. -/
def MediaJob.spans (j : MediaJob) (row : Nat) : List (Nat × Nat) :=
  (upto 3).flatMap fun p =>
    let n := j.inPlane p j.lines
    ((upto n).map (· + row * n)).filterMap fun y =>
      if y < j.inPlane p j.height then
        some (j.planeAt p + y * j.num 40 4, j.inPlane p j.width * (if j.num 2 1 = 8 then 1 else 2))
      else none

/-- What is written of a row: its samples, and with the last row the side area. -/
def MediaJob.written (j : MediaJob) (row : Nat) : List (Nat × Nat) :=
  j.spans row ++ (if row + 1 = j.total then [(j.planes, j.side)] else [])

/-- What is read of a row of a reference picture, laid out as the job's own: its samples, and the side area. -/
def MediaJob.fetched (j : MediaJob) (row : Nat) : List (Nat × Nat) := j.spans row ++ [(j.planes, j.side)]

/-! ### Memory and counters of a job -/

def mediaDie (e : Nat) : Nat := e / 4

/-- Bytes that an engine writes at an address of its job's process, on the `md` path; the cause where a page refuses
(R37, R419). What stands before the refusing page has been written. -/
def State.mediaWrite (s : State) (j : MediaJob) (va : Nat) (bs : List Byte) : State × Option Nat :=
  ((upto bs.length).zip bs).foldl
    (fun (r : State × Option Nat) b =>
      match r.2 with
      | some c => (r.1, some c)
      | none =>
        match r.1.resolve (mediaDie j.e) j.proc false .store (va + b.1) with
        | (s, .error c) => (s, some c.code)
        | (s, .ok (key, pte, _)) =>
          if pteType pte = 1 then (s, some Cause.perm.code) else (s.writeBytes key [b.2], none))
    (s, none)

/-- Bytes that an engine reads at an address of its job's process: a page that refuses, or a sector in error, ends the job,
with a status and a cause (R65, R419; log entry 20). -/
def State.mediaRead (s : State) (j : MediaJob) (va n : Nat) : State × Except (Nat × Nat) (List Byte) :=
  match s.readImage (mediaDie j.e) j.proc false va n with
  | (s, .error c) => (s, .error (4, c.code))
  | (s, .ok l) =>
    if (s.badImage (mediaDie j.e) j.proc false va n).isSome then (s, .error (6, 10)) else (s, .ok l)

/-- The pieces of a picture buffer, joined. -/
def State.mediaPieces (s : State) (j : MediaJob) (base : Nat) : List (Nat × Nat) → State × Except (Nat × Nat) (List Byte)
  | [] => (s, .ok [])
  | p :: t =>
    match s.mediaRead j (base + p.1) p.2 with
    | (s, .error e) => (s, .error e)
    | (s, .ok l) =>
      match s.mediaPieces j base t with
      | (s, .error e) => (s, .error e)
      | (s, .ok l') => (s, .ok (l ++ l'))

/-- Pieces of a picture buffer written, each byte by its offset. -/
def State.mediaFill (s : State) (j : MediaJob) (base : Nat) (f : Nat → Byte) : List (Nat × Nat) → State × Option Nat
  | [] => (s, none)
  | p :: t =>
    match s.mediaWrite j (base + p.1) ((upto p.2).map fun i => f (p.1 + i)) with
    | (s, some c) => (s, some c)
    | (s, none) => s.mediaFill j base f t

/-- An add of an engine; one that cannot reach its counter is reported at once (R315, R419, R420). -/
def State.mediaAdd (s : State) (j : MediaJob) (a d : DWord) : State :=
  match s.ctrTarget (mediaDie j.e) j.proc false 0 a with
  | (s, .ok key) => s.ctrAdd key d
  | (s, .error c) => s.sendEngineFault ⟨0, a, j.proc, mediaDie j.e, 0#64, j.sender, a, 5, c, 0xFF⟩ 0#32 0#64

/-- A break of an engine, with its record held on the counter where there is one to hold (R315, R423). -/
def State.mediaBreak (s : State) (j : MediaJob) (a : DWord) (recorded : Bool) (cause : Nat) : State :=
  match s.ctrTarget (mediaDie j.e) j.proc false 0 a with
  | (s, .ok key) =>
    let r : EngRecord := ⟨key, a, j.proc, mediaDie j.e, 0#64, j.sender, 0#64, 5, cause, 0xFF⟩
    let s : State := if recorded then { s with engRecords := s.engRecords ++ [r] } else s
    s.ctrBreak key .faulted
  | (s, .error c) => s.sendEngineFault ⟨0, a, j.proc, mediaDie j.e, 0#64, j.sender, a, 5, c, 0xFF⟩ 0#32 0#64

/-- What a status block says (R421); a cause of an abort stands in the record of its breaks alone. -/
structure MediaResult where
  status : Nat
  cause : Nat
  shown : Bool
  used : Nat
  errbit : Nat
  grain : Nat
deriving DecidableEq, Repr

/-- A result that says nothing but a status and a cause. -/
def mediaPlain (status cause : Nat) : MediaResult := ⟨status, cause, false, 0, 0, 0⟩

/-- The 32 bytes of a status block (R421). -/
def MediaJob.statusBlock (j : MediaJob) (r : MediaResult) : List Byte :=
  [BitVec.ofNat 8 r.status, BitVec.ofNat 8 (if r.status = 4 then r.cause else 0)] ++ bytesOfNat 2 j.rows ++
    bytesOfNat 4 r.shown.toNat ++ bytesOfNat 8 r.used ++ bytesOfNat 8 r.errbit ++ bytesOfNat 8 (if j.vvc then 0 else r.grain)

/-- The engine takes the next message of its port. -/
def State.mediaNext (s : State) (e : Nat) : State := s.oweIn .mediaDecode { n := e }

/-- A reset of an engine is counted (R423). -/
def State.mediaCount (s : State) (e : Nat) : State := s.count (mediaDie e) (0x20000 + 8 * (e % 4))

/-- A job ends: its status block, where its descriptor was read; then the add, or for a stream error or an abort the
breaks and their record and the engine's reset (R419, R421, R423). -/
def State.endJob (s : State) (j : MediaJob) (r : MediaResult) : State :=
  let s : State := ({ s with media := s.media.filter (·.e ≠ j.e) } : State).unregister (.media j.e)
  let s := if j.image = [] then s else (s.mediaWrite j (j.num 64 8) (j.statusBlock r)).1
  let s :=
    if r.status = 3 ∨ r.status = 6 then
      let cause := if r.cause = 0 then 14 else r.cause
      let s := s.mediaBreak j j.ctr true cause
      let s := if j.hook then s.mediaBreak j j.rowc false cause else s
      s.mediaCount j.e
    else s.mediaAdd j j.ctr j.delta
  s.mediaNext j.e

/-- A job that has begun ends without its picture: what it has consumed or written of its stream is a free number of bytes
(R421, R423; log entry 20). -/
def State.abandon (s : State) (j : MediaJob) (status cause : Nat) : State :=
  let (i, s) := s.draw
  s.endJob j ⟨status, cause, false, (Config.freeDWord i).toNat % (j.num 24 8 + 1), 0, 0⟩

/-! ### Taking a job (R417, R419) -/

/-- The job that a message asks for. -/
def mediaJob (e : Nat) (b : List Byte) (m : Landed) : MediaJob :=
  ⟨e, natAt b 16 1, m.sender, BitVec.ofNat 32 (natAt b 20 4), BitVec.ofNat 64 (natAt b 24 8), BitVec.ofNat 64 (natAt b 32 8),
    BitVec.ofNat 64 (natAt b 40 8), [], [], 0, 0, 0, none⟩

/-- A message may name the process: the host names any, a wave its own (R417). -/
def State.mediaMayName (s : State) (m : Landed) (j : MediaJob) : Bool :=
  (s.proc j.proc).isSome && decide (m.cls < 2) && (m.sender == 0#32 || decide (m.sproc = j.proc))

/-- The message itself is malformed (R417). -/
def mediaBadMessage (b : List Byte) (j : MediaJob) : Bool :=
  natAt b 17 3 != 0 || natAt b 48 16 != 0 || j.delta.msb || !mediaCtrOk j.ctr

/-- The reference table is readable and well formed (R418, R419). -/
def State.checkRefs (s : State) (j : MediaJob) : State × Option (Nat × Nat) :=
  if j.refs = 0 then (s, none)
  else
    match s.mediaRead j j.refs 512 with
    | (s, .error e) => (s, some e)
    | (s, .ok l) =>
      let bad := (upto 16).any fun i => natAt l (32 * i + 24) 8 != 0 || (j.conform && natAt l (32 * i + 8) 8 != 0)
      (s, if bad then some (2, 0) else none)

/-- A job that passed its checks begins: a decode has its stream, and an encode makes its choices. One that asks for what the
engines do not support ends before any write (R415, R419, R422). -/
def State.beginJob (s : State) (j : MediaJob) : State :=
  let run : State → MediaJob → State := fun s j =>
    if j.barred then s.endJob j (mediaPlain 1 0) else { s with media := s.media ++ [j] }
  if j.op = 1 then
    let (i, s) := s.draw
    run s { j with choice := i }
  else
    match s.mediaRead j (j.num 16 8) (j.num 24 8) with
    | (s, .error e) => s.abandon j e.1 e.2
    | (s, .ok l) => run s { j with stream := l }

/-- A decode or encode job taken from its message: it starts, or ends before any write of a picture, with a malformed message
as with a malformed descriptor (R417, R419). A message that may not name its process writes nothing (R424). -/
def State.startJob (s : State) (e : Nat) (b : List Byte) (m : Landed) : State :=
  let j := mediaJob e b m
  let bad := mediaBadMessage b j || decide (2 ≤ j.op)
  if !s.mediaMayName m j then s.mediaNext e
  else
    match s.mediaRead j j.desc.toNat 128 with
    | (s, .error c) => s.endJob j (if bad then mediaPlain 2 0 else mediaPlain c.1 c.2)
    | (s, .ok l) =>
      let j := { j with image := l }
      if bad || j.malformed then s.endJob j (mediaPlain 2 0)
      else if j.unsupported then s.endJob j (mediaPlain 1 0)
      else
        match s.checkRefs j with
        | (s, some (st, c)) => s.endJob j (mediaPlain st c)
        | (s, none) => s.beginJob j

def State.mediaIdle (s : State) (e : Nat) : Bool := !s.media.any fun j => decide (j.e = e)

/-- The operation of the message at the head of an engine's port. -/
def State.mediaHead (s : State) (e : Nat) : Option Nat := (s.peekRole (mediaDie e) (.media e)).map fun b => natAt b 16 1

/-- The engine takes its next message when it is idle; one of another kind is left to its own event. -/
def State.takeJob (s : State) (e : Nat) : State :=
  if s.mediaIdle e then
    match s.takeRole (mediaDie e) (.media e) with
    | none => s
    | some (s, b, m) => s.startJob e b m
  else s

/-- Engine `n` takes a decode job, or one whose operation is reserved. -/
def execMediaDecode (s : State) : Host.Outcome State Fault Refusal :=
  let e := s.inp.n
  .next
    (match s.mediaHead e with
     | none => s
     | some 1 => s.oweIn .mediaEncode { n := e }
     | some 2 => s.oweIn .mediaReset { n := e }
     | some _ => s.takeJob e)

/-- Engine `n` takes an encode job. -/
def execMediaEncode (s : State) : Host.Outcome State Fault Refusal :=
  let e := s.inp.n
  .next (if s.mediaHead e = some 1 then s.takeJob e else s)

/-- Engine `n` takes a reset: from the host or a privileged wave it abandons the running job, which ends with status 5;
from any other sender it does nothing (R417, R423). Its own counter is added to. -/
def execMediaReset (s : State) : Host.Outcome State Fault Refusal :=
  let e := s.inp.n
  .next
    (if s.mediaHead e ≠ some 2 then s
     else
       match s.takeRole (mediaDie e) (.media e) with
       | none => s
       | some (s, b, m) =>
         let r := mediaJob e b m
         let ok := privilegedSender m && s.mediaMayName m r && !mediaBadMessage b r && decide (r.desc = 0#64)
         let s :=
           if ok then
             let s := match s.media.find? (·.e = e) with
               | some j => s.abandon j 5 0
               | none => s
             s.mediaCount e
           else s
         let s := if s.mediaMayName m r then s.mediaAdd r r.ctr r.delta else s
         s.mediaNext e)

/-! ### Rows and references (R420) -/

/-- The counter of reference `i`, and the threshold for its row `r`: nothing where it is not waited on. -/
def State.refWait (s : State) (j : MediaJob) (i r : Nat) : State × Except (Nat × Nat) (Option (Nat × DWord)) :=
  match s.mediaRead j (j.refs + 32 * i) 32 with
  | (s, .error e) => (s, .error e)
  | (s, .ok l) =>
    let relc := natAt l 8 8
    if relc = 0 then (s, .ok none)
    else
      match s.resolve (mediaDie j.e) j.proc false .ctrRead relc with
      | (s, .error c) => (s, .error (4, c.code))
      | (s, .ok (key, pte, _)) =>
        if pteType pte = 1 ∧ key % 8 = 0 then (s, .ok (some (key, BitVec.ofNat 64 (natAt l 16 8 + r + 1))))
        else (s, .error (4, Cause.perm.code))

/-- The reference rows of the job's next row: AV1 uses entries 0 to 7 of the table, VVC those that its lists name (R418). -/
def MediaJob.needs (j : MediaJob) : List (Nat × Nat) :=
  if j.refs = 0 then []
  else (Config.codecNeeds j.image j.stream j.choice j.made).filter fun n =>
    decide (n.1 < if j.vvc then 16 else 8) && decide (n.2 < j.total)

/-- The first of some reference rows that is not released: its counter and threshold (R420). A broken counter ends the job. -/
def State.awaited (s : State) (j : MediaJob) :
    List (Nat × Nat) → State × Except (Nat × Nat) (Option (Nat × DWord))
  | [] => (s, .ok none)
  | n :: t =>
    match s.refWait j n.1 n.2 with
    | (s, .error e) => (s, .error e)
    | (s, .ok none) => s.awaited j t
    | (s, .ok (some (key, thr))) =>
      let (v, st) := s.ctrRead key
      if st ≠ .ok then (s, .error (6, 0)) else if reached v thr then s.awaited j t else (s, .ok (some (key, thr)))

/-- The bytes of some reference rows. -/
def State.refRows (s : State) (j : MediaJob) : List (Nat × Nat) → State × Except (Nat × Nat) (List (List Byte))
  | [] => (s, .ok [])
  | n :: t =>
    match s.mediaRead j (j.refs + 32 * n.1) 8 with
    | (s, .error e) => (s, .error e)
    | (s, .ok a) =>
      match s.mediaPieces j (natOfBytes a) (j.fetched n.2) with
      | (s, .error e) => (s, .error e)
      | (s, .ok l) =>
        match s.refRows j t with
        | (s, .error e) => (s, .error e)
        | (s, .ok r) => (s, .ok (l :: r))

def State.setJob (s : State) (j : MediaJob) : State :=
  { s with media := s.media.map fun k => if k.e = j.e then j else k }

/-- The job's next row from the bytes of its reference rows: its samples, and under `hook` its report (R416, R420). -/
def State.makeRow (s : State) (j : MediaJob) (refs : List (List Byte)) : State :=
  match s.mediaFill j (j.num 32 8) (Config.codecSample j.image j.stream j.choice refs j.made) (j.written j.made) with
  | (s, some c) => s.abandon j 4 c
  | (s, none) =>
    let s := s.setJob { j with made := j.made + 1, rows := if j.hook then j.rows + 1 else j.rows }
    if j.hook then s.mediaAdd j j.rowc 1#64 else s

/-- An engine goes on to its job's next row: it waits until every reference row that it is predicted from is released, then
reads them and writes its own (R416, R420). -/
def State.nextRow (s : State) (j : MediaJob) : State :=
  if j.total ≤ j.made then s
  else
    match s.awaited j j.needs with
    | (s, .error e) => s.abandon j e.1 e.2
    | (s, .ok (some (key, thr))) => (s.register ⟨key, thr, .media j.e⟩).setJob { j with waiting := some key }
    | (s, .ok none) =>
      match s.refRows j j.needs with
      | (s, .error e) => s.abandon j e.1 e.2
      | (s, .ok l) => s.makeRow j l

/-- Engine `n` goes on to the next row of its picture (R420). -/
def execMediaRowReport (s : State) : Host.Outcome State Fault Refusal :=
  .next
    (match s.media.find? fun j => decide (j.e = s.inp.n) && decide (j.waiting = none) with
     | none => s
     | some j => s.nextRow j)

/-- The counter on which engine `n` waits has fired: the engine goes on, or a broken counter aborts the job (R420). -/
def execMediaRelcWake (s : State) : Host.Outcome State Fault Refusal :=
  .next
    (match s.media.find? (·.e = s.inp.n) with
     | none => s
     | some j =>
       match j.waiting with
       | none => s
       | some key =>
         if s.waiters.any fun w => decide (w.party = .media j.e) then s
         else if !s.inp.ok || decide ((s.ctrRead key).2 ≠ .ok) then s.abandon j 6 0
         else (s.setJob { j with waiting := none }).nextRow { j with waiting := none })

/-! ### Completion (R419, R421 to R423) -/

/-- The bit at which a decode ends: that of the first error, in conformance mode of the first broken constraint as well. -/
def MediaJob.errorAt (j : MediaJob) : Option Nat :=
  if j.op = 1 then none
  else
    match Config.codecError j.image j.stream, if j.conform then Config.codecBreach j.image j.stream else none with
    | some a, some b => some (min a b)
    | some a, none => some a
    | none, b => b

/-- The picture with grain applied, in a conformance job that asks for it and whose frame carries grain parameters: made from
the reconstruction, without a side area (R422). -/
def State.applyGrain (s : State) (j : MediaJob) : State × Except (Nat × Nat) Unit :=
  let gout := j.num 80 8
  if gout = 0 ∨ Config.codecGrain j.image j.stream = none then (s, .ok ())
  else
    let all := (upto j.total).flatMap j.spans
    match s.mediaPieces j (j.num 32 8) all with
    | (s, .error e) => (s, .error e)
    | (s, .ok recon) =>
      match s.mediaFill j gout (Config.codecGrained j.image j.stream recon) all with
      | (s, some c) => (s, .error (4, c))
      | (s, none) => (s, .ok ())

/-- A picture is done: a decode's with its grain, an encode's with its stream, as much of it as the buffer holds (R421,
R422; log entry 20). -/
def State.finishJob (s : State) (j : MediaJob) : State :=
  if j.op = 1 then
    let out := (Config.codecStream j.image j.choice).take (j.num 24 8)
    match s.mediaWrite j (j.num 16 8) out with
    | (s, some c) => s.abandon j 4 c
    | (s, none) => s.endJob j ⟨0, 0, Config.codecShown j.image j.stream j.choice, out.length, 0, 0⟩
  else
    match s.applyGrain j with
    | (s, .error e) => s.abandon j e.1 e.2
    | (s, .ok _) =>
      s.endJob j
        ⟨0, 0, Config.codecShown j.image j.stream j.choice, min (Config.codecUsed j.image j.stream) (j.num 24 8),
          (Config.codecBreach j.image j.stream).getD 0, ((Config.codecGrain j.image j.stream).getD 0#32).toNat⟩

/-- Engine `n` ends its job: with `m` 6 an error of its datapath or of its own SRAM aborts it, and resets an idle engine as
well; else a decode whose stream is in error ends at that bit, and any other job once all its rows are made (R422, R423). -/
def execMediaJobComplete (s : State) : Host.Outcome State Fault Refusal :=
  let i := s.inp
  .next
    (match s.media.find? (·.e = i.n) with
     | none => if i.m = 6 then s.mediaCount i.n else s
     | some j =>
       if i.m = 6 then s.abandon j 6 0
       else if j.waiting ≠ none then s
       else
         match j.errorAt with
         | some b => s.endJob j ⟨3, 0, false, min (Config.codecUsed j.image j.stream) (j.num 24 8), b, 0⟩
         | none => if j.made < j.total then s else s.finishJob j)

end Sys2Proof.Machine
end

