-- ==== Sys2Proof/Machine/Loader.lean ====
section
/-! DEFINITION. The loader: the note of a code object, its relocations, what it refuses, and the version that it creates
(07 R204 to R208; 12 R313, R317). -/

namespace Sys2Proof

open Sys2Proof.Machine

/-! ### The note (R205) -/

/-- The descriptors of a type. -/
def CodeObject.notesOf (o : CodeObject) (type : Nat) : List (List Byte) := (o.notes.filter (·.1 = type)).map (·.2)

/-- The address of a symbol that the object defines. -/
def CodeObject.addrOf (o : CodeObject) (i : Nat) : Option DWord :=
  (o.symbols[i]?).bind fun y => y.value.map fun v => o.base + BitVec.ofNat 64 v

/-- The kernel of a descriptor of type 3, for a function that the object defines; a descriptor of type 6 may name it. -/
def CodeObject.parseKernel (o : CodeObject) (d : List Byte) : Option KernelNote :=
  let y := natAt d 0 4
  if d.length = 32 ∧ natAt d 18 14 = 0 ∧ (o.symbols[y]?).any (·.func) then
    (o.addrOf y).map fun a =>
      ⟨a, natAt d 4 1, natAt d 5 1, natAt d 6 1, natAt d 7 1, natAt d 8 1, natAt d 9 1, natAt d 10 1, natAt d 11 1,
        natAt d 12 4, natAt d 16 2, (o.notesOf 6).any fun e => decide (natAt e 0 4 = y)⟩
  else none

/-- The symbols that the descriptors of a type begin with. -/
def CodeObject.named (o : CodeObject) (type : Nat) : List Nat := (o.notesOf type).map fun d => natAt d 0 4

/-- No number twice. -/
def allDifferent : List Nat → Bool
  | [] => true
  | a :: t => !t.contains a && allDifferent t

def CodeObject.kernels (o : CodeObject) : List KernelNote := (o.notesOf 3).filterMap o.parseKernel

/-- The entries of `n` bytes of a table that stands in at most one descriptor. -/
def CodeObject.table (o : CodeObject) (type n : Nat) : List (Nat × List Byte) :=
  match o.notesOf type with
  | d :: _ => (upto (d.length / n)).map fun i => (i, bytesAt d (n * i) n)
  | [] => []

def CodeObject.templates (o : CodeObject) : List (Nat × Template) :=
  (o.table 4 32).filterMap fun e => (parseTemplate e.2).map fun t => (e.1, t)

def CodeObject.groups (o : CodeObject) : List (Nat × List Member) :=
  (o.table 5 256).filterMap fun e => (parseGroup e.2).map fun t => (e.1, t)

/-- The stepping that the note names. -/
def CodeObject.stepping (o : CodeObject) : Nat := natAt ((o.notesOf 2).headD []) 0 4

/-- The classes note marks an opcode experimental. -/
def CodeObject.experimental (o : CodeObject) : Bool := ((o.notesOf 1).headD []).contains 3#8

/-- A table of entries of `n` bytes that is missing, or whole and of at most `max` entries, each of which parses (R313,
R317). -/
def CodeObject.tableOk (o : CodeObject) (type n max : Nat) (good : List Byte → Bool) : Bool :=
  (match o.notesOf type with
   | [] => true
   | [d] => decide (d.length % n = 0) && decide (d.length ≤ n * max)
   | _ => false) && (o.table type n).all fun e => good e.2

/-- Every function that the object defines, which is a kernel, has its descriptor of type 3 (R204, R205; log entry 46). -/
def CodeObject.kernelsNamed (o : CodeObject) : Bool :=
  (upto o.symbols.length).all fun i =>
    match o.symbols[i]? with
    | some y => !(y.func && y.value.isSome) || (o.named 3).contains i
    | none => true

/-- The note is there and well formed (R205, R313, R317). Type 0, which the table of types does not hold, counts as those
above 6 do. -/
def CodeObject.noteOk (o : CodeObject) : Bool :=
  (o.notes.all fun e => decide (1 ≤ e.1) && decide (e.1 ≤ 6)) &&
    (match o.notesOf 1 with
     | [c] => decide (c.length = 256) && c.all fun b => decide (b.toNat ≤ 3)
     | _ => false) &&
    (match o.notesOf 2 with
     | [d] => decide (d.length = 4) && decide (natAt d 0 4 ≤ 2)
     | _ => false) &&
    (o.notesOf 3).all (fun d => (o.parseKernel d).isSome) && allDifferent (o.named 3) && o.kernelsNamed &&
    o.tableOk 4 32 64 (fun d => (parseTemplate d).isSome) && o.tableOk 5 256 16 (fun d => (parseGroup d).isSome) &&
    (o.notesOf 6).all (fun d => decide (d.length = 4)) && allDifferent (o.named 6) &&
    (o.named 6).all (o.named 3).contains

/-- The global and weak definitions of an object whose pages after relocation are given. -/
def CodeObject.definitions (o : CodeObject) (img : List Byte) : List SymDef :=
  o.symbols.filterMap fun y =>
    match y.bind, y.value with
    | .local_, _ => none
    | _, none => none
    | b, some v =>
      let a := o.base + BitVec.ofNat 64 v
      some ⟨y.name, decide (b = .weak), y.func, a, bytesAt img v y.size, o.kernels.find? fun k => decide (k.addr = a)⟩

end Sys2Proof

namespace Sys2Proof.Machine

/-- The budgets of a kernel note are those of R135 and R137. -/
def noteOk (k : KernelNote) : Bool :=
  decide (1 ≤ k.waves) && decide (k.waves ≤ 32) && decide (k.pw + k.cw = k.waves) && decide (k.prio ≤ 7) &&
    (decide (k.pw = 0) || (decide (1 ≤ k.pv) && decide (k.pv ≤ 30) && decide (k.pt ≤ 8))) &&
    (decide (k.cw = 0) || (decide (1 ≤ k.cv) && decide (k.cv ≤ 30) && decide (k.ct ≤ 8))) &&
    decide (k.sp % 16384 = 0) && holdable k

/-! ### Relocation (R206) -/

/-- The definitions of the objects loaded in a process, the first loaded first. -/
def State.symbolsOf (s : State) (proc : Handle) : List SymDef :=
  (s.codes.filter fun c => decide (c.proc = proc)).flatMap (·.symbols)

/-- The address that a reference to a symbol resolves to: of a global or weak one the definition loaded first, which may be
that of an object loaded before; else the object's own (R207). -/
def State.symAddr (s : State) (proc : Handle) (o : CodeObject) (i : Nat) : Option DWord :=
  match o.symbols[i]? with
  | none => none
  | some y =>
    match (if y.bind = .local_ then none else (s.symbolsOf proc).find? (·.name = y.name)) with
    | some d => some d.addr
    | none => o.addrOf i

/-- A number of 32 bits, signed or unsigned. -/
def fits32 (v : Int) : Bool := decide (-(2 ^ 31) ≤ v) && decide (v < 2 ^ 32)

/-- A relocation applied, or nothing where its symbol is unknown or its value does not fit (R206). The place of the two that
an instruction holds is its base word, the P of its own address (log entry 46). -/
def State.relocate (s : State) (proc : Handle) (o : CodeObject) (img : List Byte) (r : Reloc) : Option (List Byte) :=
  match s.symAddr proc o r.sym with
  | none => none
  | some a =>
    let v : Int := (a.toNat : Int) + r.addend
    let d : Int := v - ((o.base.toNat + r.offset : Nat) : Int)
    let put : Nat → Nat → Int → Option (List Byte) := fun at_ n x =>
      if at_ + n ≤ img.length then some (setBytes img at_ (bytesOfNat n (x % 2 ^ (8 * n)).toNat)) else none
    match r.type with
    | 1 => put r.offset 8 v
    | 2 => if 0 ≤ v ∧ v < 2 ^ 32 then put r.offset 4 v else none
    | 3 => if d % 4 = 0 ∧ -(2 ^ 23) ≤ d / 4 ∧ d / 4 < 2 ^ 23 then put r.offset 3 (d / 4) else none
    | 4 =>
      if natAt img (r.offset + 3) 1 = 2 then
        (if d % 4 = 0 ∧ -(2 ^ 31) ≤ d / 4 ∧ d / 4 < 2 ^ 31 then put (r.offset + 4) 4 (d / 4) else none)
      else if fits32 v then put (r.offset + 4) 4 v
      else none
    | _ => none

/-- The object's pages after relocation. -/
def State.relocated (s : State) (proc : Handle) (o : CodeObject) : Option (List Byte) :=
  o.relocs.foldl (fun img r => img.bind fun l => s.relocate proc o l r) (some o.code)

/-! ### What the loader accepts (R204, R207) -/

/-- Two definitions of one symbol may stand together (R207). -/
def symAgree (a b : SymDef) : Bool :=
  let shape : SymDef → Option KernelNote := fun d => d.kernel.map fun k => { k with addr := 0#64 }
  a.weak && b.weak && a.func == b.func && decide (shape a = shape b) && decide (a.bytes = b.bytes)

/-- The loader accepts an object whose pages after relocation are given (R204, R207). -/
def State.objectOk (s : State) (proc : Handle) (o : CodeObject) (img : List Byte) : Bool :=
  o.class64 && o.dataLsb && o.etDyn && decide (o.machine = 0x1A9C) && decide (o.flags = 1) && o.noteOk &&
    o.kernels.all noteOk && !(o.experimental && decide (o.stepping ≠ Config.stepping)) &&
    !((s.symbolsOf proc).any fun a => (o.definitions img).any fun b => decide (a.name = b.name) && !symAgree a b)

/-- The leaf of a code page: normal and `x`, with `w` where the process may modify it (R208). The manual names no other field:
the leaf is readable, takes the process's default lease, code 0, and is not `priv` (log entry 45). -/
def codeLeaf (frame : Nat) (w : Bool) : DWord := BitVec.ofNat 64 (frame + w.toNat * 2 ^ 3 + 2 ^ 4 + 2 ^ 2 + 3)

/-- A version of a process: its frames come from the free-frame list, the object's pages stand in them, its addresses are
mapped (R208). The manual does not say where an object's data lie: the whole image is the version's range, so that its data pages
too are code frames, mapped as code is (log entry 45). -/
def State.loadVersion (s : State) (h : Handle) (p : Proc) (o : CodeObject) (img : List Byte) : State :=
  let n := (img.length + 65535) / 65536
  let frames := p.frames.take n
  let c : CodeVer :=
    ⟨h, p.hdl, o.base, frames, o.stepping, o.kernels, o.templates, o.groups, o.definitions img, o.writable, true, true,
      false, 0, true, []⟩
  let s := s.updProc p.hdl fun p => { p with frames := p.frames.drop n }
  let pages := (upto n).zip frames
  let s := pages.foldl (fun (s : State) e => s.writeBytes e.2 (bytesAt img (65536 * e.1) 65536)) s
  let s := pages.foldl
    (fun (s : State) e => s.mapLeaf p.hdl (o.base.toNat + 65536 * e.1) (codeLeaf e.2 o.writable)) s
  { s with codes := s.codes ++ [c] }

/-- The loader takes an object for a process on a die, or refuses it and changes nothing (R206 to R208). -/
def execCodeObjectLoad (s : State) : Host.Outcome State Fault Refusal :=
  .next
    (match s.inp.obj, s.proc s.inp.h with
     | some o, some p =>
       match s.newHandle 6 s.inp.die, s.relocated p.hdl o with
       | some h, some img =>
         if s.inp.ok && s.objectOk p.hdl o img && decide ((img.length + 65535) / 65536 ≤ p.frames.length) &&
             decide (o.base.toNat % 65536 = 0) && s.mayCreate p.hdl 6 s.inp.die 1 0 then
           s.loadVersion h p o img
         else s
       | _, _ => s
     | _, _ => s)

end Sys2Proof.Machine
end

