-- ==== Sys2Proof/Machine/Sched.lean ====
section
/-! DEFINITION. Placement, refill, eviction, pre-emption, saving and reloading of teams, launch order, redundant pairs,
halts (05 R137, R140 to R144, R172 to R174; 03 R86 to R88; 13 R339 to R353; 14 R375 to R377). -/

namespace Sys2Proof.Machine

/-! ### What a core holds (R43, R44, R48, R137) -/

/-- A wave holds a partition slot. -/
def Wave.placed (w : Wave) : Bool := decide (w.st = .resident) || decide (w.st = .waiting)

/-- The load of one partition, but for a wave that leaves. -/
def State.partLoad (s : State) (core part team : Nat) (but : Handle) : PartLoad :=
  let l := s.allWaves.filter fun w =>
    w.placed && decide (w.coreNo = core) && decide (w.part = part) && decide (w.hdl ≠ but)
  ⟨(l.filter fun w => decide (w.team = team)).length, l.length, (l.map (·.vblk)).sum, (l.map (·.ntiles)).sum⟩

def State.coreLoad (s : State) (core team : Nat) (but : Handle) : List PartLoad :=
  (upto 4).map fun p => s.partLoad core p team but

/-- The lowest slot index free in a partition (R349). -/
def State.freeSlotIndex (s : State) (core part : Nat) : Nat :=
  let used := (s.allWaves.filter fun w => w.placed && decide (w.coreNo = core) && decide (w.part = part)).map (·.slot)
  ((upto 16).find? fun i => !used.contains i).getD 0

/-- A core of the package, from a die and 8 × cluster + core. -/
def coreOn (die c : Nat) : Nat := die * 48 + c

/-- The teams whose grants stand on a core. -/
def State.teamsOn (s : State) (die c : Nat) : List Team :=
  s.teams.filter fun t => decide (t.die = die) && decide (t.core = c) && !t.saved

/-- The lowest run of `n` units free on a core; 0 for none needed (R44). -/
def State.freeUnits (s : State) (die c n : Nat) : Option Nat :=
  if n = 0 then some 0
  else
    let total := 8 * Sparse.get 20 s.ways (coreOn die c)
    let used := ((s.teamsOn die c).filter fun t => decide (0 < t.units)).map fun t => (t.unit0, t.units)
    leastBy (fun a b => decide (a < b))
      ((0 :: used.map fun u => u.1 + u.2).filter fun a =>
        decide (a + n ≤ total) && !used.any fun u => decide (a < u.1 + u.2) && decide (u.1 < a + n))

/-- The lowest aligned run of `n` tag entries free on a core (R48). -/
def State.freeTags (s : State) (die c n : Nat) : Option Nat :=
  if n = 0 then some 0
  else
    let used := ((s.teamsOn die c).filter fun t => decide (0 < t.tags)).map fun t => (t.tag0, t.tags)
    ((upto (4096 / n)).map (· * n)).find? fun a => !used.any fun u => decide (a < u.1 + u.2) && decide (u.1 < a + n)

/-- A team holds a grant. -/
def Team.granted (t : Team) : Bool := decide (0 < t.units) || decide (0 < t.tags)

/-- The grids that a core holds: those of the teams whose grants stand there, and of the teams whose waves do (R345). A wave
of CRWAVE belongs to none. -/
def State.gridsOn (s : State) (die c : Nat) : List Nat :=
  let granted := ((s.teamsOn die c).filter (·.granted)).map (·.grid)
  let placed := (s.allWaves.filter fun w => w.placed && decide (w.coreNo = coreOn die c)).filterMap fun w =>
    (s.team w.team).map (·.grid)
  ((granted ++ placed).filter (· ≠ 0)).eraseDups

/-- A core may hold a team of a grid beside the grids that it holds: two at any moment (R345). -/
def State.gridRoom (s : State) (die c grid : Nat) : Bool :=
  decide (grid = 0) || decide (((s.gridsOn die c).filter (· ≠ grid)).length ≤ 1)

/-! ### Placing a runnable wave (R142, R172, R352) -/

/-- The cores on which a wave may be placed, in their order: its team's core where the team holds a grant, else the
cores of its cluster (R142, R172). -/
def State.coresFor (s : State) (w : Wave) : List Nat :=
  if s.clusterRetired w.die w.cluster then []
  else
    match s.team w.team with
    | none => []
    | some t =>
      if t.saved then []
      else if t.granted then (if s.clusterRetired t.die (t.core / 8) then [] else [coreOn t.die t.core])
      else (upto 8).map fun i => coreKey w.die w.cluster i

/-- The core and partition where a wave fits, with a wave gone from its slot (R137, R172, R345). -/
def State.spotFor (s : State) (w : Wave) (but : Handle) : Option (Nat × Nat) :=
  let grid := ((s.team w.team).map (·.grid)).getD 0
  ((s.coresFor w).filter fun c => s.gridRoom w.die (c % 48) grid).findSome? fun c =>
    (choosePart (s.coreLoad c w.team but) w.vblk w.ntiles).map fun p => (c, p)

/-- A wave put in a slot, where its context is read back (R172, R174, R349, R352). -/
def State.putIn (s : State) (h : Handle) (core part : Nat) : State :=
  let i := s.freeSlotIndex core part
  let s := s.setQueue (s.runq.filter (·.wave ≠ h))
  let s := s.updWave h fun w =>
    { w with st := .resident, refilling := true, due := false, slots := 0#8, curPri := w.basePri, core := core % 8,
             part := part, slot := i, runA := 0, runB := 0, stampA := s.nowOf w.die, stampB := s.nowOf w.die,
             since := s.nowOf w.die }
  s.owe (.contextRefillDone h)

/-- The other side of a redundant pair. -/
def State.twinWave (s : State) (w : Wave) : Option Wave := w.pair.bind fun p => s.findWave p.partner

/-- The other side of a pair holds no slot: the two are placed as one unit, once both may run (R375). -/
def State.withTwin (s : State) (w : Wave) : Option Wave := (s.twinWave w).filter fun o => !o.placed

/-- A runnable wave that may be placed: it is not halted, and its other side holds its slot or may be placed with it (R141,
R232, R375). -/
def State.placeable (s : State) (w : Wave) : Bool :=
  !w.halted && (match s.withTwin w with
    | none => true
    | some o => decide (o.st = .runnable) && !o.halted)

/-- A runnable wave placed where it fits, with its other side; nothing where one of them fits nowhere. -/
def State.placeWave (s : State) (w : Wave) : Option State :=
  match s.spotFor w 0#32 with
  | none => none
  | some (c, p) =>
    let t := s.putIn w.hdl c p
    match s.withTwin w with
    | none => some t
    | some o => (t.spotFor o 0#32).map fun d => t.putIn o.hdl d.1 d.2

/-- The heads of the lists of a cluster, the highest priority first; a wave that may not be placed is passed over (R172). -/
def State.heads (s : State) (die cluster : Nat) : List Wave :=
  [7, 6, 5, 4, 3, 2, 1, 0].filterMap fun p =>
    (s.runq.filter fun q =>
      decide (q.die = die) && decide (q.cluster = cluster) && decide (q.prio = p) && !q.spilled).findSome? fun q =>
      (s.findWave q.wave).filter s.placeable

/-- What placement on a cluster leads to: the head of the highest list whose wave fits takes a slot (R172). -/
def State.placeNext (s : State) (die cluster : Nat) : Option State :=
  (s.heads die cluster).findSome? s.placeWave

/-- Waves whose contexts are written become runnable when the version they bind to is sealed (R141, R210). -/
def State.startCreated (s : State) (die cluster : Nat) : State :=
  (s.waves.filter fun w =>
    decide (w.st = .created) && decide (w.die = die) && decide (w.cluster = cluster) &&
      decide (w.since ≤ s.nowOf die)).foldl (fun (s : State) w => (s.drainCode die w.codever).makeRunnable w.hdl) s

/-! ### Tests give way (R429) -/

/-- A test team: one of a grid that is an in-field test. -/
def State.isTest (s : State) (team : Nat) : Bool :=
  match s.team team with
  | some t => s.grids.any fun g => decide (g.uid = t.grid) && g.test
  | none => false

/-- A test discarded without saving: its grid places nothing more, and its waves are gone; no counter is broken. -/
def State.discardTest (s : State) (grid : Nat) : State :=
  let mine := s.teams.filter fun t => decide (t.grid = grid)
  let s : State := { s with grids := s.grids.filter (·.uid ≠ grid) }
  (s.allWaves.filter fun w => mine.any fun t => decide (t.uid = w.team)).foldl (fun (s : State) w => s.retire w.hdl) s

/-- The tests that hold something of a die's cluster. -/
def State.testsOn (s : State) (die cluster : Nat) : List Nat :=
  (s.teams.filter fun t =>
    decide (t.die = die) && s.isTest t.uid &&
      (decide (t.core / 8 = cluster) ||
        s.allWaves.any fun w => decide (w.team = t.uid) && decide (w.cluster = cluster))).map (·.grid)

def State.discardTests (s : State) (die cluster : Nat) : State :=
  (s.testsOn die cluster).foldl (fun (s : State) g => s.discardTest g) s

/-- The two clusters on which the sides of a redundant team stand (R375). -/
def sideClusters (c : Nat) : List Nat := [c, (c + 3) % 6]

/-- What is left when the tests of some clusters of a die are discarded, of some choices of clusters that have tests. -/
def State.cleared (s : State) (die : Nat) (choices : List (List Nat)) : List State :=
  (choices.filter fun l => l.any fun c => s.testsOn die c ≠ []).map fun l =>
    l.foldl (fun (s : State) c => s.discardTests die c) s

/-- The choices of clusters whose tests may be in the way: one cluster, then two for a redundant team (R375, R429). -/
def testChoices : List (List Nat) := (upto 6).map (fun c => [c]) ++ (upto 6).map sideClusters

/-- Placement on a cluster once the tests that are in the way are discarded (R429). -/
def State.placeRoom (s : State) (die c : Nat) : Option State :=
  (s.cleared die [[c], sideClusters c]).findSome? fun t => t.placeNext die c

/-- Placement on cluster `n` of a die; a test that is in the way is discarded. -/
def execWavePlacement (s : State) : Host.Outcome State Fault Refusal :=
  let d := s.inp.die
  let c := s.inp.n
  let s := s.startCreated d c
  .next
    (match s.placeNext d c with
     | some t => t
     | none => (s.placeRoom d c).getD s)

/-- The place of an error in a context image that is read back: a poisoned sector of it, or one that the read itself meets. -/
def State.refillFault (s : State) (w : Wave) : Option Nat :=
  match s.imageFault w with
  | some q => some (32 * q)
  | none => if s.inp.ok then none else some s.inp.pa

/-- A refill is complete: a context image in error kills the wave, else the acquire is made and the wave goes on, with no
issue history; one that stood at REGRP is open to pairing again (R128, R147, R174, R352, R369). -/
def execContextRefillDone (h : Handle) (s : State) : Host.Outcome State Fault Refusal :=
  .next
    (match s.findWave h with
     | none => s
     | some w =>
       if !w.refilling then s
       else
         match s.refillFault w with
         | some a => (s.kill h).reportCheck w ⟨.ecc, w.pc, 0#64, 0, 0xFF, 9, a, true, 0, 0#32⟩
         | none =>
         let s := s.acquire w.coreNo true
         let now := s.nowOf w.die
         let s := s.updWave h fun w => { w with refilling := false, stampA := now, stampB := now, runA := 0, runB := 0 }
         match w.await with
         | .partner m e => s.comeBack h m e
         | _ => s)

/-! ### Leaving a core (R128, R173, R174) -/

/-- A wave that has left its core: a waiting one is parked and awaits what it awaited; a resident one is runnable again, or,
halted, parked with nothing to await (R141, R232). -/
def State.offCore (s : State) (w : Wave) : State :=
  let s := s.updWave w.hdl fun v => { v with st := .parked, since := s.nowOf v.die }
  if w.st ≠ .resident then s
  else if w.halted then s.updWave w.hdl fun v => { v with await := v.await.kept, due := true }
  else s.makeRunnable w.hdl

/-- A wave off its core: its accesses complete, its MMAs drain, of which one may kill it, and the HKU makes the release for
it; where that meets a lost sector the wave takes MC_ECC at the PC where it stands (R128, R174, R367). -/
def State.leaveCore (s : State) (h : Handle) (sc : Scope) : State :=
  let s := (s.updWave h fun w => { w with slots := 0#8, refilling := false }).drainMmas h
  match s.findWave h with
  | none => s
  | some w =>
    match s.release w.coreNo sc with
    | (s, []) => s.offCore w
    | (s, d :: ds) => s.lostFor w (s.peekOp w) (d :: ds)

/-- The sides of a pair that hold slots leave together (R375). -/
def State.leaveUnit (s : State) (w : Wave) (sc : Scope) : State :=
  let s := s.leaveCore w.hdl sc
  match w.pair with
  | none => s
  | some p =>
    match s.findWave p.partner with
    | some o => if o.placed then s.leaveCore o.hdl sc else s
    | none => s

/-- The waiting wave whose departure makes a wave fit: the one of lowest priority, then the one waiting longest, then the
lowest handle (R173). -/
def State.evictee (s : State) (w : Wave) : Option Wave :=
  leastBy
    (fun a b => decide (a.basePri < b.basePri) ||
      (decide (a.basePri = b.basePri) && (decide (a.since < b.since) ||
        (decide (a.since = b.since) && decide (a.hdl.toNat < b.hdl.toNat)))))
    (s.allWaves.filter fun v => decide (v.st = .waiting) && (s.spotFor w v.hdl).isSome)

/-- Of the heads of a cluster that fit in no slot the first that something qualifies for; a test makes nothing leave
(R429). -/
def State.stuckHead (s : State) (die cluster : Nat) (pick : Wave → Option Wave) : Option Wave :=
  (s.heads die cluster).findSome? fun w =>
    if (s.placeWave w).isSome || s.isTest w.team then none
    else pick (if (s.spotFor w 0#32).isSome then (s.withTwin w).getD w else w)

def State.evictionChoice (s : State) (die cluster : Nat) : Option Wave := s.stuckHead die cluster s.evictee

/-- A waiting wave evicted to make room on cluster `n` of a die (R173). -/
def execEviction (s : State) : Host.Outcome State Fault Refusal :=
  .next
    (match s.evictionChoice s.inp.die s.inp.n with
     | none => s
     | some v => s.leaveUnit v .cluster)

/-- A head that has stood for 20 µs pre-empts the resident wave whose departure makes it fit: the one of lowest priority
below its own, then the one resident longest (R173). -/
def State.victim (s : State) (w : Wave) : Option Wave :=
  match s.runq.find? (·.wave = w.hdl) with
  | none => none
  | some q =>
    match q.head with
    | none => none
    | some t =>
      if s.nowOf w.die < t + 20000 then none
      else
        leastBy
          (fun a b => decide (a.basePri < b.basePri) ||
            (decide (a.basePri = b.basePri) && (decide (a.since < b.since) ||
              (decide (a.since = b.since) && decide (a.hdl.toNat < b.hdl.toNat)))))
          (s.allWaves.filter fun v =>
            decide (v.st = .resident) && decide (v.basePri < q.prio) && (s.spotFor w v.hdl).isSome)

def State.preemptionChoice (s : State) (die cluster : Nat) : Option Wave :=
  s.stuckHead die cluster fun w => if (s.evictee w).isSome then none else s.victim w

def execPreemption (s : State) : Host.Outcome State Fault Refusal :=
  .next
    (match s.preemptionChoice s.inp.die s.inp.n with
     | none => s
     | some v => s.leaveUnit v .cluster)

/-- An entry has waited 100 µs in its list (R149, R172). -/
def State.aged (s : State) (q : Queued) : Bool := decide (q.prio < 7) && decide (q.since + 100000 ≤ s.nowOf q.die)

/-- Entries that have waited 100 µs move to the tail of the list one level higher (R172). -/
def execPriorityAgeing (s : State) : Host.Outcome State Fault Refusal :=
  let up := (s.runq.filter s.aged).map fun q => { q with prio := q.prio + 1, since := s.nowOf q.die, head := none }
  let s' := s.setQueue (s.runq.filter (fun q => !s.aged q) ++ up)
  .next (up.foldl (fun (s : State) q => s.updWave q.wave fun w => { w with curPri := q.prio }) s')

/-! ### The launch order (R342) -/

/-- The bits that a dimension contributes (R342): ⌈log2 e⌉. -/
def dimBits (e : Nat) : Nat := if e ≤ 1 then 0 else Nat.log2 (e - 1) + 1

/-- The team index of a Morton code, from bit `i` of each dimension up; what is left of the code comes back. -/
def mortonFrom (bx bz by_ : Nat) : Nat → Nat → Nat → Nat × Nat × Nat × Nat
  | 0, _, code => (0, 0, 0, code)
  | n + 1, i, code =>
    let x := if i < bx then code % 2 else 0
    let code := if i < bx then code / 2 else code
    let y := if i < by_ then code % 2 else 0
    let code := if i < by_ then code / 2 else code
    let z := if i < bz then code % 2 else 0
    let code := if i < bz then code / 2 else code
    let r := mortonFrom bx bz by_ n (i + 1) code
    (x * 2 ^ i + r.1, y * 2 ^ i + r.2.1, z * 2 ^ i + r.2.2.1, r.2.2.2)

/-- The point of a Hilbert index, the inverse of the walk of R342: `s` doubles up to the side of the square. -/
def hilbertFrom : Nat → Nat → Nat → Nat → Nat → Nat × Nat
  | 0, _, _, x, y => (x, y)
  | n + 1, s, t, x, y =>
    let rx := t / 2 % 2
    let ry := (t ^^^ rx) % 2
    let (x, y) := if ry = 0 then (let p := if rx = 1 then (s - 1 - x, s - 1 - y) else (x, y); (p.2, p.1)) else (x, y)
    hilbertFrom n (2 * s) (t / 4) (x + s * rx) (y + s * ry)

/-- The team index that a code of the launch order names, where it names one (R342). -/
def Grid.teamOfCode (g : Grid) (code : Nat) : Option (Nat × Nat × Nat) :=
  let (x, y, z) :=
    match g.curve with
    | 0 => (code % g.gx, code / g.gx % g.gy, code / g.gx / g.gy)
    | 1 =>
      let r := mortonFrom (dimBits g.gx) (dimBits g.gz) (dimBits g.gy) 32 0 code
      (r.1, r.2.1, r.2.2.1)
    | _ =>
      let k := max (dimBits g.gx) (dimBits g.gy)
      let p := hilbertFrom k 1 (code % 4 ^ k) 0 0
      (p.1, p.2, code / 4 ^ k)
  if x < g.gx ∧ y < g.gy ∧ z < g.gz then some (x, y, z) else none

/-- The first code from a place on that names a team; the fuel passes every code that names none. -/
def Grid.nextCode (g : Grid) : Nat → Nat → Option (Nat × Nat × Nat × Nat)
  | 0, _ => none
  | n + 1, code =>
    match g.teamOfCode code with
    | some (x, y, z) => some (code, x, y, z)
    | none => g.nextCode n (code + 1)

/-- The codes of a grid's launch order. -/
def Grid.codes (g : Grid) : Nat :=
  match g.curve with
  | 0 => g.gx * g.gy * g.gz
  | 1 => 2 ^ (dimBits g.gx + dimBits g.gy + dimBits g.gz)
  | _ => 4 ^ max (dimBits g.gx) (dimBits g.gy) * g.gz

/-- The next team of a grid: its code and its index. -/
def Grid.next (g : Grid) : Option (Nat × Nat × Nat × Nat) :=
  if g.placed < g.gx * g.gy * g.gz then g.nextCode (g.codes + 1 - g.code) g.code else none

/-! ### Placing a team (R341, R343 to R347) -/

/-- Two classes are complementary (R347). -/
def complementary (a b : Nat) : Bool := (a == 1 && b == 2) || (a == 2 && b == 1)

/-- A team of a grid fits on a core, by 8 × cluster + core, its scratchpad and tag entries left aside: partitions, and the two
grids of a core (R137, R345, R428). -/
def State.wavesFit (s : State) (g : Grid) (c : Nat) : Bool :=
  !s.clusterRetired g.die (c / 8) && s.gridRoom g.die c g.uid &&
    (placeWaves (teamBudgets g.kernel) (s.coreLoad (coreOn g.die c) 0 0#32)).isSome

/-- A team of a grid fits on a core (R44, R48, R137, R345, R428). -/
def State.teamFits (s : State) (g : Grid) (c : Nat) : Bool :=
  s.wavesFit g c && (s.freeUnits g.die c (teamUnits g.kernel)).isSome && (s.freeTags g.die c g.kernel.tags).isSome

/-- The cores where the second side of a paired team may stand (R375): in cluster (c + 3) mod 6. -/
def twinCores (c : Nat) : List Nat := (upto 8).map (· + 8 * ((c / 8 + 3) % 6))

/-- The core of the second side of a paired team. -/
def State.twinCore (s : State) (g : Grid) (c : Nat) : Option Nat := (twinCores c).find? (s.teamFits g)

/-- A core where the grid's next team fits, with its second side where it has one. -/
def State.teamCore (s : State) (g : Grid) (c : Nat) : Bool :=
  s.teamFits g c && (!g.kernel.paired || (s.twinCore g c).isSome)

/-- A core where the grid's next team would fit but for scratchpad or tag entries (R173). -/
def State.teamCoreBut (s : State) (g : Grid) (c : Nat) : Bool :=
  s.wavesFit g c && (!g.kernel.paired || (twinCores c).any (s.wavesFit g))

/-- The sizes of the context images of a team's waves. -/
def teamImages (k : KernelNote) : List Nat := (teamBudgets k).map fun b => imageSize b.1 b.2

/-- The waves of the next team may be created (R151, R153, R343). -/
def State.teamAllowed (s : State) (g : Grid) : Bool :=
  let one := teamImages g.kernel
  let sizes := if g.kernel.paired then one ++ one else one
  s.mayCreate g.proc 2 g.die sizes.length sizes.sum && (s.imagesFor g.die sizes).isSome

/-- The candidate cores of R344 in their order. -/
def State.candidates (s : State) (g : Grid) : List Nat :=
  let first := g.lastCore.toList
  let home := match g.lastCore with
    | some c => c / 8
    | none => 0
  let gridsOn : Nat → List Grid := fun c => (s.gridsOn g.die c).filterMap s.grid
  let ofCluster : Nat → List Nat := fun cl =>
    let cores := (upto 8).map (· + 8 * cl)
    let comp := cores.filter fun c => (gridsOn c).any fun o => complementary g.cls o.cls
    let empty := cores.filter fun c => gridsOn c = []
    comp ++ empty.filter (fun c => !comp.contains c) ++ cores.filter fun c => !comp.contains c && !empty.contains c
  first ++ (upto 6).flatMap fun i => ofCluster ((home + i) % 6)

/-- A grid comes before another in the launch queue (R343); a test comes after every other (R429). -/
def Grid.before (a b : Grid) : Bool :=
  if a.test = b.test then
    decide (a.kernel.prio > b.kernel.prio) || (decide (a.kernel.prio = b.kernel.prio) && decide (a.uid < b.uid))
  else b.test

/-- The grids of a die that have a team to place, in the order of the launch queue: the first of those left each time. -/
def sortGrids : Nat → List Grid → List Grid
  | 0, _ => []
  | n + 1, l =>
    match leastBy Grid.before l with
    | none => []
    | some g => g :: sortGrids n (l.filter (·.uid ≠ g.uid))

def State.launchQueue (s : State) (die : Nat) : List Grid :=
  let l := s.grids.filter fun g =>
    decide (g.die = die) && decide (g.placed < g.gx * g.gy * g.gz) && decide (g.arrival ≤ s.nowOf die)
  sortGrids l.length l

/-- The earliest grid of the queue whose next team fits on some core, and the core that R344 gives it. -/
def State.placementChoice (s : State) (die : Nat) : Option (Grid × Nat) :=
  (s.launchQueue die).findSome? fun g =>
    if s.teamAllowed g && !(g.test && (upto 6).any fun c => (s.placeNext die c).isSome) then
      ((s.candidates g).find? (s.teamCore g)).map fun c => (g, c)
    else none

/-- What is left when the tests that are in the way of a team are discarded: the first choice of clusters that helps
(R429). -/
def State.testRoom (s : State) (die : Nat) : Option State :=
  (s.cleared die testChoices).find? fun t => (t.placementChoice die).any fun c => !c.1.test

/-- Wave `i` of a team as it starts (R328, R341). -/
def firstWave (g : Grid) (h : Handle) (team i core part slot ctx now : Nat) : Wave :=
  let b := waveBudget g.kernel i
  let w : Wave :=
    { Wave.blank with
      hdl := h, proc := g.proc, team := team, widx := i, consumer := decide (g.kernel.pw ≤ i), priv := g.priv,
      vblk := b.1, ntiles := b.2, basePri := g.kernel.prio, curPri := g.kernel.prio, codever := g.codever,
      pc := g.kernel.addr, st := .resident, die := g.die, cluster := core % 48 / 8, core := core % 8, part := part,
      slot := slot, stampA := now, stampB := now, since := now, ctx := ctx }
  w.initial [g.args]

/-- The waves of a team created in their partitions, in ascending index: the state, and their handles. -/
def State.bearTeam (s : State) (g : Grid) (team core : Nat) : List (Nat × Nat × Nat) → State × List Handle
  | [] => (s, [])
  | (i, part, ctx) :: t =>
    match s.newHandle 2 g.die with
    | none => (s, [])
    | some h =>
      let w := firstWave g h team i core part (s.freeSlotIndex core part) ctx (s.nowOf g.die)
      let s := s.cleanse ctx (imageSize w.vblk w.ntiles)
      let (s, l) := ({ s with waves := s.waves ++ [w] } : State).bearTeam g team core t
      (s, h :: l)

/-- One side of a team placed on a core: its grant, its tag entries, its waves; the state, its number and its handles. -/
def State.placeSide (s : State) (g : Grid) (idx : Nat × Nat × Nat) (c : Nat) (side1 : Bool) :
    State × Nat × List Handle :=
  let core := coreOn g.die c
  let (uid, s) := s.newUid
  let parts := (placeWaves (teamBudgets g.kernel) (s.coreLoad core 0 0#32)).getD []
  let u := teamUnits g.kernel
  let unit0 := (s.freeUnits g.die c u).getD 0
  let tag0 := (s.freeTags g.die c g.kernel.tags).getD 0
  let places := (s.imagesFor g.die (teamImages g.kernel)).getD []
  let (s, hs) := s.bearTeam g uid core ((upto parts.length).zip (parts.zip places))
  let t : Team :=
    ⟨uid, g.uid, g.proc, idx.1, idx.2.1, idx.2.2, g.kernel.waves, hs.headD 0#32, g.die, c, unit0, u, tag0, g.kernel.tags,
      g.cset, false, s.nowOf g.die, 0, 0, side1, 0⟩
  (({ s with teams := s.teams ++ [t] } : State).acquire core true, uid, hs)

/-- Two waves become the sides of a redundant pair (R375). -/
def State.pairWaves (s : State) (a b : Handle) : State :=
  let side : Bool → Handle → PairSide := fun one o =>
    { side1 := one, partner := o, sig := sigStart, recs := 0, sigs := [], held := [], ended := 0, cut := 0, pend := [],
      atPoint := false, point := .block, ppc := 0#64, pop := 0, go := false }
  let s := s.updWave a fun w => { w with pair := some (side false b) }
  s.updWave b fun w => { w with pair := some (side true a) }

/-- The entry of the ring of placed grids that a grid's first team fills (R426). -/
def State.recordGrid (s : State) (g : Grid) : State :=
  if g.seq ≠ 0 then s
  else
    let n := s.gridSeq.get g.die + 1
    let v := BitVec.ofNat 64 (g.codever.toNat * 2 ^ 32 + n % 2 ^ 24 * 2 ^ 8)
    let s : State := { s with gridSeq := s.gridSeq.set g.die n,
                              mwin := Sparse.put 0#64 s.mwin (mwKey g.die (0x30000 + 8 * (n % 256))) v }
    s.updGrid g.uid fun g => { g with seq := n }

/-- The next team of a grid placed on a core, twice where its kernel runs paired (R341, R343, R375). -/
def State.placeTeam (s : State) (g : Grid) (c : Nat) : State :=
  match g.next with
  | none => s
  | some (code, idx) =>
    let s := s.drainCode g.die g.codever
    let s := s.recordGrid g
    let (s, uid, hs) := s.placeSide g idx c false
    let s :=
      if g.kernel.paired then
        match s.twinCore g c with
        | none => s
        | some d =>
          let (s, uid1, hs1) := s.placeSide g idx d true
          let s := (s.updTeam uid fun t => { t with twin := uid1 }).updTeam uid1 fun t => { t with twin := uid }
          (hs.zip hs1).foldl (fun (s : State) e => s.pairWaves e.1 e.2) s
      else s
    s.updGrid g.uid fun g =>
      { g with placed := g.placed + 1, code := code + 1, lastCore := some c, since := s.nowOf g.die }

/-- The next team of a die's launch queue is placed (R343, R344); a test that is in the way is discarded (R429). -/
def execTeamPlacement (s : State) : Host.Outcome State Fault Refusal :=
  let d := s.inp.die
  .next
    (match s.placementChoice d with
     | some (g, c) => s.placeTeam g c
     | none =>
       match s.testRoom d with
       | none => s
       | some t =>
         match t.placementChoice d with
         | some (g, c) => t.placeTeam g c
         | none => s)

/-! ### Saving and reloading a team (R86 to R88, R173) -/

/-- The priority of a team is that of its wave 0; of one whose wave 0 has retired, its grid's (R173). -/
def State.teamPri (s : State) (t : Team) : Nat :=
  match s.findWave t.wave0 with
  | some w => w.basePri
  | none => ((s.grid t.grid).map (·.kernel.prio)).getD 0

/-- An engine request reads or writes a team's grant: one of its own that names its scratchpad, or a multicast that has
started and has not yet delivered to it (R318, R323). -/
def Eng.uses (e : Eng) (t : Team) : Bool :=
  (decide (e.team = t.uid) && (bits e.src.toNat 56 8 == 0x80 || bits e.dst.toNat 56 8 == 0x80)) ||
    (e.started && e.targets.any fun m =>
      decide (m.2 = some t.uid) && !e.done.contains m.1 && !e.failed.any fun f => decide (f.1 = m.1))

/-- The other side of a redundant team. -/
def State.twinTeam (s : State) (t : Team) : Option Team := if t.twin = 0 then none else s.team t.twin

/-- Every wave of a team is waiting, parked or runnable, and every engine transfer that uses its grant has performed its
payload (R173, R323). -/
def State.savableSide (s : State) (t : Team) : Bool :=
  t.granted && !t.saved && !(s.engs.any (·.uses t)) &&
    (s.allWaves.filter fun w => decide (w.team = t.uid)).all fun w =>
      decide (w.st = .waiting) || decide (w.st = .parked) || decide (w.st = .runnable)

/-- A team may be saved, with its other side where it has one (R375). -/
def State.savable (s : State) (t : Team) : Bool := s.savableSide t && (s.twinTeam t).all s.savableSide

/-- The cores where a saved team may be reloaded but for scratchpad and tag entries: those of its cluster, of another cluster of
the die where its own is retired. A side of a redundant pair goes to no other cluster, since the manual keeps the two sides
three clusters apart and places no pair that has lost a cluster (R88, R375, R428; log entry 45). -/
def State.reloadCoresBut (s : State) (t : Team) : List Nat :=
  let cl := if t.twin = 0 then s.liveCluster t.die (t.core / 8) else t.core / 8
  if s.clusterRetired t.die cl then []
  else ((upto 8).map (· + 8 * cl)).filter fun c => s.gridRoom t.die c t.grid

/-- The core where a saved team may be reloaded: the lowest with room for its grant (R44, R88, R428). -/
def State.reloadCore (s : State) (t : Team) : Option Nat :=
  (s.reloadCoresBut t).find? fun c => (s.freeUnits t.die c t.units).isSome && (s.freeTags t.die c t.tags).isSome

/-- A team and its other side, where that one is saved, pass some test (R375). -/
def State.teamSides (s : State) (t : Team) (f : Team → Bool) : Bool :=
  f t && (s.twinTeam t).all fun o => !o.saved || f o

/-- A saved team may be reloaded. -/
def State.reloadable (s : State) (t : Team) : Bool := s.teamSides t fun o => (s.reloadCore o).isSome

/-- The priority and cluster of something that waits 100 µs for scratchpad or tag entries: the next team of a grid that
would fit but for them, or a saved team that would (R173). The manual does not say which cluster is that of a team not yet
placed: it is that of the grid's last team, cluster 0 before the first (log entry 45). -/
def State.starved (s : State) (die : Nat) : List (Nat × Nat) :=
  let grids := (s.launchQueue die).filter fun g =>
    !g.test && decide (g.since + 100000 ≤ s.nowOf die) && s.teamAllowed g && !(s.candidates g).any (s.teamCore g) &&
      (s.candidates g).any (s.teamCoreBut g)
  let saved := s.teams.filter fun t =>
    t.saved && decide (t.die = die) && decide (t.placedAt + 100000 ≤ s.nowOf die) && !s.reloadable t &&
      s.teamSides t fun o => s.reloadCoresBut o ≠ []
  grids.map (fun g => (g.kernel.prio, ((g.lastCore).getD 0) / 8)) ++ saved.map fun t => (s.teamPri t, t.core / 8)

/-- A team whose grant stands on a retired cluster is saved as soon as it may be (R323, R428). -/
def State.strandedTeam (s : State) (die : Nat) : Option Team :=
  s.teams.find? fun t => decide (t.die = die) && s.clusterRetired die (t.core / 8) && s.savable t

/-- The team of a die to save: one on a retired cluster, else, for one that waits, the lowest in priority, then the oldest
(R173, R428). -/
def State.saveChoice (s : State) (die : Nat) : Option Team :=
  (s.strandedTeam die).orElse fun _ =>
    (s.starved die).findSome? fun e =>
      leastBy
        (fun a b => decide (s.teamPri a < s.teamPri b) || (decide (s.teamPri a = s.teamPri b) && decide (a.uid < b.uid)))
        (s.teams.filter fun t =>
          decide (t.die = die) && decide (t.core / 8 = e.2) && s.savable t && decide (s.teamPri t < e.1))

/-- A team's waves leave their slots and park, its residency ends, its grant and tag entries are free; its scratchpad
and tag entries stand in its image (R86, R87, R173, R346). The key of a scratchpad byte names the team, so the image is
the same list of cells. -/
def State.saveSide (s : State) (t : Team) (sc : Scope) : State :=
  let mine := s.allWaves.filter fun w => decide (w.team = t.uid)
  let s := s.updTeam t.uid fun t => { t with saved := true, placedAt := s.nowOf t.die }
  let s := (mine.filter (·.placed)).foldl (fun (s : State) w => s.leaveCore w.hdl sc) s
  let s := s.setQueue (s.runq.filter fun q => !mine.any fun w => decide (w.hdl = q.wave))
  let s := mine.foldl
    (fun (s : State) w => s.updWave w.hdl fun w =>
      if w.st = .runnable then { w with st := .parked, due := true } else w) s
  (s.endResidency t).updTeam t.uid fun t => { t with busy := 0, stall := 0 }

/-- A team saved, with its other side (R375). -/
def State.saveTeam (s : State) (t : Team) (sc : Scope) : State :=
  let s := s.saveSide t sc
  match s.twinTeam t with
  | some o => if o.saved then s else s.saveSide o sc
  | none => s

def execTeamSave (s : State) : Host.Outcome State Fault Refusal :=
  .next
    (match s.saveChoice s.inp.die with
     | none => s
     | some t => s.saveTeam t (if s.clusterRetired t.die (t.core / 8) then .die else .cluster))

/-- The saved team that is reloaded next, and the core for it; one side of a pair only where the other fits too (R375). -/
def State.reloadChoice (s : State) (die : Nat) : Option (Team × Nat) :=
  (s.teams.filter fun t => t.saved && decide (t.die = die) && !t.side1).findSome? fun t =>
    if s.reloadable t then (s.reloadCore t).map fun c => (t, c) else none

/-- What is left when the tests that are in the way of a saved team are discarded (R429). -/
def State.reloadRoom (s : State) (die : Nat) : Option State :=
  (s.cleared die testChoices).find? fun t => (t.reloadChoice die).isSome

/-- A saved team copied into a new grant: the waiters of its counters are judged as they are registered again, and its waves
that await nothing more become runnable (R88). -/
def State.reloadSide (s : State) (t : Team) (c : Nat) : State :=
  let unit0 := (s.freeUnits t.die c t.units).getD 0
  let tag0 := (s.freeTags t.die c t.tags).getD 0
  let s := s.updTeam t.uid fun t =>
    { t with saved := false, core := c, unit0 := unit0, tag0 := tag0, placedAt := s.nowOf t.die }
  let s := s.evaluateIn (spKey t.uid 0) (spKey t.uid 0 + t.units * 16384)
  let mine := s.allWaves.filter fun w => decide (w.team = t.uid)
  mine.foldl
    (fun (s : State) w =>
      let s := s.updWave w.hdl fun w => { w with cluster := c / 8, core := c % 8 }
      if w.st = .parked ∧ !w.halted ∧ (w.due ∨ w.await = .nothing) then s.makeRunnable w.hdl else s) s

/-- A saved team reloaded, with its other side. -/
def State.reloadTeam (s : State) (t : Team) (c : Nat) : State :=
  let s := s.reloadSide t c
  match (s.twinTeam t).filter (·.saved) with
  | some o =>
    match s.reloadCore o with
    | some d => s.reloadSide o d
    | none => s
  | none => s

def execTeamReload (s : State) : Host.Outcome State Fault Refusal :=
  .next
    (let s := if (s.reloadChoice s.inp.die).isSome then s else (s.reloadRoom s.inp.die).getD s
     match s.reloadChoice s.inp.die with
     | none => s
     | some (t, c) => s.reloadTeam t c)

/-! ### Redundant pairs (R376, R377) -/

/-- Held writes performed in their order, at their homes: neither side's L1 keeps anything older, and a sector that one
instruction covers whole is sound (R65, R377). -/
def State.performHeld (s : State) (cores : List Nat) (l : List Held) : State :=
  l.foldl
    (fun (s : State) h =>
      let s := if isDevKey h.key then s.devWrite h.key h.bytes
        else (cores.foldl (fun (s : State) c => s.l1FlushRange c h.key h.bytes.length) s).writeBytes h.key h.bytes
      h.whole.foldl (fun (s : State) q => s.setPoison q false) s) s

/-- The held writes that belong to the point at which a side stands: at the end of a block those of the whole blocks, else
all of them (R376, R377). -/
def PairSide.ripe (p : PairSide) : List Held := if p.point = .block then p.held.take p.cut else p.held

/-- A side after an equal comparison: what was compared is held no more. At the end of a block it goes on, with the signature
that it has begun; else it begins a new one, and performs an operation that both sides, or side 0 alone, make. -/
def PairSide.passed (p : PairSide) : PairSide :=
  match p.point with
  | .block =>
    { p with sigs := [], held := p.held.drop p.cut, ended := p.held.length - p.cut, cut := 0, atPoint := false, go := false }
  | .each => { p with sig := sigStart, recs := 0, sigs := [], held := [], ended := 0, cut := 0, go := true }
  | .once => { p with sig := sigStart, recs := 0, sigs := [], held := [], ended := 0, cut := 0, go := !p.side1 }

/-- Two sides at a point have equal signatures: at the end of a block those of the whole blocks (R376, R377). -/
def PairSide.agrees (p q : PairSide) : Bool :=
  decide (p.point = q.point) && decide (p.sigs = q.sigs) &&
    (decide (p.point = .block) || (decide (p.sig = q.sig) && decide (p.recs = q.recs)))

/-- Two sides that stand at a point are compared; `w` is side 0 (R377). -/
def State.comparePair (s : State) (w o : Wave) (p q : PairSide) : State :=
  if p.agrees q && s.inp.ok then
    let s := s.performHeld [w.coreNo, o.coreNo] p.ripe
    let s := s.updWave w.hdl fun w => { w with pair := w.pair.map PairSide.passed }
    s.updWave o.hdl fun o => { o with pair := o.pair.map PairSide.passed }
  else
    (s.kill w.hdl).reportCheck w ⟨.pair, p.ppc, 0#64, p.pop, 0xFF, 10, 0, true, 0, 0#32⟩

/-- The comparison of the pair whose side 0 is the wave of the input's handle. -/
def execPairComparison (s : State) : Host.Outcome State Fault Refusal :=
  .next
    (match s.findWave s.inp.h with
     | none => s
     | some w =>
       match w.pair with
       | none => s
       | some p =>
         match s.findWave p.partner with
         | none => s
         | some o =>
           match o.pair with
           | none => s
           | some q =>
             if !p.side1 && p.atPoint && q.atPoint && !p.go && !q.go then s.comparePair w o p q else s)

/-! ### Halts (R232) -/

/-- The wave that WHALT names: 0 is the issuing one; OBJ_BAD for a stale handle or another process's (R232). -/
def State.haltTarget (s : State) (b : BitVec 8) : Option Wave :=
  let h : Handle := (s.readU b).setWidth 32
  let h := if h = 0#32 then s.wave.hdl else h
  match s.findWave h with
  | some t => if t.proc = s.wave.proc then some t else none
  | none => none

/-- A wave's mark, and that of its other side in a redundant pair: the two leave and come as one unit (R232, R375). -/
def State.markHalted (s : State) (t : Wave) (b : Bool) : State :=
  let mark : Wave → Wave := fun w => { w with halted := b }
  let s := s.updWave t.hdl mark
  match t.pair with
  | some p => s.updWave p.partner mark
  | none => s

/-- The mark set (R232): a wave that holds a slot leaves it under R174 and stays parked. -/
def State.haltWave (s : State) (t : Wave) : State :=
  let s := s.markHalted t true
  if t.placed then s.leaveUnit t .cluster else s

/-- The mark cleared: a wave that awaits nothing more is runnable (R232). -/
def State.resumeHalted (s : State) (t : Wave) : State :=
  let free : State → Handle → State := fun s h =>
    match s.findWave h with
    | some w => if w.st = .parked ∧ (w.due ∨ w.await = .nothing) then s.makeRunnable h else s
    | none => s
  let s := free (s.markHalted t false) t.hdl
  match t.pair with
  | some p => free s p.partner
  | none => s

/-- WHALT marks the wave. The table of R213 names no flag for it, and R232 has it write F: the more particular rule is
followed (log entry 45). -/
def execWhalt (b : BitVec 8) (s : State) : Host.Outcome State Fault Refusal :=
  .next (s.perform { privileged := true } fun s =>
    match s.haltTarget b with
    | none => s.trap .objBad
    | some t =>
      if t.halted then (s.setF true).next 4
      else ((s.setF false).next 4).haltWave t)

def execWhaltRes (b : BitVec 8) (s : State) : Host.Outcome State Fault Refusal :=
  .next (s.perform { privileged := true } fun s =>
    match s.haltTarget b with
    | none => s.trap .objBad
    | some t =>
      if !t.halted then (s.setF true).next 4
      else ((s.setF false).next 4).resumeHalted t)

end Sys2Proof.Machine
end

