-- ==== Sys2Proof/Machine/Service.lean ====
section
/-! DEFINITION. Bring-up and readiness, ageing, retirement, field tests, firmware, attestation, power, reset
(06 R154, R436; 22 R425 to R434). -/

namespace Sys2Proof.Machine

/-! ### Bring-up (R425, R436) -/

/-- The cell of a die's readiness function. -/
def readyCell (die n : Nat) : Nat := readyFrame die + 8 * n

/-- The ports of a die's HKU in the order of R436: the exponent of the depth, `open`, and the role. -/
def bringUpPorts (die : Nat) : List (Nat × Nat × PortRole) :=
  [(10, 3, .root), (10, 3, .downgrade), (10, 1, .service), (12, 0, .ring), (8, 3, .media (4 * die)),
   (8, 3, .media (4 * die + 1)), (8, 3, .media (4 * die + 2)), (8, 3, .media (4 * die + 3))]

/-- The process of a die's HKU: quotas of 2^20 − 1, no parent (R156). Its other attributes come from the system image
that is handed in (log entry 7). -/
def hkuProc (h : Handle) (q : Option ProcPart) (l : List Nat) : Proc :=
  let p : Proc := ⟨h, 0#64, 5, 0#32, 0x100000000#64, 0#64, List.replicate 5 (2 ^ 20 - 1), 0#32, 0#32, [], []⟩
  match q with
  | none => p
  | some q => { p.withPart q l with quota := List.replicate 5 (2 ^ 20 - 1) }

/-- The first waves, from 128 bytes each: privileged, and on cluster 0 where they name the creator's (R134, R326). -/
def State.firstWaves (s : State) (die : Nat) (proc : Handle) : Nat → List Byte → State
  | 0, _ => s
  | n + 1, l =>
    let s' :=
      match parseWave (l.take 128), s.newHandle 2 die with
      | some p, some h =>
        let cl := s.liveCluster die (if p.cluster = 0xFF then 0 else p.cluster)
        (match s.imagesFor die [imageSize p.vblk p.tiles] with
         | some (ctx :: _) => s.createWave h proc die cl ctx (s.versionNamed proc p.code) p
         | _ => s)
      | _, _ => s
    s'.firstWaves die proc n (l.drop 128)

/-- Bring-up gives a die its readiness frame, and aperture window 15 over it, before any function reports: a host may arm a
waiter on a cell from then on, and a cell is broken where its function fails (R425). -/
def State.openReady (s : State) (die : Nat) : State :=
  if Sparse.get 0#64 s.mwin (mwKey die 0) ≠ 0#64 then s
  else
    let f := readyFrame die / 65536
    let w : BitVec 128 := BitVec.ofNat 128 (2 ^ 127 + f * 2 ^ 64 + f)
    { s with mwin := Sparse.put 0#64 s.mwin (mwKey die 0) 1#64, window := Sparse.put 0#128 s.window (die * 16 + 15) w }

/-- The HKU of a die comes up: its process, its ports and the first waves. The input holds 64 bytes of process attributes and
then the waves. -/
def State.bringUp (s : State) (die : Nat) : State :=
  let inp := s.inp
  match s.newHandle 1 die with
  | none => s
  | some ph =>
    let s : State := { s with procs := s.procs ++ [hkuProc ph (parseProc (bytesAt inp.bytes 0 64)) inp.frames] }
    let s := (bringUpPorts die).foldl
      (fun (s : State) e =>
        match s.newHandle 3 die with
        | none => s
        | some h => (s.createPort h ph e.1 e.2.1 0#64 0 e.2.2).getD s) s
    s.firstWaves die ph ((inp.bytes.length - 64) / 128) (inp.bytes.drop 64)

/-- Function `n` of the die reports: usable, or failed, which breaks its cell. Cell 0 is added first and cell 1 before
any other. A number that names no function stands for bring-up before the first report (R425; log entry 46). -/
def execReadinessReport (s : State) : Host.Outcome State Fault Refusal :=
  let die := s.inp.die
  let n := s.inp.n
  let s := s.openReady die
  let up : Nat → Bool := fun i => s.ctrValue (readyCell die i) == 1#64
  .next
    (if 19 ≤ n ∨ up n ∨ s.ctrStatus (readyCell die n) ≠ .ok then s
     else if !s.inp.ok then s.ctrBreak (readyCell die n) .faulted
     else if n = 0 then (s.bringUp die).ctrAdd (readyCell die 0) 1#64
     else if up 0 && (n == 1 || up 1) then s.ctrAdd (readyCell die n) 1#64
     else s)

/-! ### Ageing and retirement (R428) -/

/-- The management-window entry of a cluster: slack, rail offset, retired (R426). -/
def clusterKey (die c : Nat) : Nat := mwKey die (0x200 + 8 * c)

def State.clusterEntry (s : State) (die c : Nat) : Nat := (Sparse.get 0#64 s.mwin (clusterKey die c)).toNat

def State.setCluster (s : State) (die c slack rail : Nat) (retired : Bool) : State :=
  let v : DWord := BitVec.ofNat 64 (slack % 2 ^ 16 + rail % 2 ^ 8 * 2 ^ 16 + retired.toNat * 2 ^ 24)
  { s with mwin := Sparse.put 0#64 s.mwin (clusterKey die c) v }

/-- Every wave of a cluster moved to another one of its die, to the tail of its run queue there (R142, R172, R428). The sides
of a redundant pair stay: a pair that has lost a cluster is not placed (R375, R428; log entry 45). -/
def State.moveWaves (s : State) (die from_ to_ : Nat) : State :=
  let here : Wave → Bool := fun w => decide (w.die = die) && decide (w.cluster = from_) && w.pair.isNone
  let goes : Queued → Bool := fun q =>
    decide (q.die = die) && decide (q.cluster = from_) && (s.findWave q.wave).any fun w => w.pair.isNone
  let move : Wave → Wave := fun w => if here w then { w with cluster := to_ } else w
  let teams := s.teams.map fun t =>
    if t.die = die ∧ t.core / 8 = from_ ∧ !t.granted ∧ t.twin = 0 then { t with core := 8 * to_ + t.core % 8 } else t
  let queue := s.runq.filter (fun q => !goes q) ++
    (s.runq.filter goes).map fun q => { q with cluster := to_, spilled := false }
  ({ s with wave := move s.wave, waves := s.waves.map move, teams := teams } : State).setQueue queue

/-- The body of a record of a test result or a retirement: the cluster, and a CRC-64 (R427). -/
def clusterBody (c crc : Nat) : List Byte := [BitVec.ofNat 8 c] ++ List.replicate 7 0#8 ++ bytesOfNat 8 crc

/-- A cluster retired: tests on it are discarded, its waves leave their slots, and teams with grants are saved that no
transfer uses any more, the others later, all at die scope; the waves go to another cluster; the readiness cell is broken and
a record written, with the CRC-64 of a test that failed (R323, R427 to R429). -/
def State.retireCluster (s : State) (die c crc : Nat) : State :=
  let e := s.clusterEntry die c
  let s := s.discardTests die c
  let s := s.setCluster die c (bits e 0 16) (bits e 16 8) true
  let s := (s.allWaves.filter fun w => w.placed && decide (w.die = die) && decide (w.cluster = c)).foldl
    (fun (s : State) w =>
      match s.findWave w.hdl with
      | some w => if w.placed then s.leaveUnit w .die else s
      | none => s) s
  let s := (s.teams.filter fun t => decide (t.die = die) && decide (t.core / 8 = c)).foldl
    (fun (s : State) t =>
      match s.team t.uid with
      | some t => if s.savable t then s.saveTeam t .die else s
      | none => s) s
  let s := s.moveWaves die c (s.liveCluster die c)
  (s.ctrBreak (readyCell die (2 + c)) .faulted).logRecord die 3 (clusterBody c crc)

/-- Cluster `n` of the die is retired, once. -/
def execClusterRetirement (s : State) : Host.Outcome State Fault Refusal :=
  let die := s.inp.die
  let c := s.inp.n
  .next (if 6 ≤ c ∨ s.clusterRetired die c then s else s.retireCluster die c 0)

/-- The monitors of cluster `n` report a worst slack of `size` ps: below 15 ps the rail is raised by a step, and at 10
steps the cluster is retired, at the moment at which that is decided (R428, R431). -/
def execSlackMonitor (s : State) : Host.Outcome State Fault Refusal :=
  let die := s.inp.die
  let c := s.inp.n
  let rail := bits (s.clusterEntry die c) 16 8
  .next
    (if 6 ≤ c ∨ s.clusterRetired die c then s
     else if 15 ≤ s.inp.size then s.setCluster die c s.inp.size rail false
     else if rail < 10 then s.setCluster die c s.inp.size (rail + 1) false
     else (s.setCluster die c s.inp.size rail false).retireCluster die c 0)

/-! ### In-field tests (R429) -/

/-- The HKU starts a test: a grid of its process `h`, from the launch descriptor at `pa`, at priority 7. Only a kernel of the
set in use is run, which was signed and accepted (R429, R430). -/
def State.startTest (s : State) (die : Nat) (proc : Handle) (desc : Nat) : State :=
  if s.testKernels.contains desc && (s.proc proc).any fun p => decide (p.parent = 0#32) then
    match s.launch die proc 0#32 true desc with
    | (t, 0) =>
      let old : Grid → Bool := fun g => s.grids.any fun o => decide (o.uid = g.uid)
      { t with grids := t.grids.map fun g =>
          if old g then g else { g with test := true, kernel := { g.kernel with prio := 7 } } }
    | (t, _) => t
  else s

/-- A test of cluster `n` ends with its output: the CRC-64 is compared with the stored one and logged; after a first mismatch
the kernel is run again, and a second retires the cluster. With `m` 1 a test is started. -/
def execFieldTestResult (s : State) : Host.Outcome State Fault Refusal :=
  let inp := s.inp
  let die := inp.die
  let c := inp.n
  .next
    (if 6 ≤ c ∨ s.clusterRetired die c then s
     else if inp.m = 1 then s.startTest die inp.h inp.pa
     else
       let crc := crc64 inp.bytes
       let s := s.logRecord die 2 (clusterBody c crc)
       let k := 6 * die + c
       let failed := crc ≠ inp.val.toNat % 2 ^ 64
       let again := Sparse.get false s.retest k
       let s' : State := { s with retest := Sparse.put false s.retest k (failed && !again) }
       if !failed then s' else if again then s'.retireCluster die c crc else s'.startTest die inp.h inp.pa)

/-! ### Firmware and attestation (R430, R431) -/

/-- The staged image becomes the running one, and a version above the fused minimum raises it; one below the minimum, which a
set of test kernels may have raised since, is refused. -/
def State.activateFirmware (s : State) : State :=
  match s.fwStaged with
  | none => s
  | some v =>
    if v < s.fwMin then { s with fwStaged := none }
    else { s with fwVersion := v, fwMin := max s.fwMin v, fwStaged := none }

/-- The same of a staged set of test kernels. -/
def State.activateTests (s : State) : State :=
  match s.testStaged with
  | none => s
  | some (v, l) =>
    if v < s.fwMin then { s with testStaged := none }
    else { s with testVersion := v, testKernels := l, fwMin := max s.fwMin v, testStaged := none }

def State.activate (s : State) : State := s.activateFirmware.activateTests

/-- An image passes every check of R430: its digest, both signatures, whose keys the fuses know, and its version. -/
def State.accepts (s : State) (i : FwImage) : Bool :=
  i.digestOk && i.rsaOk && decide (i.rsaKey = s.fuseRsa) && i.slhOk && decide (i.slhKey = s.fuseSlh) &&
    decide (s.fwMin ≤ i.version)

/-- An image or a set of test kernels is verified and accepted, or refused; without one what is accepted is activated
(R430). -/
def execFirmwareImageUpdate (s : State) : Host.Outcome State Fault Refusal :=
  .next
    (match s.inp.img with
     | none => s.activate
     | some i =>
       if s.accepts i then
         if i.tests then
           let s : State := { s with testStaged := some (i.version, i.kernels) }
           if i.activate then s.activateTests else s
         else
           let s : State := { s with fwStaged := some i.version }
           if i.activate then s.activateFirmware else s
       else s)

def State.respond (s : State) (r : SpdmReply) : State := { s with spdm := s.spdm ++ [r] }

/-- A reply that carries a digest, a certificate or a signature: a free value (log entry 6). -/
def State.respondFree (s : State) (f : DWord → SpdmReply) : State :=
  let (i, s) := s.draw
  s.respond (f (Config.freeDWord i))

/-- The retired clusters that block 4 measures, by 6 × die + cluster (R431). -/
def State.retiredClusters (s : State) : List Nat := (upto 12).filter fun i => s.clusterRetired (i / 6) (i % 6)

def execSpdmGetVersion (s : State) : Host.Outcome State Fault Refusal := .next (s.respond (.version 1 3))
def execSpdmGetCapabilities (s : State) : Host.Outcome State Fault Refusal := .next (s.respond .capabilities)
def execSpdmNegotiateAlgorithms (s : State) : Host.Outcome State Fault Refusal :=
  .next (s.respond (.algorithms .ecdsaP384 .sha384))
def execSpdmGetDigests (s : State) : Host.Outcome State Fault Refusal := .next (s.respondFree .digests)
def execSpdmGetCertificate (s : State) : Host.Outcome State Fault Refusal := .next (s.respondFree .certificate)
def execSpdmChallenge (s : State) : Host.Outcome State Fault Refusal := .next (s.respondFree .challengeAuth)

/-- The measurement blocks (R431): the boot ROM; the firmware, by its version; the set of test kernels, by its version and
kernels; the fuses, with the minimum version and the hashes of the keys, and the retired clusters. -/
def State.blocks (s : State) : List (BitVec 384) :=
  [Config.measurement 1 [], Config.measurement 2 [s.fwVersion], Config.measurement 3 (s.testVersion :: s.testKernels),
   Config.measurement 4 (s.fwMin :: s.fuseRsa.toNat :: s.fuseSlh.toNat :: s.retiredClusters)]

/-- The measurements, with a signature (R431). -/
def execSpdmGetMeasurements (s : State) : Host.Outcome State Fault Refusal :=
  .next (s.respondFree (.measurements s.blocks s.retiredClusters))

def execSpdmKeyExchange (s : State) : Host.Outcome State Fault Refusal := .next (s.respondFree .keyExchange)
def execSpdmFinish (s : State) : Host.Outcome State Fault Refusal := .next (s.respondFree .finish)

/-! ### Power and reset (R154, R433, R434) -/

/-- The board controller sets a cap of `n` watts, from 1,200 to 2,400 (R433). -/
def execPowerCapWrite (s : State) : Host.Outcome State Fault Refusal :=
  .next (if 1200 ≤ s.inp.n ∧ s.inp.n ≤ 2400 then { s with powerCap := s.inp.n } else s)

/-- A junction above 110 °C stops both dies, and the host sees its links go down (R434). -/
def execThermalTrip (s : State) : Host.Outcome State Fault Refusal :=
  .next { s with tripped := true, hostDown := ⟨true, true⟩ }

/-- A reset or a power-up: every register and table at its reset value. What stands outside the device, its fuses and
its firmware stay (R154, R430, log entry 9); an accepted image is activated. -/
def execDeviceReset (s : State) : Host.Outcome State Fault Refusal :=
  .next
    ({ State.reset with
       agenda := s.agenda, fresh := s.fresh, uid := s.uid, idxHint := s.idxHint, farNames := s.farNames,
       farPorts := s.farPorts, peerExports := s.peerExports, linksDown := s.linksDown, ethDown := [], msix := s.msix,
       readBack := s.readBack, spdm := s.spdm, fwVersion := s.fwVersion, fwMin := s.fwMin,
       fwStaged := s.fwStaged, testVersion := s.testVersion, testKernels := s.testKernels, testStaged := s.testStaged,
       fuseRsa := s.fuseRsa, fuseSlh := s.fuseSlh } : State).activate

end Sys2Proof.Machine
end

