-- ==== Sys2Proof/Machine/System.lean ====
section
/-! DEFINITION. Mode, cc and system registers, service calls, breakpoints and user interrupts
(08 R222 to R232, 06 R228 to R230). -/

namespace Sys2Proof.Machine

/-! ### Mode and cc (R222, R223) -/

/-- A mode that R189 allows. -/
def modeOk (m : Word) : Bool :=
  decide (bits m.toNat 3 5 ≤ 0x0E) && decide (bits m.toNat 8 3 ≤ 5) && decide (bits m.toNat 13 3 = 0)

/-- A new mode: ILL_RSVD when R189 forbids it, made at execution (R222). -/
def setMode (m : Word) (s : State) : Host.Outcome State Fault Refusal :=
  .next (if modeOk m then uniformWork .parity 8 (fun w => { w with mode := m }) s else s.trap .illRsvd)

def execSetm (lit : Word) (s : State) : Host.Outcome State Fault Refusal := setMode lit s
def execSetmSrc (b : BitVec 8) (s : State) : Host.Outcome State Fault Refusal :=
  setMode ((s.readU b).setWidth 32) s
def execSetmPart (mask : BitVec 6) (lit : Word) (s : State) : Host.Outcome State Fault Refusal :=
  setMode ((s.wave.mode &&& ~~~(modeMask mask)) ||| (lit &&& modeMask mask)) s
def execSetmCc (b : BitVec 8) (s : State) : Host.Outcome State Fault Refusal :=
  let v := (s.readU b).setWidth 6
  .next (uniformWork .parity 8 (fun w => { w with cc := v }) s)
def execGetm (a : BitVec 8) (s : State) : Host.Outcome State Fault Refusal :=
  .next (uniformWork .parity 4 (fun w => w.writeU a (w.mode.setWidth 64)) s)
def execGetmCc (a : BitVec 8) (s : State) : Host.Outcome State Fault Refusal :=
  .next (uniformWork .parity 4 (fun w => w.writeU a (w.cc.setWidth 64)) s)

/-! ### System registers (R224 to R226) -/

def Wave.uictl (w : Wave) : DWord :=
  BitVec.ofNat 64 (w.uiEn.toNat + 2 * w.uiPend.toNat + 4 * w.uiAct.toNat + 8 * w.uiArmed.toNat)

/-- The value of a system register (R224). -/
def State.sysReg (s : State) (idx : Nat) : DWord :=
  let w := s.wave
  let p := s.myProc
  let attr : (Proc → Nat) → DWord := fun f => BitVec.ofNat 64 ((p.map f).getD 0)
  match idx with
  | 0x00 => w.proc.setWidth 64
  | 0x01 => attr fun p => p.ptroot.toNat
  | 0x02 => attr (·.dlease)
  | 0x03 => attr fun p => p.fport.toNat
  | 0x04 => attr fun p => p.ocbase.toNat
  | 0x05 => attr fun p => p.flist.toNat
  | 0x06 => attr fun p => p.quota.getD 0 0
  | 0x07 => attr fun p => p.quota.getD 1 0
  | 0x08 => attr fun p => p.quota.getD 2 0
  | 0x09 => attr fun p => p.quota.getD 3 0
  | 0x0A => attr fun p => p.quota.getD 4 0
  | 0x0B => attr fun p => p.ckey.toNat
  | 0x0C => attr fun p => p.parent.toNat
  | 0x10 => s.team0.setWidth 64
  | 0x11 => BitVec.ofNat 64 w.basePri
  | 0x12 => w.codever.setWidth 64
  | 0x20 => w.uivec
  | 0x21 => w.uictl
  | 0x22 => w.uiepc
  | 0x23 => w.uisave
  | 0x24 => w.uictr
  | 0x25 => w.uithr
  | 0x30 => s.resinjOf w.die
  | _ => 0#64

def execSysrd (a idx : BitVec 8) (s : State) : Host.Outcome State Fault Refusal :=
  let v := s.sysReg idx.toNat
  .next (uniformWork .parity 4 (fun w => w.writeU a v) s)

/-- A system register written; what a map does not store is dropped (R7, R224). -/
def Wave.sysWrite (w : Wave) (idx : Nat) (v : DWord) : Wave :=
  match idx with
  | 0x20 => { w with uivec := v &&& ~~~3#64 }
  | 0x22 => { w with uiepc := v &&& ~~~3#64 }
  | 0x23 => { w with uisave := v &&& BitVec.ofNat 64 (2 ^ 38 - 1) }
  | 0x24 => { w with uictr := v }
  | 0x25 => { w with uithr := v }
  | _ => w

def execSyswr (idx b : BitVec 8) (s : State) : Host.Outcome State Fault Refusal :=
  let v := s.readU b
  .next (uniformWork .parity 4 (fun w => (w.sysWrite idx.toNat v).setF false) s)

/-- The counter interrupt registered on `uictr` and `uithr`, or refused (R225). -/
def State.armInterrupt (s : State) : State :=
  let w := s.wave
  if w.uictr.toNat % 8 ≠ 0 then s.setF true
  else
    match s.resolve w.die w.proc w.priv .ctrRead w.uictr.toNat (some w.coreNo) with
    | (s, .error _) => s.setF true
    | (s, .ok (key, pte, _)) =>
      if pteType pte ≠ 1 then s.setF true
      else
        let s := s.unregister (.ui w.hdl)
        let (v, st) := s.ctrRead key
        let s :=
          if reached v w.uithr || decide (st ≠ .ok) then s.owe (.uiCounterFire w.hdl)
          else s.register ⟨key, w.uithr, .ui w.hdl⟩
        s.onWave fun w => ({ w with uiArmed := true }).setF false

def execSyswrUictl (b : BitVec 8) (s : State) : Host.Outcome State Fault Refusal :=
  let v := s.readU b
  .next (s.checked .parity 0 0 none fun s =>
    let s := s.onWave fun w =>
      ({ w with uiEn := v.getLsbD 0, uiPend := w.uiPend && !v.getLsbD 1 }).setF false
    (if v.getLsbD 4 then s.armInterrupt else s).next 4)

/-- The fields that `resinj` stores (R226). -/
def rjMask : DWord := 0xFFFFFFFF00FF07F1#64

/-- A write to `resinj` (R226): its fields are kept as written, and the handle 0 names the writer; a target that may not be
named fails, and an injection of no execution disarms. -/
def State.writeResinj (s : State) (v : DWord) : State :=
  let w := s.wave
  let v := v &&& rjMask
  let arms := rjArm v && (rjCount v == 1 || rjCount v == 2)
  let h := if rjWave v = 0#32 then w.hdl else rjWave v
  let ok := match s.findWave h with
    | some t => decide (t.proc = w.proc) && decide (hDie h = w.die)
    | none => false
  let s := { s with resinjBy := Sparse.put 0#32 s.resinjBy w.die w.hdl,
                    engs := s.engs.map fun (e : Eng) => if e.die = w.die then { e with strike := none } else e }
  (s.setResinj w.die (if arms && ok then v else v &&& ~~~1#64)).setF (arms && !ok)

def execSyswrResinj (b : BitVec 8) (s : State) : Host.Outcome State Fault Refusal :=
  let v := s.readU b
  .next (s.perform { privileged := true } fun s =>
    s.checked .parity 0 0 none fun s => (s.writeResinj v).next 4)

/-! ### User interrupts (R227) -/

/-- Entry, as one step (R227). -/
def Wave.enterInterrupt (w : Wave) : Wave :=
  { w.setK 0 0xFFFFFFFF#32 with
    uiepc := w.pc
    uisave := (0#26 ++ w.cc ++ w.getK 0 : BitVec 64)
    uiPend := false
    uiAct := true
    pc := w.uivec }

/-- The wave at issue traps UIRQ, which names the instruction at its PC; a trap that is taken ends the request (R355, R360). -/
def State.takeUirq (s : State) : State :=
  ({ s with iword := s.fetchInstr.1.iword }.trap .uirq).updWave s.wave.hdl fun w =>
    if w.await.isTrap then { w with uiPend := false } else w

/-- A wave takes its pending interrupt at its boundary; with no handler it traps UIRQ (R227, R355). -/
def execUserInterruptEntry (h : Handle) (s : State) : Host.Outcome State Fault Refusal :=
  let s := s.turnTo h
  .next
    (if s.wave.hdl = h ∧ s.wave.ready ∧ s.wave.interruptDue then
      if s.wave.uivec = 0#64 then s.takeUirq
      else (s.noteIssue false).onWave (·.enterInterrupt)
     else s)

/-- UIRET: back to the interrupted PC, with k0 and cc as they were (R227). -/
def Wave.leaveInterrupt (w : Wave) : Wave :=
  { w.setK 0 (w.uisave.setWidth 32) with
    pc := w.uiepc
    cc := (w.uisave >>> 32).setWidth 6
    uiAct := false
    unf := 0#32
    unfKind := .no
    asked := []
    told := none }

def execUiret (s : State) : Host.Outcome State Fault Refusal :=
  .next (if s.wave.uiAct then s.onWave (·.leaveInterrupt) else s.trap .illConv)

/-- The waiter on the interrupt counter has fired (R225). One that is still registered has not: the arming that it belongs to
replaced another, whose firing is void. -/
def execUiCounterFire (h : Handle) (s : State) : Host.Outcome State Fault Refusal :=
  .next
    (if s.waiters.any fun w => decide (w.party = .ui h) then s
     else s.updWave h fun w => if w.uiArmed then { w with uiPend := true, uiArmed := false } else w)

/-! ### Service calls (R228 to R230) -/

/-- The slots of a batch: the header, then the argument blocks of the active lanes two by two (R229). -/
def State.svcSlots (s : State) (code : Nat) (b : Nat) (pc : DWord) : List (List Byte) :=
  let w := s.wave
  let lanes := lanesOf w.act
  let n := lanes.length
  let nrec := (n + 1) / 2
  let head := header 0#64 w.hdl code 0 0 ++ bytesOfNat 4 w.act.toNat ++
    [BitVec.ofNat 8 n, BitVec.ofNat 8 nrec, 0#8, 0#8] ++ bytesOfNat 8 pc.toNat ++ bytesOfNat 4 w.proc.toNat ++
    List.replicate 28 0#8
  let block : Nat → List Byte := fun l => (upto 8).flatMap fun i => bytesOfNat 4 (w.getV (b + i) l).toNat
  let rec1 : Nat → List Byte := fun j => bytesAt (((lanes.drop (2 * j)).take 2).flatMap block) 0 64
  head :: (upto nrec).map rec1

/-- A batch written into the request ring of a die with one arrival add, or kept pending (R228). One that fits is written
at once, though an older one is pending (log entry 45). -/
def State.sendBatch (s : State) (die : Nat) (h : Handle) (slots : List (List Byte)) : State :=
  match s.rolePort die .ring with
  | none => { s with pendSvc := s.pendSvc ++ [⟨die, 0#32, 0#64, slots, h, 0⟩] }
  | some p =>
    if p.load + slots.length ≤ p.depth then s.landSlots p.hdl (slots.map fun b => (b, plainLanded h 0))
    else { s with pendSvc := s.pendSvc ++ [⟨die, p.hdl, 0#64, slots, h, 0⟩] }

/-- SVC: the accesses complete, the MMAs drain, a release at die scope, the wave parks at PC + 4, the batch goes out (R174,
R228). A call made in an interrupt handler or by a redundant pair traps (R355). -/
def execSvc (code b c : BitVec 8) (s : State) : Host.Outcome State Fault Refusal :=
  .next (s.perform { budget := s.wave.groupOk 8 b && s.wave.groupOk 4 c } fun s =>
    let w := s.wave
    if w.uiAct || w.pair.isSome then s.takeTrap .svc code.toNat 0xFF 0#64 (w.pc + 4#64)
    else
      s.waitAll.leaving fun s =>
        let slots := s.svcSlots code.toNat b.toNat w.pc
        let s := (s.next 4).park (.svcReply c w.act)
        s.sendBatch w.die w.hdl slots)

def execBkpt (code : BitVec 8) (s : State) : Host.Outcome State Fault Refusal :=
  .next (s.takeTrap .bkpt code.toNat 0xFF 0#64 (s.wave.pc + 4#64))

end Sys2Proof.Machine
end

