-- ==== Sys2Proof/Machine/Tag.lean ====
section
/-! DEFINITION. The scratchpad tag table and the split of a core's pool (02 R43 to R51, 10 R274, R275). -/

namespace Sys2Proof.Machine

/-! ### The tag table (R49, R50) -/

/-- Tag entries of the team of the wave at issue: its number and E. -/
def State.myTags (s : State) : Nat × Nat :=
  match s.myTeam with
  | some t => (t.uid, t.tags)
  | none => (0, 0)

def tagKey (team slot : Nat) : Nat := 4096 * team + slot
def State.tagAt (s : State) (team slot : Nat) : BitVec 65 := Sparse.get 0#65 s.tags (tagKey team slot)
def State.putTag (s : State) (team slot : Nat) (e : BitVec 65) : State :=
  { s with tags := Sparse.put 0#65 s.tags (tagKey team slot) e }

/-- A live entry of a key. -/
def tagLive (key : DWord) : BitVec 65 := 1#1 ++ key

/-- The set of a key (R50). -/
def tagSet (key : DWord) (e : Nat) : Nat :=
  (bits key.toNat 0 16 ^^^ bits key.toNat 16 16 ^^^ bits key.toNat 32 16 ^^^ bits key.toNat 48 16) % (e / 8)

/-- The slot that holds a key, 0xFFFF_FFFF where none does. -/
def State.tagLookup (s : State) (team e : Nat) (key : DWord) : Nat :=
  if e = 0 then 0xFFFFFFFF
  else
    let base := tagSet key e * 8
    match (upto 8).find? fun w => s.tagAt team (base + w) = tagLive key with
    | some w => base + w
    | none => 0xFFFFFFFF

/-- A key recorded in a way: every other way of its set forgets it (R50). -/
def State.tagRecord (s : State) (team e : Nat) (key : DWord) (way : Nat) : State :=
  let base := tagSet key e * 8
  let s := (upto 8).foldl
    (fun (s : State) w => if s.tagAt team (base + w) = tagLive key then s.putTag team (base + w) 0#65 else s) s
  s.putTag team (base + way) (tagLive key)

/-- A tag instruction behind its checks (R105, R371, R372). -/
def tagWork (budget : Bool) (dst : BitVec 8 × Nat) (x : OrdExt) (bad : State → Option (Nat × DWord))
    (work : State → State) (s : State) : Host.Outcome State Fault Refusal :=
  .next (s.perform { budget := budget, writes := dst } fun s =>
    (s.waitSlots x.slots).checked .residue 3 0 (some s.wave.lanes) fun s =>
      match bad s with
      | some (l, a) => s.trapAt .pageNp Cause.spbound.code l a
      | none => s.sound .parity 4 0 (some s.wave.lanes) fun s => ((work s).setSlot x.slots).next 8)

def execStag (a b : BitVec 8) (x : OrdExt) (s : State) : Host.Outcome State Fault Refusal :=
  tagWork (s.wave.dstOk 1 a && s.wave.srcOk 2 b) (a, 1) x (fun _ => none)
    (fun s =>
      let (t, e) := s.myTags
      s.onWave fun w => w.putLanes a 1 (w.lanes.map fun l => (l, s.tagLookup t e (w.lanePair b l)))) s

def execStagset (a b c : BitVec 8) (x : OrdExt) (s : State) : Host.Outcome State Fault Refusal :=
  tagWork (s.wave.dstOk 1 a && s.wave.srcOk 2 b && s.wave.srcOk 1 c) (a, 1) x
    (fun s => if s.myTags.2 = 0 then s.wave.lanes.head?.map fun l => (l, s.wave.lanePair b l) else none)
    (fun s =>
      let (t, e) := s.myTags
      let w := s.wave
      let way : Nat → Nat := fun l => (w.laneWord c l).toNat % 8
      let s := w.lanes.foldl (fun (s : State) l => s.tagRecord t e (w.lanePair b l) (way l)) s
      s.onWave fun w =>
        w.putLanes a 1 (w.lanes.map fun l => (l, tagSet (w.lanePair b l) e * 8 + (w.laneWord c l).toNat % 8))) s

def execStaginv (b : BitVec 8) (x : OrdExt) (s : State) : Host.Outcome State Fault Refusal :=
  tagWork (s.wave.srcOk 1 b) (0xFF#8, 0) x
    (fun s =>
      (s.wave.lanes.find? fun l =>
        let v := s.wave.laneWord b l
        decide (v ≠ 0xFFFFFFFF#32) && decide (v.toNat ≥ s.myTags.2)).map
        fun l => (l, (s.wave.laneWord b l).setWidth 64))
    (fun s =>
      let (t, _) := s.myTags
      let w := s.wave
      w.lanes.foldl
        (fun (s : State) l =>
          let v := w.laneWord b l
          if v = 0xFFFFFFFF#32 then s
          else s.putTag t v.toNat (s.tagAt t v.toNat &&& BitVec.ofNat 65 (2 ^ 64 - 1))) s) s

/-! ### The pool split (R43, R47, R275) -/

/-- A unit from `lo` up to below `hi` of a core's scratchpad is granted. -/
def State.unitsGranted (s : State) (core lo hi : Nat) : Bool :=
  s.teams.any fun t =>
    decide (coreKey t.die (t.core / 8) (t.core % 8) = core) && !t.saved && decide (t.unit0 < hi) &&
      decide (lo < t.unit0 + t.units)

/-- The effect of R47 on S and F. Which lines the moved ways hold is not said, so the core's whole L1 is written back
and dropped when ways leave it (log entry 4). -/
def State.resize (s : State) (core n : Nat) : State :=
  let old := s.waysOf core
  let new := 24 - n
  if new < old then
    if s.unitsGranted core (8 * new) (8 * old) then s.setF true
    else ({ s with ways := Sparse.put 20 s.ways core new }).setF false
  else if old < new then
    let s := s.cleanCore core
    let s := { s with l1 := s.l1.filter fun e => decide (e.core ≠ core) }
    ({ s with ways := Sparse.put 20 s.ways core new }).setF false
  else s.setF false

def execSpresz (a b : BitVec 8) (s : State) : Host.Outcome State Fault Refusal :=
  let n := (s.readU b).toNat
  .next (s.perform { privileged := true } fun s =>
    let core := s.wave.coreNo
    let l1 := 24 - s.waysOf core
    let s := if 4 ≤ n ∧ n ≤ 20 then s.resize core n else s.setF true
    (s.writeU a (BitVec.ofNat 64 l1)).next 4)

end Sys2Proof.Machine
end

