-- ==== Sys2Proof/Machine/VectorFloat.lean ====
section
/-! DEFINITION. Float instructions on vectors (09 R245 to R252). -/

namespace Sys2Proof.Machine

/-- A float instruction: exact values of up to three sources, rounded once (R245, R246). -/
def floatOp (accepts : EType → Bool) (srcs : List (BitVec 8)) (cls : Check) (nb : Nat) (a : BitVec 8)
    (r : Wave → FVal → FVal → FVal → FVal) (x y z : BitVec 8) (s : State) : Host.Outcome State Fault Refusal :=
  let ok := accepts s.wave.etype
  let n := s.wave.shape ok
  vectorWork cls (a, n) (s.wave.dstOk n a && srcs.all (s.wave.srcOk n)) ok nb
    (fun w => w.byElem a (fun l i u v q => w.fout l i (r w (w.fin u) (w.fin v) (w.fin q))) (w.src x) (w.src y) (w.src z)) s

def float2 (cls : Check) (r : Wave → FVal → FVal → FVal) (a b c : BitVec 8) (s : State) :
    Host.Outcome State Fault Refusal :=
  floatOp EType.isFloat [b, c] cls 4 a (fun w x y _ => r w x y) b c c s

def execVfadd (a b c : BitVec 8) (s : State) : Host.Outcome State Fault Refusal :=
  float2 .residue (fun w x y => FVal.add w.rdn x y) a b c s
/-- VFSUB is the addition of the negated operand: the zeros of the same sign that R246 excepts are `b` and the negated `c`
(log entry 45). -/
def execVfsub (a b c : BitVec 8) (s : State) : Host.Outcome State Fault Refusal :=
  float2 .residue (fun w x y => FVal.add w.rdn x y.neg) a b c s
def execVfmul (a b c : BitVec 8) (s : State) : Host.Outcome State Fault Refusal :=
  float2 .residue (fun _ x y => FVal.mul x y) a b c s
def execVfmin (a b c : BitVec 8) (s : State) : Host.Outcome State Fault Refusal :=
  float2 .parity (fun _ x y => FVal.minNum x y) a b c s
def execVfmax (a b c : BitVec 8) (s : State) : Host.Outcome State Fault Refusal :=
  float2 .parity (fun _ x y => FVal.maxNum x y) a b c s
def execVfdiv (a b c : BitVec 8) (s : State) : Host.Outcome State Fault Refusal :=
  float2 .residue (fun _ x y => FVal.div x y) a b c s

/-- VFMA: one rounding of the exact sum (R247). -/
def execVfma (np na : Bool) (a b c e : BitVec 8) (s : State) : Host.Outcome State Fault Refusal :=
  floatOp EType.isFloat [b, c, e] .residue 8 a
    (fun w x y z => FVal.add w.rdn (FVal.negIf np (FVal.mul x y)) (FVal.negIf na z)) b c e s

def float1 (accepts : EType → Bool) (r : Wave → FVal → FVal) (a b : BitVec 8) (s : State) :
    Host.Outcome State Fault Refusal :=
  floatOp accepts [b] .residue 4 a (fun w x _ _ => r w x) b b b s

/-- The types of VFEXP2 and VFLOG2 (R235). -/
def shortFloat (t : EType) : Bool := t.isFloat && !t.is64

def execVfsqrt (a b : BitVec 8) (s : State) : Host.Outcome State Fault Refusal :=
  float1 EType.isFloat (fun _ x => x.sqrt) a b s
def execVfrcp (a b : BitVec 8) (s : State) : Host.Outcome State Fault Refusal :=
  float1 EType.isFloat (fun _ x => FVal.div FVal.one x) a b s
def execVfrsq (a b : BitVec 8) (s : State) : Host.Outcome State Fault Refusal :=
  float1 EType.isFloat (fun _ x => x.rsqrt) a b s
def execVfexp2 (a b : BitVec 8) (s : State) : Host.Outcome State Fault Refusal :=
  float1 shortFloat (fun _ x => x.exp2) a b s
def execVflog2 (a b : BitVec 8) (s : State) : Host.Outcome State Fault Refusal :=
  float1 shortFloat (fun _ x => x.log2) a b s

/-- VFRND rounds to an integral value under the lane's rounding (R248). -/
def execVfrnd (a b : BitVec 8) (s : State) : Host.Outcome State Fault Refusal :=
  let ok := s.wave.etype.isFloat
  let n := s.wave.shape ok
  vectorWork .residue (a, n) (s.wave.dstOk n a && s.wave.srcOk n b) ok 4
    (fun w => w.byElem a (fun l i x _ _ => w.fout l i ((w.fin x).integral (w.rnd l i)))
      (w.src b) (fun _ => 0) fun _ => 0) s

/-- VFSCALE: b × 2^n for the signed 32-bit n of field `c` (R252). -/
def execVfscale (a b c : BitVec 8) (s : State) : Host.Outcome State Fault Refusal :=
  let ok := s.wave.etype.isFloat
  let n := s.wave.shape ok
  vectorWork .residue (a, n) (s.wave.dstOk n a && s.wave.srcOk n b && s.wave.srcOk 1 c) ok 4
    (fun w => w.byElem a
      (fun l i x _ _ => w.fout l i ((w.fin x).scaleBy (w.laneWord c l).toInt)) (w.src b) (fun _ => 0) fun _ => 0) s

/-- The class mask of a pattern (R248): a NaN is quiet when the top bit of its significand field is 1. -/
def classMask (f : Fmt) (v : Nat) : Nat :=
  let neg := v.testBit (f.eb + f.mb)
  let e := bits v f.mb f.eb
  let m := bits v 0 f.mb
  if e = 2 ^ f.eb - 1 then
    if m = 0 then (if neg then 1 else 128) else if m.testBit (f.mb - 1) then 512 else 256
  else if e = 0 then
    if m = 0 then (if neg then 8 else 16) else (if neg then 4 else 32)
  else (if neg then 2 else 64)

/-- VFCLASS: `ftz` is ignored, and the bits above the mask are zero (R248). -/
def execVfclass (a b : BitVec 8) (s : State) : Host.Outcome State Fault Refusal :=
  let ok := s.wave.etype.isFloat
  let n := s.wave.shape ok
  vectorWork .parity (a, n) (s.wave.dstOk n a && s.wave.srcOk n b) ok 4
    (fun w => w.byElem a (fun _ _ x _ _ => classMask w.etype.fmt x) (w.src b) (fun _ => 0) fun _ => 0) s

def FCond.holds (x y : FVal) : FCond → Bool
  | .eq => x.eqv y
  | .ne => !x.eqv y
  | .lt => x.lt y
  | .le => x.lt y || x.eqv y
  | .gt => y.lt x
  | .ge => y.lt x || x.eqv y
  | .uno => x.isNan || y.isNan
  | .ord => !x.isNan && !y.isNan

def execVfcmp (cond : FCond) (kd : BitVec 3) (b c : BitVec 8) (s : State) : Host.Outcome State Fault Refusal :=
  let ok := s.wave.etype.isFloat && !s.wave.etype.packed
  let n := s.wave.shape ok
  vectorWork .parity noVector (s.wave.srcOk n b && s.wave.srcOk n c) ok 8
    (fun w => w.putMask kd fun l =>
      FCond.holds (w.fin (w.etype.elem (w.src b l) 0)) (w.fin (w.etype.elem (w.src c l) 0)) cond) s

end Sys2Proof.Machine
end

