-- ==== Sys2Proof/Machine/Dispatch.lean ====
section
/-! DEFINITION. One arm for each constructor of Instr: the meaning of each instruction and event. -/

namespace Sys2Proof.Machine

def exec (i : Instr) (s : State) : Host.Outcome State Fault Refusal :=
  match i with
  | .nop => Sys2Proof.Machine.execNop s
  | .br o => Sys2Proof.Machine.execBr o s
  | .bcc cond lit => Sys2Proof.Machine.execBcc cond lit s
  | .bmz o => Sys2Proof.Machine.execBmz o s
  | .bmnz o => Sys2Proof.Machine.execBmnz o s
  | .bmall o => Sys2Proof.Machine.execBmall o s
  | .call o => Sys2Proof.Machine.execCall o s
  | .ret => Sys2Proof.Machine.execRet s
  | .jmpr b => Sys2Proof.Machine.execJmpr b s
  | .jmprLink a b => Sys2Proof.Machine.execJmprLink a b s
  | .exit => Sys2Proof.Machine.execExit s
  | .yield => Sys2Proof.Machine.execYield s
  | .sadd a b c => Sys2Proof.Machine.execSadd a b c s
  | .ssub a b c => Sys2Proof.Machine.execSsub a b c s
  | .smul a b c => Sys2Proof.Machine.execSmul a b c s
  | .smulh a b c => Sys2Proof.Machine.execSmulh a b c s
  | .sand a b c => Sys2Proof.Machine.execSand a b c s
  | .sor a b c => Sys2Proof.Machine.execSor a b c s
  | .sxor a b c => Sys2Proof.Machine.execSxor a b c s
  | .sshl a b c => Sys2Proof.Machine.execSshl a b c s
  | .sshr a b c => Sys2Proof.Machine.execSshr a b c s
  | .ssra a b c => Sys2Proof.Machine.execSsra a b c s
  | .smin a b c => Sys2Proof.Machine.execSmin a b c s
  | .smax a b c => Sys2Proof.Machine.execSmax a b c s
  | .scmp b c => Sys2Proof.Machine.execScmp b c s
  | .smov a b => Sys2Proof.Machine.execSmov a b s
  | .sli a lit => Sys2Proof.Machine.execSli a lit s
  | .sliZ a lit => Sys2Proof.Machine.execSliZ a lit s
  | .sliHi a lit => Sys2Proof.Machine.execSliHi a lit s
  | .ssel a b c => Sys2Proof.Machine.execSsel a b c s
  | .sclz a b => Sys2Proof.Machine.execSclz a b s
  | .spopc a b => Sys2Proof.Machine.execSpopc a b s
  | .setm lit => Sys2Proof.Machine.execSetm lit s
  | .setmSrc b => Sys2Proof.Machine.execSetmSrc b s
  | .setmPart mask lit => Sys2Proof.Machine.execSetmPart mask lit s
  | .setmCc b => Sys2Proof.Machine.execSetmCc b s
  | .getm a => Sys2Proof.Machine.execGetm a s
  | .getmCc a => Sys2Proof.Machine.execGetmCc a s
  | .sysrd a idx => Sys2Proof.Machine.execSysrd a idx s
  | .syswr idx b => Sys2Proof.Machine.execSyswr idx b s
  | .syswrUictl b => Sys2Proof.Machine.execSyswrUictl b s
  | .syswrResinj b => Sys2Proof.Machine.execSyswrResinj b s
  | .kand a b c => Sys2Proof.Machine.execKand a b c s
  | .kor a b c => Sys2Proof.Machine.execKor a b c s
  | .kxor a b c => Sys2Proof.Machine.execKxor a b c s
  | .knot a b => Sys2Proof.Machine.execKnot a b s
  | .kmov a b => Sys2Proof.Machine.execKmov a b s
  | .kpop a b => Sys2Proof.Machine.execKpop a b s
  | .kfirst a b => Sys2Proof.Machine.execKfirst a b s
  | .svc code b c => Sys2Proof.Machine.execSvc code b c s
  | .bkpt code => Sys2Proof.Machine.execBkpt code s
  | .uiret => Sys2Proof.Machine.execUiret s
  | .whalt b => Sys2Proof.Machine.execWhalt b s
  | .whaltRes b => Sys2Proof.Machine.execWhaltRes b s
  | .vadd a b c => Sys2Proof.Machine.execVadd a b c s
  | .vsub a b c => Sys2Proof.Machine.execVsub a b c s
  | .vmul a b c => Sys2Proof.Machine.execVmul a b c s
  | .vmulh a b c => Sys2Proof.Machine.execVmulh a b c s
  | .vand a b c => Sys2Proof.Machine.execVand a b c s
  | .vor a b c => Sys2Proof.Machine.execVor a b c s
  | .vxor a b c => Sys2Proof.Machine.execVxor a b c s
  | .vshl a b c => Sys2Proof.Machine.execVshl a b c s
  | .vshr a b c => Sys2Proof.Machine.execVshr a b c s
  | .vmin a b c => Sys2Proof.Machine.execVmin a b c s
  | .vmax a b c => Sys2Proof.Machine.execVmax a b c s
  | .vaddLit a b lit => Sys2Proof.Machine.execVaddLit a b lit s
  | .vsubLit a b lit => Sys2Proof.Machine.execVsubLit a b lit s
  | .vmulLit a b lit => Sys2Proof.Machine.execVmulLit a b lit s
  | .vmulhLit a b lit => Sys2Proof.Machine.execVmulhLit a b lit s
  | .vandLit a b lit => Sys2Proof.Machine.execVandLit a b lit s
  | .vorLit a b lit => Sys2Proof.Machine.execVorLit a b lit s
  | .vxorLit a b lit => Sys2Proof.Machine.execVxorLit a b lit s
  | .vshlLit a b lit => Sys2Proof.Machine.execVshlLit a b lit s
  | .vshrLit a b lit => Sys2Proof.Machine.execVshrLit a b lit s
  | .vminLit a b lit => Sys2Proof.Machine.execVminLit a b lit s
  | .vmaxLit a b lit => Sys2Proof.Machine.execVmaxLit a b lit s
  | .vmad a b c e => Sys2Proof.Machine.execVmad a b c e s
  | .vabs a b => Sys2Proof.Machine.execVabs a b s
  | .vneg a b => Sys2Proof.Machine.execVneg a b s
  | .vcmp cond kd b c => Sys2Proof.Machine.execVcmp cond kd b c s
  | .vsel a b c k => Sys2Proof.Machine.execVsel a b c k s
  | .vmov a b => Sys2Proof.Machine.execVmov a b s
  | .vbcast a b => Sys2Proof.Machine.execVbcast a b s
  | .vclz a b => Sys2Proof.Machine.execVclz a b s
  | .vpopc a b => Sys2Proof.Machine.execVpopc a b s
  | .vbrev a b => Sys2Proof.Machine.execVbrev a b s
  | .vbfe a b pos len => Sys2Proof.Machine.execVbfe a b pos len s
  | .vbfi a b c pos len => Sys2Proof.Machine.execVbfi a b c pos len s
  | .vmovLit a lit => Sys2Proof.Machine.execVmovLit a lit s
  | .vfadd a b c => Sys2Proof.Machine.execVfadd a b c s
  | .vfsub a b c => Sys2Proof.Machine.execVfsub a b c s
  | .vfmul a b c => Sys2Proof.Machine.execVfmul a b c s
  | .vfma np na a b c e => Sys2Proof.Machine.execVfma np na a b c e s
  | .vfmin a b c => Sys2Proof.Machine.execVfmin a b c s
  | .vfmax a b c => Sys2Proof.Machine.execVfmax a b c s
  | .vfdiv a b c => Sys2Proof.Machine.execVfdiv a b c s
  | .vfsqrt a b => Sys2Proof.Machine.execVfsqrt a b s
  | .vfrcp a b => Sys2Proof.Machine.execVfrcp a b s
  | .vfrsq a b => Sys2Proof.Machine.execVfrsq a b s
  | .vfexp2 a b => Sys2Proof.Machine.execVfexp2 a b s
  | .vflog2 a b => Sys2Proof.Machine.execVflog2 a b s
  | .vfcmp cond kd b c => Sys2Proof.Machine.execVfcmp cond kd b c s
  | .vfclass a b => Sys2Proof.Machine.execVfclass a b s
  | .vfrnd a b => Sys2Proof.Machine.execVfrnd a b s
  | .vfscale a b c => Sys2Proof.Machine.execVfscale a b c s
  | .vcvt a b stype => Sys2Proof.Machine.execVcvt a b stype s
  | .vpack a b c fmt scaled => Sys2Proof.Machine.execVpack a b c fmt scaled s
  | .vunpk a b c fmt scaled => Sys2Proof.Machine.execVunpk a b c fmt scaled s
  | .vshfl a b c => Sys2Proof.Machine.execVshfl a b c s
  | .vshflx kind zf w d a b c => Sys2Proof.Machine.execVshflx kind zf w d a b c s
  | .vred op w u a b => Sys2Proof.Machine.execVred op w u a b s
  | .vscan op w excl a b => Sys2Proof.Machine.execVscan op w excl a b s
  | .vmatch a b => Sys2Proof.Machine.execVmatch a b s
  | .regrp b c => Sys2Proof.Machine.execRegrp b c s
  | .ld a base c x => Sys2Proof.Machine.execLd a base c x s
  | .st a base c x => Sys2Proof.Machine.execSt a base c x s
  | .ldu a base c x => Sys2Proof.Machine.execLdu a base c x s
  | .stu a base c x => Sys2Proof.Machine.execStu a base c x s
  | .lds a base c x => Sys2Proof.Machine.execLds a base c x s
  | .sts a base c x => Sys2Proof.Machine.execSts a base c x s
  | .xlat xr b => Sys2Proof.Machine.execXlat xr b s
  | .xlatW xr b => Sys2Proof.Machine.execXlatW xr b s
  | .xinv xr => Sys2Proof.Machine.execXinv xr s
  | .fenceAcq sc => Sys2Proof.Machine.execFenceAcq sc s
  | .fenceRel sc => Sys2Proof.Machine.execFenceRel sc s
  | .fenceFull sc => Sys2Proof.Machine.execFenceFull sc s
  | .fencex p c => Sys2Proof.Machine.execFencex p c s
  | .atomuAdd a base x => Sys2Proof.Machine.execAtomuAdd a base x s
  | .atomuFadd a base x => Sys2Proof.Machine.execAtomuFadd a base x s
  | .atomuMin a base x => Sys2Proof.Machine.execAtomuMin a base x s
  | .atomuMax a base x => Sys2Proof.Machine.execAtomuMax a base x s
  | .atomuAnd a base x => Sys2Proof.Machine.execAtomuAnd a base x s
  | .atomuOr a base x => Sys2Proof.Machine.execAtomuOr a base x s
  | .atomuXor a base x => Sys2Proof.Machine.execAtomuXor a base x s
  | .atomuAddRet a base x => Sys2Proof.Machine.execAtomuAddRet a base x s
  | .atomuFaddRet a base x => Sys2Proof.Machine.execAtomuFaddRet a base x s
  | .atomuMinRet a base x => Sys2Proof.Machine.execAtomuMinRet a base x s
  | .atomuMaxRet a base x => Sys2Proof.Machine.execAtomuMaxRet a base x s
  | .atomuAndRet a base x => Sys2Proof.Machine.execAtomuAndRet a base x s
  | .atomuOrRet a base x => Sys2Proof.Machine.execAtomuOrRet a base x s
  | .atomuXorRet a base x => Sys2Proof.Machine.execAtomuXorRet a base x s
  | .stag a b x => Sys2Proof.Machine.execStag a b x s
  | .stagset a b c x => Sys2Proof.Machine.execStagset a b c x s
  | .staginv b x => Sys2Proof.Machine.execStaginv b x s
  | .spresz a b => Sys2Proof.Machine.execSpresz a b s
  | .atomAdd a base c x => Sys2Proof.Machine.execAtomAdd a base c x s
  | .atomFadd a base c x => Sys2Proof.Machine.execAtomFadd a base c x s
  | .atomMin a base c x => Sys2Proof.Machine.execAtomMin a base c x s
  | .atomMax a base c x => Sys2Proof.Machine.execAtomMax a base c x s
  | .atomAnd a base c x => Sys2Proof.Machine.execAtomAnd a base c x s
  | .atomOr a base c x => Sys2Proof.Machine.execAtomOr a base c x s
  | .atomXor a base c x => Sys2Proof.Machine.execAtomXor a base c x s
  | .atomAddRet a base c x => Sys2Proof.Machine.execAtomAddRet a base c x s
  | .atomFaddRet a base c x => Sys2Proof.Machine.execAtomFaddRet a base c x s
  | .atomMinRet a base c x => Sys2Proof.Machine.execAtomMinRet a base c x s
  | .atomMaxRet a base c x => Sys2Proof.Machine.execAtomMaxRet a base c x s
  | .atomAndRet a base c x => Sys2Proof.Machine.execAtomAndRet a base c x s
  | .atomOrRet a base c x => Sys2Proof.Machine.execAtomOrRet a base c x s
  | .atomXorRet a base c x => Sys2Proof.Machine.execAtomXorRet a base c x s
  | .cadd a base c x => Sys2Proof.Machine.execCadd a base c x s
  | .cfadd a base c x => Sys2Proof.Machine.execCfadd a base c x s
  | .cwait a base c x => Sys2Proof.Machine.execCwait a base c x s
  | .cread a base c x => Sys2Proof.Machine.execCread a base c x s
  | .cpoll a base c x => Sys2Proof.Machine.execCpoll a base c x s
  | .cinit a base c x => Sys2Proof.Machine.execCinit a base c x s
  | .cbrkAband base c x => Sys2Proof.Machine.execCbrkAband base c x s
  | .cbrkFault base c x => Sys2Proof.Machine.execCbrkFault base c x s
  | .cwaitCont a base c x => Sys2Proof.Machine.execCwaitCont a base c x s
  | .tld sel base c x => Sys2Proof.Machine.execTld sel base c x s
  | .tst sel base c x => Sys2Proof.Machine.execTst sel base c x s
  | .tzero sel => Sys2Proof.Machine.execTzero sel s
  | .tmovv a b index col n => Sys2Proof.Machine.execTmovv a b index col n s
  | .vmovt a b index col n => Sys2Proof.Machine.execVmovt a b index col n s
  | .mma a b c fb ta tb ovw => Sys2Proof.Machine.execMma a b c fb ta tb ovw s
  | .mmas a b c fb ta tb ovw mp mt mq => Sys2Proof.Machine.execMmas a b c fb ta tb ovw mp mt mq s
  | .mclose a => Sys2Proof.Machine.execMclose a s
  | .mwait b => Sys2Proof.Machine.execMwait b s
  | .tcvt a b c fmt scaled p sat rnd isrc => Sys2Proof.Machine.execTcvt a b c fmt scaled p sat rnd isrc s
  | .tprune a b c fmt mq => Sys2Proof.Machine.execTprune a b c fmt mq s
  | .tredmx a b b32 abs => Sys2Proof.Machine.execTredmx a b b32 abs s
  | .tredsm a b b32 => Sys2Proof.Machine.execTredsm a b b32 s
  | .tscl a b col add => Sys2Proof.Machine.execTscl a b col add s
  | .xcp p tmpl x => Sys2Proof.Machine.execXcp p tmpl x s
  | .xcpm p tmpl grp x => Sys2Proof.Machine.execXcpm p tmpl grp x s
  | .xgat p v rlen x => Sys2Proof.Machine.execXgat p v rlen x s
  | .xcoll p d x => Sys2Proof.Machine.execXcoll p d x s
  | .xtmplTmpl idx c x => Sys2Proof.Machine.execXtmplTmpl idx c x s
  | .xtmplGrp idx c x => Sys2Proof.Machine.execXtmplGrp idx c x s
  | .crwave a b x => Sys2Proof.Machine.execCrwave a b x s
  | .crwaveProc a b x => Sys2Proof.Machine.execCrwaveProc a b x s
  | .crwaveAttr a b c x => Sys2Proof.Machine.execCrwaveAttr a b c x s
  | .crgrid a b x => Sys2Proof.Machine.execCrgrid a b x s
  | .pnew a b c x => Sys2Proof.Machine.execPnew a b c x s
  | .psend a b c x => Sys2Proof.Machine.execPsend a b c x s
  | .precv a b x => Sys2Proof.Machine.execPrecv a b x s
  | .precvTry a b x => Sys2Proof.Machine.execPrecvTry a b x s
  | .wsnew a x => Sys2Proof.Machine.execWsnew a x s
  | .wsset a b c member x => Sys2Proof.Machine.execWsset a b c member x s
  | .wssetPort a b c member x => Sys2Proof.Machine.execWssetPort a b c member x s
  | .wssetTimer a b c member x => Sys2Proof.Machine.execWssetTimer a b c member x s
  | .wswait a b x => Sys2Proof.Machine.execWswait a b x s
  | .tmnew a x => Sys2Proof.Machine.execTmnew a x s
  | .tmarm a b c after x => Sys2Proof.Machine.execTmarm a b c after x s
  | .tmstop a x => Sys2Proof.Machine.execTmstop a x s
  | .nmreg a b x => Sys2Proof.Machine.execNmreg a b x s
  | .nmregDel a b x => Sys2Proof.Machine.execNmregDel a b x s
  | .nmfind a b inpkg x => Sys2Proof.Machine.execNmfind a b inpkg x s
  | .odel b => Sys2Proof.Machine.execOdel b s
  | .regrpWindowExpiry h => Sys2Proof.Machine.execRegrpWindowExpiry h s
  | .mmaComplete id => Sys2Proof.Machine.execMmaComplete id s
  | .engineStart id => Sys2Proof.Machine.execEngineStart id s
  | .engineCompletion id => Sys2Proof.Machine.execEngineCompletion id s
  | .multicastMemberDelivery id member => Sys2Proof.Machine.execMulticastMemberDelivery id member s
  | .objectRequestReply h slot => Sys2Proof.Machine.execObjectRequestReply h slot s
  | .accessCompletion h slot => Sys2Proof.Machine.execAccessCompletion h slot s
  | .downgradeCompletion id => Sys2Proof.Machine.execDowngradeCompletion id s
  | .homeCounterOperation key op => Sys2Proof.Machine.execHomeCounterOperation key op s
  | .homeReduction key op ty vals => Sys2Proof.Machine.execHomeReduction key op ty vals s
  | .waiterWake h value st => Sys2Proof.Machine.execWaiterWake h value st s
  | .uiCounterFire h => Sys2Proof.Machine.execUiCounterFire h s
  | .userInterruptEntry h => Sys2Proof.Machine.execUserInterruptEntry h s
  | .messageLanding id => Sys2Proof.Machine.execMessageLanding id s
  | .journalCompletion die seq => Sys2Proof.Machine.execJournalCompletion die seq s
  | .grantMapping id => Sys2Proof.Machine.execGrantMapping id s
  | .grantCopy id => Sys2Proof.Machine.execGrantCopy id s
  | .waitSetEvaluation set => Sys2Proof.Machine.execWaitSetEvaluation set s
  | .timerExpiry tm => Sys2Proof.Machine.execTimerExpiry tm s
  | .contextRefillDone h => Sys2Proof.Machine.execContextRefillDone h s
  | .hostWaiterFire die n value st wd => Sys2Proof.Machine.execHostWaiterFire die n value st wd s
  | .kernelReplyRetry n => Sys2Proof.Machine.execKernelReplyRetry n s
  | .unassignedOpcode w => Sys2Proof.Machine.execUnassignedOpcode w s
  | .registerWrite reg v size => Sys2Proof.Machine.execRegisterWrite reg v size s
  | .leaseExpiry => Sys2Proof.Machine.execLeaseExpiry s
  | .atsCompletion => Sys2Proof.Machine.execAtsCompletion s
  | .priResponse => Sys2Proof.Machine.execPriResponse s
  | .atsInvalidation => Sys2Proof.Machine.execAtsInvalidation s
  | .codeCopyOnWrite => Sys2Proof.Machine.execCodeCopyOnWrite s
  | .downgradeMessage => Sys2Proof.Machine.execDowngradeMessage s
  | .faultReply => Sys2Proof.Machine.execFaultReply s
  | .pendingFaultSend => Sys2Proof.Machine.execPendingFaultSend s
  | .pendingBreakPerform => Sys2Proof.Machine.execPendingBreakPerform s
  | .svcBatchPendingWrite => Sys2Proof.Machine.execSvcBatchPendingWrite s
  | .svcReply => Sys2Proof.Machine.execSvcReply s
  | .wavePlacement => Sys2Proof.Machine.execWavePlacement s
  | .eviction => Sys2Proof.Machine.execEviction s
  | .preemption => Sys2Proof.Machine.execPreemption s
  | .teamSave => Sys2Proof.Machine.execTeamSave s
  | .teamReload => Sys2Proof.Machine.execTeamReload s
  | .priorityAgeing => Sys2Proof.Machine.execPriorityAgeing s
  | .rootPortLaunch => Sys2Proof.Machine.execRootPortLaunch s
  | .teamPlacement => Sys2Proof.Machine.execTeamPlacement s
  | .pairComparison => Sys2Proof.Machine.execPairComparison s
  | .codeObjectLoad => Sys2Proof.Machine.execCodeObjectLoad s
  | .rowActivationAlert => Sys2Proof.Machine.execRowActivationAlert s
  | .backoffWindowEnd => Sys2Proof.Machine.execBackoffWindowEnd s
  | .periodicRefresh => Sys2Proof.Machine.execPeriodicRefresh s
  | .scrubWriteback => Sys2Proof.Machine.execScrubWriteback s
  | .patrolScrub => Sys2Proof.Machine.execPatrolScrub s
  | .aliasEntryWrite => Sys2Proof.Machine.execAliasEntryWrite s
  | .apertureAdd => Sys2Proof.Machine.execApertureAdd s
  | .apertureRead => Sys2Proof.Machine.execApertureRead s
  | .apertureWindowEnable => Sys2Proof.Machine.execApertureWindowEnable s
  | .apertureWindowDisable => Sys2Proof.Machine.execApertureWindowDisable s
  | .hostWaiterArm => Sys2Proof.Machine.execHostWaiterArm s
  | .hostWaiterDisarm => Sys2Proof.Machine.execHostWaiterDisarm s
  | .hostWaiterFiredClear => Sys2Proof.Machine.execHostWaiterFiredClear s
  | .hostHdmWrite => Sys2Proof.Machine.execHostHdmWrite s
  | .hostHdmRead => Sys2Proof.Machine.execHostHdmRead s
  | .commandWindowWrite => Sys2Proof.Machine.execCommandWindowWrite s
  | .hostLinkDown => Sys2Proof.Machine.execHostLinkDown s
  | .functionLevelReset => Sys2Proof.Machine.execFunctionLevelReset s
  | .oczerLinkFailure => Sys2Proof.Machine.execOczerLinkFailure s
  | .d3PathTimeout => Sys2Proof.Machine.execD3PathTimeout s
  | .mediaDecode => Sys2Proof.Machine.execMediaDecode s
  | .mediaEncode => Sys2Proof.Machine.execMediaEncode s
  | .mediaReset => Sys2Proof.Machine.execMediaReset s
  | .mediaRowReport => Sys2Proof.Machine.execMediaRowReport s
  | .mediaRelcWake => Sys2Proof.Machine.execMediaRelcWake s
  | .mediaJobComplete => Sys2Proof.Machine.execMediaJobComplete s
  | .readinessReport => Sys2Proof.Machine.execReadinessReport s
  | .slackMonitor => Sys2Proof.Machine.execSlackMonitor s
  | .clusterRetirement => Sys2Proof.Machine.execClusterRetirement s
  | .fieldTestResult => Sys2Proof.Machine.execFieldTestResult s
  | .firmwareImageUpdate => Sys2Proof.Machine.execFirmwareImageUpdate s
  | .spdmGetVersion => Sys2Proof.Machine.execSpdmGetVersion s
  | .spdmGetCapabilities => Sys2Proof.Machine.execSpdmGetCapabilities s
  | .spdmNegotiateAlgorithms => Sys2Proof.Machine.execSpdmNegotiateAlgorithms s
  | .spdmGetDigests => Sys2Proof.Machine.execSpdmGetDigests s
  | .spdmGetCertificate => Sys2Proof.Machine.execSpdmGetCertificate s
  | .spdmChallenge => Sys2Proof.Machine.execSpdmChallenge s
  | .spdmGetMeasurements => Sys2Proof.Machine.execSpdmGetMeasurements s
  | .spdmKeyExchange => Sys2Proof.Machine.execSpdmKeyExchange s
  | .spdmFinish => Sys2Proof.Machine.execSpdmFinish s
  | .powerCapWrite => Sys2Proof.Machine.execPowerCapWrite s
  | .thermalTrip => Sys2Proof.Machine.execThermalTrip s
  | .deviceReset => Sys2Proof.Machine.execDeviceReset s
  | .hostLinkUp => Sys2Proof.Machine.execHostLinkUp s
  | .oczerLinkRecovery => Sys2Proof.Machine.execOczerLinkRecovery s
  | .ethernetLinkFailure => Sys2Proof.Machine.execEthernetLinkFailure s
  | .retransmissionTimerExpiry => Sys2Proof.Machine.execRetransmissionTimerExpiry s
  | .peerDomainAccess => Sys2Proof.Machine.execPeerDomainAccess s

end Sys2Proof.Machine
end

