-- ==== Sys2Proof/Machine/Due.lean ====
section
/-! DEFINITION. The events that are due by themselves: what the clock, the run queues, the launch queues and the arrays bring
about when nothing else is planned (log entry 8). Each is named only where it changes something. -/

namespace Sys2Proof.Machine

/-- An event with what it needs of its input. -/
abbrev Event := Instr × Input

/-- Timers, downgrades and REGRP windows whose time has come (R31, R147, R169). -/
def State.dueByClock (s : State) : Option Event :=
  let timer := (s.timers.find? s.timerDue).map fun t => ((.timerExpiry t.hdl, {}) : Event)
  let down := (s.downgrades.find? fun d => decide (d.horizon + 2 ≤ s.nowOf d.die)).map fun d =>
    ((.downgradeCompletion d.uid, {}) : Event)
  let window := (s.allWaves.find? s.windowOver).map fun w => ((.regrpWindowExpiry w.hdl, {}) : Event)
  let inval := (s.invals.find? fun i => decide (i.2.2.2 ≤ s.nowOf i.1)).map fun i =>
    ((.atsInvalidation, { die := i.1 }) : Event)
  [timer, down, window, inval].findSome? id

/-- Grants whose horizon has passed, and messages that a lost Ethernet path holds up (R164, R413, R414). -/
def State.dueFlight (s : State) : Option Event :=
  let grant := (s.flights.find? fun f => f.grants.any fun g => g.ready (s.nowOf f.senderDie)).map fun f =>
    (((if f.pkg = s.pkg then .grantMapping f.uid else .grantCopy f.uid), {}) : Event)
  let lost := (s.flights.find? s.pathTimedOut).map fun f =>
    ((.d3PathTimeout, { n := f.uid }) : Event)
  let again := (s.unacked.find? fun d => decide (d.sent + 8000 ≤ s.nowOf d.die)).map fun d =>
    ((.retransmissionTimerExpiry, { die := d.die, n := d.pkg, m := d.peer }) : Event)
  [grant, lost, again].findSome? id

/-- Work of the homes and arrays that nothing holds up (R64, R91, R299). -/
def State.dueHome (s : State) : Option Event :=
  let mma := (leastBy (fun a b : Mma => decide (a.uid < b.uid)) s.mmas).map fun m => ((.mmaComplete m.uid, {}) : Event)
  let scrub := s.scrubs.head?.map fun c => ((.scrubWriteback, { pa := 32 * c.sector }) : Event)
  let brk := (s.pendBreaks.find? fun b => s.pathUp 0 b.pkg || s.pathUp 1 b.pkg).map fun _ =>
    ((.pendingBreakPerform, {}) : Event)
  [mma, scrub, brk].findSome? id

/-- An access completes on whose slot a wave's next instruction waits: the manual bounds no access's time (R105, R348; log
entry 8). -/
def State.dueAccess (s : State) : Option Event :=
  (s.allWaves.find? fun w => w.ready && decide (s.slotsWaited w ≠ 0#8)).map fun w =>
    (.accessCompletion w.hdl (BitVec.ofNat 3 (((upto 8).find? fun i => (s.slotsWaited w).getLsbD i).getD 0)), {})

/-- What a cluster's run queue leads to (R172, R173). -/
def State.dueCluster (s : State) (die c : Nat) : Option Event :=
  let fresh := s.waves.any fun w =>
    decide (w.st = .created) && decide (w.die = die) && decide (w.cluster = c) && decide (w.since ≤ s.nowOf die)
  if fresh || (s.placeNext die c).isSome then some (.wavePlacement, { die := die, n := c })
  else if (s.placeRoom die c).isSome then some (.wavePlacement, { die := die, n := c })
  else if (s.evictionChoice die c).isSome then some (.eviction, { die := die, n := c })
  else if (s.preemptionChoice die c).isSome then some (.preemption, { die := die, n := c })
  else none

/-- What a die's launch queue and its saved teams lead to (R88, R173, R343). -/
def State.dueDie (s : State) (die : Nat) : Option Event :=
  if (s.placementChoice die).isSome || (s.testRoom die).isSome then some (.teamPlacement, { die := die })
  else if (s.reloadChoice die).isSome || (s.reloadRoom die).isSome then some (.teamReload, { die := die })
  else if (s.saveChoice die).isSome then some (.teamSave, { die := die })
  else none

/-- The event that is due next, where there is one. -/
def State.dueEvent (s : State) : Option Event :=
  let ageing : Option Event := if s.runq.any s.aged then some (.priorityAgeing, {}) else none
  let clusters : List (Nat × Nat) := (upto 12).map fun i => (i / 6, i % 6)
  match [s.dueByClock, s.dueFlight, s.dueHome, s.dueAccess, ageing].findSome? id with
  | some e => some e
  | none =>
    match clusters.findSome? fun c => s.dueCluster c.1 c.2 with
    | some e => some e
    | none => [0, 1].findSome? s.dueDie

/-- A tripped package comes back only with a reset or a power-up (R154, R434). -/
def State.resets (s : State) : Bool :=
  match s.agenda with
  | .event .deviceReset _ :: _ => true
  | _ => false

/-- An input on one of the two dies. -/
def onDie (i : Input) : Input := { i with die := i.die % 2 }

end Sys2Proof.Machine
end

