-- ==== Sys2Proof/Machine/Turn.lean ====
section
/-! DEFINITION. Whose turn it is: a wave's boundary, an event of the agenda, the events owed (log entry 8). -/

namespace Sys2Proof.Machine

/-- The wave at issue fetches and runs its next instruction (R195, R349). -/
def runNext (s : State) : Host.Outcome State Fault Refusal :=
  match s.fetchInstr with
  | (s, .parked) => .next s
  | (s, .reserved) => .next (s.trap .illRsvd)
  | (s, .instr i) => exec i (s.noteIssue (slotB s.opcode))

/-- A port, of no number in use, on which every trap could be reported. -/
def trapPort (proc : Handle) : Port := ⟨0xFFFFFFFF#32, proc, 12, 1, 0#64, 0, .plain, 0, 0, 0, [], [], false, []⟩

/-- Whether the wave's next instruction traps: whether it would park on a trap, had its process a fault port. -/
def State.trapsNext (s : State) : Bool :=
  let s := s.updProc s.wave.proc fun p => { p with fport := 0xFFFFFFFF#32 }
  match runNext { s with ports := trapPort s.wave.proc :: s.ports } with
  | .next t => ((t.findWave s.wave.hdl).map (·.await.isTrap)).getD false
  | _ => false

/-- The wave of a handle reaches a boundary: a due interrupt is taken before its next instruction, unless that
instruction traps (R227, R374); an instruction that something holds does not issue (R348). -/
def issue (h : Handle) (s : State) : Host.Outcome State Fault Refusal :=
  let s := s.turnTo h
  if s.wave.hdl = h ∧ s.wave.ready then
    if s.wave.interruptDue && !s.trapsNext then exec (.userInterruptEntry h) s
    else if s.held s.wave then .next s
    else runNext s
  else .next s

/-- A turn of the agenda. -/
def turn (t : Turn) (s : State) : Host.Outcome State Fault Refusal :=
  match t with
  | .issue h => issue h s
  | .event i inp => exec i { s with inp := onDie inp }
  | .elapse _ _ => .next s
  | .strike core sector => .next (s.strikeSector core sector)
  | .evict core sector => .next (s.l1FlushLine core (lineOf sector))
  | .upset u => .next { s with upset := some u }
  | .mend die _ place => .next (s.mendAt (die % 2) place)
  | .work n =>
    match s.work[n]? with
    | some (i, inp) => exec i { s with work := s.work.eraseIdx n, inp := inp }
    | none => .next s

/-- How long a turn takes: what the agenda says, else one tick (log entry 1). -/
def Turn.time : Turn → Nat × Nat
  | .elapse a b => (a, b)
  | _ => (Config.tick, Config.tick)

end Sys2Proof.Machine
end

