-- ==== Sys2Proof/Machine/Step.lean ====
section
/-! DEFINITION. One step of the machine: whose turn it is, the fetch, and the instruction or event (log entry 8). -/

namespace Sys2Proof.Machine

/-- One step: a turn of the agenda, else the oldest event owed, else one that is due, else the next ready wave, else time
passes. -/
def step (s : State) : Host.Outcome State Fault Refusal :=
  if s.tripped && !s.resets then .fault .poweredOff
  else
    match s.agenda with
    | t :: rest => turn t ({ s with agenda := rest }.elapse t.time.1 t.time.2)
    | [] =>
      let s := s.elapse Config.tick Config.tick
      match s.work with
      | (i, inp) :: rest => exec i { s with work := rest, inp := inp }
      | [] =>
        match s.dueEvent with
        | some (i, inp) => exec i { s with inp := inp }
        | none =>
          match s.nextReady with
          | some h => issue h s
          | none => .next s

/-- The handle of the wave that `withFetchWord` makes. -/
def probeHandle : Handle := 0x20000001#32

/-- The process of that wave. -/
def probeProc : Handle := 0x10000101#32

/-- The code version that it is bound to; it names the running stepping, so experimental opcodes are not barred (R194). -/
def probeCode : CodeVer :=
  ⟨0x60000201#32, probeProc, 0x10000#64, [0x20000], Config.stepping, [], [], [], [], false, true, true, false, 0, true, []⟩

/-- The instruction of the bits `w` where `step` fetches its next one: the wave at issue becomes a resident,
privileged wave of full budget at the first user page, whose page a live executable lease maps (log entry 7). -/
def State.withFetchWord (s : State) (nbits w : Nat) : State :=
  let va := 0x10000
  let lease : TlbEntry :=
    ⟨s.wave.die, probeProc, va, 65536, BitVec.ofNat 64 (0x20000 + 0x3F), true, true, s.nowOf s.wave.die + 50000, .die⟩
  let wave : Wave :=
    { s.wave with hdl := probeHandle, proc := probeProc, priv := true, vblk := 30, ntiles := 8, st := .resident,
                  await := .nothing, halted := false, refilling := false, unfKind := .no, uiPend := false, pair := none,
                  codever := probeCode.hdl, pc := BitVec.ofNat 64 va }
  { s with wave := wave,
           tripped := false,
           codes := probeCode :: s.codes,
           tlb := lease :: s.tlb,
           mem := Sparse.putList Memory.unlisted s.mem 0x20000 (bytesOfNat 8 (w % 2 ^ nbits)),
           agenda := .issue probeHandle :: s.agenda }

end Sys2Proof.Machine
end

