-- ==== Sys2Proof/Safety.lean ====
section
/-! DEFINITION. What counts as a safe state of the machine, in the terms that statements use. -/

namespace Sys2Proof

open Sys2Proof.Machine

/-- The clock counters of the package agree within 2 ns (R2, R435). -/
def ClocksAgree (s : State) : Prop := s.clock.c0 ≤ s.clock.c1 + 2 ∧ s.clock.c1 ≤ s.clock.c0 + 2

/-- Memory is in its one canonical form. -/
def MemoryCanonical (s : State) : Prop := Memory.wf s.mem = true

end Sys2Proof
end

