-- ==== Sys2Proof/Certificates/Slice0/Obligations.lean ====
section
/-! DEFINITION. The statements for the provers: what instructions and the machine do, from the numbered rules of the
spec. The names of `Sys2Proof.Claims` only abbreviate what several statements say. -/

namespace Sys2Proof.Claims

open Sys2Proof.Machine

/-- No check failure that was injected strikes a uniform instruction of the wave at issue, and no error has arisen in a
datapath (R226, R371). -/
def Unstruck (s : State) : Prop := s.strikes none = none ∧ s.upset = none

/-- The wave at issue has no MMA that has not completed (R292). -/
def NoMmas (s : State) : Prop := ∀ m ∈ s.mmas, m.wave ≠ s.wave.hdl

/-- No check failure that was injected strikes one of some lanes, and no error has arisen in a datapath (R226, R371). -/
def UnstruckIn (s : State) (lanes : List Nat) : Prop := s.strikes (some lanes) = none ∧ s.upset = none

/-- No check failure strikes one of some lanes, and no MMA reads a register that the instruction writes (R226, R292,
R371). -/
def WorksIn (s : State) (lanes : List Nat) : Prop := UnstruckIn s lanes ∧ NoMmas s

/-- The wave after an instruction of `n` bytes that did nothing else: the PC moves on, nothing is unfinished. -/
def past (n : Nat) (w : Wave) : Wave :=
  { w with pc := w.pc + BitVec.ofNat 64 n, unf := 0#32, unfKind := .no, gathB := false, gathF := false }

/-- The wave at a PC with nothing unfinished. -/
def goneTo (pc : DWord) (w : Wave) : Wave :=
  { w with pc := pc, unf := 0#32, unfKind := .no, gathB := false, gathF := false }

/-- The state with another wave at issue in its place: every other field is as it was. -/
def withWave (s : State) (w : Wave) : State := { s with wave := w }

/-- cc from its flags, F to Z (R212). -/
def ccOf (f b v c n z : Bool) : BitVec 6 :=
  BitVec.ofNat 6 (f.toNat * 32 + b.toNat * 16 + v.toNat * 8 + c.toNat * 4 + n.toNat * 2 + z.toNat)

/-- The wave with Z, N, C and V written, B and F as they were. -/
def withZNCV (z n c v : Bool) (w : Wave) : Wave :=
  { w with cc := ccOf (w.cc.getLsbD 5) (w.cc.getLsbD 4) v c n z }

/-- The wave with F written, the other flags as they were. -/
def withF (b : Bool) (w : Wave) : Wave :=
  let cc := ccOf b (w.cc.getLsbD 4) (w.cc.getLsbD 3) (w.cc.getLsbD 2) (w.cc.getLsbD 1) (w.cc.getLsbD 0)
  { w with cc := cc }

/-- A double word written to a uniform destination (R184): s registers whole, k registers their low 32 bits. -/
def toUniform (a : BitVec 8) (v : DWord) (w : Wave) : Wave :=
  if a.toNat < 0x40 then { w with s := Sparse.put 0#64 w.s a.toNat v }
  else if 0x50 ≤ a.toNat ∧ a.toNat < 0x58 then
    { w with k := Sparse.put 0#32 w.k (a.toNat - 0x50) (v.setWidth 32) }
  else w

/-- Number of set bits among the low `n` of a number. -/
def onesBelow (n v : Nat) : Nat := (List.range n).countP fun i => v.testBit i

/-- `n` registers from `c` lie within the wave's budget, aligned (R136, R183). -/
def inBudget (w : Wave) (n : Nat) (c : BitVec 8) : Prop :=
  c.toNat < 0xF0 ∧ c.toNat % n = 0 ∧ c.toNat + n ≤ 8 * w.vblk

/-- A vector source: registers, or one of the four special codes. -/
def srcFits (w : Wave) (n : Nat) (c : BitVec 8) : Prop := inBudget w n c ∨ (0xF0 ≤ c.toNat ∧ c.toNat ≤ 0xF3)

/-- A vector destination: registers, or 0xFF, which discards the result. -/
def dstFits (w : Wave) (n : Nat) (c : BitVec 8) : Prop := inBudget w n c ∨ c = 0xFF#8

/-- What lane `l` reads through a vector source code of `n` registers, `n` being 1 or 2 (R183): 0, its position, its thread
id, all ones, or the registers, the first lowest. -/
def laneOf (w : Wave) (c : BitVec 8) (n l : Nat) : Nat :=
  if c = 0xF0#8 then 0
  else if c = 0xF1#8 then l
  else if c = 0xF2#8 then (Sparse.get 0#32 w.tid l).toNat
  else if c = 0xF3#8 then 2 ^ (32 * n) - 1
  else (w.getV c.toNat l).toNat + (if n = 2 then 2 ^ 32 * (w.getV (c.toNat + 1) l).toNat else 0)

/-- The wave after a vector instruction of `n` bytes: every lane at work holds `val` in the `k` registers from `a` (0xFF
discards it), every other lane and register is as it was, and nothing else changes but the PC. -/
def writesLanes (s : State) (i : Instr) (n : Nat) (a : BitVec 8) (k : Nat) (val : Nat → Nat) : Prop :=
  ∃ v, exec i s = .next (withWave s (past n { s.wave with v := v })) ∧
    ∀ r l, l < 32 → Sparse.get 0#32 v (32 * r + l) =
      if s.wave.activeMask.getLsbD l = true ∧ a ≠ 0xFF#8 ∧ a.toNat ≤ r ∧ r < a.toNat + k then
        BitVec.ofNat 32 (val l / 2 ^ (32 * (r - a.toNat)))
      else s.wave.getV r l

/-- The wave after a vector compare: the k register holds the lanes at work for which the comparison holds. -/
def writesMask (s : State) (i : Instr) (kd : BitVec 3) (p : Nat → Prop) : Prop :=
  ∃ m : Word, exec i s = .next (withWave s (past 8 { s.wave with k := Sparse.put 0#32 s.wave.k kd.toNat m })) ∧
    ∀ l < 32, m.getLsbD l = true ↔ s.wave.activeMask.getLsbD l = true ∧ p l

/-- A lane value made element by element. -/
def perElement (t : EType) (f : Nat → Nat) : Nat := t.join ((List.range t.elems).map f)

/-- A number moved into the range of the integers of `n` bits, signed or not. -/
def clampedTo (n : Nat) (signed : Bool) (r : Int) : Int :=
  let lo : Int := if signed then -(2 ^ (n - 1)) else 0
  let hi : Int := if signed then 2 ^ (n - 1) - 1 else 2 ^ n - 1
  if r < lo then lo else if hi < r then hi else r

/-- The value of a matrix element under a format code, the exponent of its block left out (R284 to R287, R297). -/
def valueOf (code v : Nat) : FVal :=
  match code with
  | 0 => Fmt.e4m3.decode v
  | 1 => Fmt.e5m2.decode v
  | 2 => Fmt.e3m2.decode (v % 64)
  | 3 => Fmt.e2m3.decode (v % 64)
  | 4 => Fmt.e2m1.decode v
  | 6 => Fmt.bf16.decode v
  | 7 => Fmt.f16.decode v
  | _ =>
    let n := if code = 5 then 8 else 8 - 2 * (code - 8)
    let q := (BitVec.ofNat n v).toInt
    .num (decide (q < 0)) q.natAbs (if code = 5 then 0 else 2 - (n : Int))

/-- The bits of element X(i, k) of an operand, read normally or transposed (R290). -/
def elementOf (byte : Nat → Nat) (code : Nat) (trans : Bool) (i k : Nat) : Nat :=
  if code = 4 then (if trans then byte (64 * k + i / 2) / 16 ^ (i % 2) % 16 else byte (64 * i + k / 2) / 16 ^ (k % 2) % 16)
  else if code = 6 ∨ code = 7 then
    (if trans then byte (256 * k + 2 * i) + 256 * byte (256 * k + 2 * i + 1)
     else byte (64 * i + 2 * k) + 256 * byte (64 * i + 2 * k + 1))
  else (if trans then byte (128 * k + i) else byte (64 * i + k))

/-- K of one panel (R290, R294). -/
def panelDepth (code : Nat) : Nat := if code = 4 then 128 else if code = 6 ∨ code = 7 then 32 else 64

/-- `x` stands above `y`: a NaN above every number, else the larger magnitude (R306). -/
def outranks (x y : FVal) : Prop :=
  y ≠ .nan ∧ (x = .nan ∨ (∃ g, x = .inf g ∧ ∀ h, y ≠ .inf h) ∨
    ∃ g m e h n k, x = .num g m e ∧ y = .num h n k ∧ (n : ℚ) * (2 : ℚ) ^ k < (m : ℚ) * (2 : ℚ) ^ e)

/-- `E` is the scale that fits the largest finite magnitude of a block to a format of this emax (R305). -/
def IsScale (vals : List FVal) (emax : Int) (E : Nat) : Prop :=
  ((∀ (g : Bool) (m : Nat) (e : Int), .num g m e ∈ vals → m = 0) ∧ E = 127) ∨
    ∃ k : Int, (∃ (g : Bool) (m : Nat) (e : Int), .num g m e ∈ vals ∧ (2 : ℚ) ^ k ≤ (m : ℚ) * (2 : ℚ) ^ e) ∧
      (∀ (g : Bool) (m : Nat) (e : Int), .num g m e ∈ vals → (m : ℚ) * (2 : ℚ) ^ e < (2 : ℚ) ^ (k + 1)) ∧
      (E : Int) = min (max (k - emax + 127) 0) 254

/-- An exact integer result in `n` bits: fitted to their range under `sat`, and else modulo 2^n (R237). -/
def fittedTo (n : Nat) (signed sat : Bool) (r : Int) : Nat :=
  ((if sat then clampedTo n signed r else r) % 2 ^ n).toNat

/-- An exact integer result in an element type (R237). -/
def fitted (t : EType) (sat : Bool) (r : Int) : Nat := fittedTo t.bitsOf t.signed sat r

/-- The formats of R284. -/
def formats : List Fmt := [.e4m3, .e5m2, .e3m2, .e2m3, .e2m1, .f16, .bf16, .f32, .f64]

/-- The magnitude of a pattern without its sign, in a format whose exponents go on without end (R284). -/
def magOf (f : Fmt) (g : Nat) : ℚ :=
  if g < 2 ^ f.mb then (g : ℚ) * (2 : ℚ) ^ f.qmin
  else ((2 ^ f.mb + g % 2 ^ f.mb : Nat) : ℚ) * (2 : ℚ) ^ (f.qmin + (g / 2 ^ f.mb : Nat) - 1)

/-- A magnitude a fraction above an `odd` or even step is rounded away from zero (R187, R245, R288). -/
def movesUp (rn : Rnd) (neg odd : Bool) (frac : ℚ) : Prop :=
  match rn.mode with
  | 0 => 1 / 2 < frac ∨ (frac = 1 / 2 ∧ odd = true)
  | 1 => False
  | 2 => neg = false ∧ 0 < frac
  | 3 => neg = true ∧ 0 < frac
  | 4 => 1 / 2 ≤ frac
  | _ => rn.r < ⌊frac * 2 ^ 32⌋₊

/-- What stands for an infinity of a sign, without it (R255). -/
def infinityOf (f : Fmt) : Nat :=
  match f.special with
  | .ieee => (2 ^ f.eb - 1) * 2 ^ f.mb
  | .nanOnly => 2 ^ (f.eb + f.mb) - 1
  | .none => 2 ^ (f.eb + f.mb) - 1

/-- `v` is ± `x` rounded once: one of the two magnitudes of the format around `x`, as the rounding says, or beyond the largest
finite one what R437 says. -/
def IsRounding (f : Fmt) (rn : Rnd) (neg : Bool) (x : ℚ) (v : Nat) : Prop :=
  ∃ (g : Nat) (up : Bool), magOf f g ≤ x ∧ x < magOf f (g + 1) ∧
    (up = true ↔ movesUp rn neg (decide (g % 2 = 1)) ((x - magOf f g) / (magOf f (g + 1) - magOf f g))) ∧
    v = neg.toNat * 2 ^ (f.eb + f.mb) +
      (if g + up.toNat ≤ f.maxFinite then g + up.toNat
       else if rn.sat = true ∨ rn.mode = 1 ∨ (rn.mode = 2 ∧ neg = true) ∨ (rn.mode = 3 ∧ neg = false) then f.maxFinite
       else infinityOf f)

/-- A subnormal pattern becomes a zero of its sign under `ftz` (R245). -/
def flushed (f : Fmt) (ftz : Bool) (b : Nat) : Nat :=
  if ftz = true ∧ b / 2 ^ f.mb % 2 ^ f.eb = 0 then b / 2 ^ (f.eb + f.mb) % 2 * 2 ^ (f.eb + f.mb) else b

/-- The integer nearest to ± `m` × 2^`e` under a rounding (R187, R253). -/
def integerOf (rn : Rnd) (neg : Bool) (m : Nat) (e : Int) : Int :=
  let d := 2 ^ (-e).toNat
  let q := m * 2 ^ e.toNat / d
  let rem := m * 2 ^ e.toNat % d
  let up : Bool := match rn.mode with
    | 0 => decide (d < 2 * rem) || (decide (d = 2 * rem) && decide (q % 2 = 1))
    | 1 => false
    | 2 => !neg && decide (0 < rem)
    | 3 => neg && decide (0 < rem)
    | 4 => decide (d ≤ 2 * rem)
    | _ => decide (rn.r < rem * 2 ^ 32 / d)
  let k : Int := (q + up.toNat : Nat)
  if neg then -k else k

/-- The wave once the slots that an instruction waits on are clear (R105). -/
def afterWait (s : State) (x : Slots) : State := withWave s { s.wave with slots := s.wave.slots &&& ~~~x.wait }

/-- The slots after an instruction that sets its own, where it names one (R105). -/
def slotsSet (x : Slots) (b : BitVec 8) : BitVec 8 := if x.set then b ||| BitVec.ofNat 8 (2 ^ x.slot.toNat) else b

/-- Every access of an instruction passes its checks of R35: the instruction is not in the middle of asking the host, no check failure strikes it, none is misaligned, out of the
grant or refused, each translates, in `u`, and is sent on to its home, and no page's type bars it. -/
def Reaches (s : State) (f : Form) (delta : Nat → Bool) (u : State) (hits : List Hit) : Prop :=
  s.wave.asked = [] ∧ (if f.uni then Unstruck s else UnstruckIn s s.wave.lanes) ∧
  s.rowOne f (s.accs f) delta = none ∧
  (∃ rs, State.translateAll (if f.sp = true ∨ s.accs f = [] then s else s.rewalk f.xreg) f (s.accs f) = (u, rs) ∧
    rs.map (fun r => r.bind (u.sendOn f)) = hits.map Except.ok) ∧
  u.upset = none ∧ ∀ h ∈ hits, f.typeTrap h = none

/-- A byte as a core finds it: what its L1 holds of it where the access looks there, an acquiring read and any other its
home (R52, R53, R109). -/
def byteSeen (u : State) (h : Hit) (acq : Bool) (i : Nat) : Byte :=
  let home := u.readByte (decide (h.type = 2)) (h.key + i)
  if h.looks = true ∧ acq = false then
    match u.l1.find? (fun e => decide (e.core = u.wave.coreNo) && decide (e.sector = (h.key + i) / 32)) with
    | some e => if e.valid.getLsbD ((h.key + i) % 32) then e.data.getD ((h.key + i) % 32) 0#8 else home
    | none => home
  else home

/-- The number in the bytes that an access finds, little-endian (R5). -/
def numberSeen (u : State) (h : Hit) (acq : Bool) (n : Nat) : Nat :=
  natOfBytes ((List.range n).map (byteSeen u h acq))

/-- Key `k` lies in the `n` bytes of an access. -/
def covers (h : Hit) (n k : Nat) : Prop := h.key ≤ k ∧ k < h.key + n

/-- A write is made at its home: scratchpad, a page that is not cached, a page of the host or a peer, a write-through
policy, or a release beyond the core (R53, R109). -/
def atHome (h : Hit) (x : MemExt) : Prop :=
  isSpKey h.key = true ∨ h.cached = false ∨ h.target ≠ 0 ∨ x.policy.getLsbD 0 = true ∨
    ((x.order = .rel ∨ x.order = .acqrel) ∧ x.scope ≠ .wave ∧ x.scope ≠ .team ∧ x.scope ≠ .core)

/-- An ordered access acquires beyond the core (R98, R109). -/
def acquires (sp : Bool) (x : MemExt) : Bool :=
  (x.order == .acq || x.order == .acqrel) && !(x.scope == .wave || x.scope == .team || x.scope == .core) && !sp

/-- Nothing that the statement leaves out stands in the way of plain memory: no pair, no MMA in flight, an empty L1, no MX
alias entry. -/
def Plain (u : State) : Prop := u.wave.pair = none ∧ NoMmas u ∧ u.l1 = [] ∧ u.mxAlias = []

/-- The wave when the reply to a kernel-object instruction comes (R325): its value, F, its slot, 8 bytes on. -/
def replied (u : State) (x : Slots) (a : BitVec 8) (v : DWord) (bad : Bool) : Wave :=
  past 8 { withF bad (toUniform a v u.wave) with slots := slotsSet x u.wave.slots }

/-- The same for one without a destination. -/
def ended (u : State) (x : Slots) (bad : Bool) : Wave := past 8 { withF bad u.wave with slots := slotsSet x u.wave.slots }

/-- No redundant pair, no MMA in flight, and nothing in a core's L1 for a release to write back. -/
def Quiet (s : State) : Prop := s.wave.pair = none ∧ s.l1 = [] ∧ NoMmas s

/-- Of the waves only the time changes to which their stalls are counted (R346; log entry 46). -/
def onlyStalled (s u : State) : Prop :=
  u.wave = { s.wave with stallAt := u.wave.stallAt } ∧
    u.waves.map (fun w => { w with stallAt := 0 }) = s.waves.map fun w => { w with stallAt := 0 }

/-- The instruction or event ends in a next state of which something holds. -/
def Ends (i : Instr) (s : State) (p : State → Prop) : Prop := ∃ t, exec i s = .next t ∧ p t

end Sys2Proof.Claims

open Sys2Proof Sys2Proof.Machine Sys2Proof.Claims

/-- R214, R213: SADD, SSUB and SCMP compute modulo 2^64; Z, N, C (carry, borrow) and V (the exact signed result does
not fit) are those of the result; B, F and everything else but the destination and the PC stay. R213, R214: SAND, SOR
and SXOR set Z and N from the result and clear C and V. -/
def Obligations.UniformAddSubtractLogic : Prop :=
  (∀ (s : State) (a b c : BitVec 8), Unstruck s →
     let x := s.readU b
     let y := s.readU c
     exec (.sadd a b c) s = .next (withWave s (past 4 (toUniform a (x + y)
       (withZNCV (decide (x + y = 0#64)) ((x + y).msb) (decide (2 ^ 64 ≤ x.toNat + y.toNat))
         (decide (x.toInt + y.toInt < -(2 ^ 63) ∨ 2 ^ 63 ≤ x.toInt + y.toInt)) s.wave)))) ∧
     exec (.ssub a b c) s = .next (withWave s (past 4 (toUniform a (x - y)
       (withZNCV (decide (x = y)) ((x - y).msb) (decide (x.toNat < y.toNat))
         (decide (x.toInt - y.toInt < -(2 ^ 63) ∨ 2 ^ 63 ≤ x.toInt - y.toInt)) s.wave)))) ∧
     exec (.scmp b c) s = .next (withWave s (past 4
       (withZNCV (decide (x = y)) ((x - y).msb) (decide (x.toNat < y.toNat))
         (decide (x.toInt - y.toInt < -(2 ^ 63) ∨ 2 ^ 63 ≤ x.toInt - y.toInt)) s.wave)))) ∧
  (∀ (s : State) (a b c : BitVec 8), Unstruck s →
     let x := s.readU b
     let y := s.readU c
     exec (.sand a b c) s = .next (withWave s (past 4 (toUniform a (x &&& y)
       (withZNCV (decide (x &&& y = 0#64)) ((x &&& y).msb) false false s.wave)))) ∧
     exec (.sor a b c) s = .next (withWave s (past 4 (toUniform a (x ||| y)
       (withZNCV (decide (x ||| y = 0#64)) ((x ||| y).msb) false false s.wave)))) ∧
     exec (.sxor a b c) s = .next (withWave s (past 4 (toUniform a (x ^^^ y)
       (withZNCV (decide (x = y)) ((x ^^^ y).msb) false false s.wave)))))

/-- R214: SMUL, SMULH (bits 127 to 64 of the signed product), SSHL, SSHR and SSRA (a count of 64 or more gives 0, or
the sign), SMIN, SMAX, SSEL on Z, SMOV, SCLZ and SPOPC; cc is kept. R215: SLI sign-extends its literal, SLI.Z
zero-extends it, SLI.HI replaces bits 63 to 32 of an s register and keeps the rest; cc is kept. -/
def Obligations.UniformMultiplyShiftLiterals : Prop :=
  (∀ (s : State) (a b c : BitVec 8), Unstruck s →
     let x := s.readU b
     let y := s.readU c
     let gives : DWord → State := fun r => withWave s (past 4 (toUniform a r s.wave))
     exec (.smul a b c) s = .next (gives (x * y)) ∧
     exec (.smulh a b c) s = .next (gives (BitVec.ofInt 64 ((x.toInt * y.toInt) >>> 64))) ∧
     exec (.sshl a b c) s = .next (gives (BitVec.ofNat 64 (x.toNat * 2 ^ y.toNat))) ∧
     exec (.sshr a b c) s = .next (gives (BitVec.ofNat 64 (x.toNat / 2 ^ y.toNat))) ∧
     exec (.ssra a b c) s = .next (gives (BitVec.ofInt 64 (x.toInt / 2 ^ y.toNat))) ∧
     exec (.smin a b c) s = .next (gives (BitVec.ofInt 64 (min x.toInt y.toInt))) ∧
     exec (.smax a b c) s = .next (gives (BitVec.ofInt 64 (max x.toInt y.toInt))) ∧
     exec (.ssel a b c) s = .next (gives (if s.wave.cc.getLsbD 0 then x else y)) ∧
     exec (.smov a b) s = .next (gives x) ∧
     exec (.spopc a b) s = .next (gives (BitVec.ofNat 64 (onesBelow 64 x.toNat))) ∧
     (∃ n, exec (.sclz a b) s = .next (gives (BitVec.ofNat 64 n)) ∧ n ≤ 64 ∧ x.toNat < 2 ^ (64 - n) ∧
       (n < 64 → 2 ^ (63 - n) ≤ x.toNat))) ∧
  (∀ (s : State) (a : BitVec 8) (lit : Word), Unstruck s → a.toNat < 0x40 →
     let gives : DWord → State := fun r => withWave s (past 8 (toUniform a r s.wave))
     exec (.sli a lit) s = .next (gives (BitVec.ofInt 64 lit.toInt)) ∧
     exec (.sliZ a lit) s = .next (gives (BitVec.ofNat 64 lit.toNat)) ∧
     exec (.sliHi a lit) s =
       .next (gives (BitVec.ofNat 64 (lit.toNat * 2 ^ 32 + (Sparse.get 0#64 s.wave.s a.toNat).toNat % 2 ^ 32))))

/-- R221, R213: mask instructions work on the low 32 bits of their sources. KAND to KMOV set Z and N from the 32-bit
result, KPOP and KFIRST set Z when the source is 0; the rest of cc is kept. -/
def Obligations.MaskInstructions : Prop :=
  ∀ (s : State) (a b c : BitVec 8), Unstruck s →
    let x : Word := (s.readU b).setWidth 32
    let y : Word := (s.readU c).setWidth 32
    let w := s.wave
    let kept : Bool → Bool → Wave := fun z n =>
      withZNCV z n (w.cc.getLsbD 2) (w.cc.getLsbD 3) w
    let gives : Word → State := fun r =>
      withWave s (past 4 (toUniform a (r.setWidth 64) (kept (decide (r = 0#32)) r.msb)))
    let counts : Nat → State := fun n =>
      withWave s (past 4 (toUniform a (BitVec.ofNat 64 n) (kept (decide (x = 0#32)) (w.cc.getLsbD 1))))
    exec (.kand a b c) s = .next (gives (x &&& y)) ∧
    exec (.kor a b c) s = .next (gives (x ||| y)) ∧
    exec (.kxor a b c) s = .next (gives (x ^^^ y)) ∧
    exec (.knot a b) s = .next (gives (~~~x)) ∧
    exec (.kmov a b) s = .next (gives x) ∧
    exec (.kpop a b) s = .next (counts (onesBelow 32 x.toNat)) ∧
    (∃ i, exec (.kfirst a b) s = .next (counts i) ∧ (∀ j < i, x.getLsbD j = false) ∧
      (x = 0#32 → i = 32) ∧ (x ≠ 0#32 → i < 32 ∧ x.getLsbD i = true))

/-- R217, R218, R219: branches go to PC + 4 × offset where they are taken, else past the instruction; BMZ, BMNZ and
BMALL test the active lanes; CALL links PC + 4 in s63; NOP only moves on. Nothing else changes. R219: RET jumps to
s63, JMPR to its source, JMPR with a link also writes PC + 4; an address that is not a multiple of 4 traps ALIGN, and
then neither jumps nor links. -/
def Obligations.ControlTransfer : Prop :=
  (∀ (s : State) (o : BitVec 24) (lit : Word) (cond : Cond), Unstruck s →
     let w := s.wave
     let to24 := w.pc + BitVec.ofInt 64 (4 * o.toInt)
     let goes : Bool → DWord → Nat → State := fun taken pc n => withWave s (if taken then goneTo pc w else past n w)
     let z := w.cc.getLsbD 0
     let n := w.cc.getLsbD 1
     let c := w.cc.getLsbD 2
     let v := w.cc.getLsbD 3
     let holds : Bool := match cond with
       | .eq => z | .ne => !z | .lt => n != v | .ge => n == v | .lo => c | .hs => !c | .mi => n | .pl => !n
       | .vs => v | .vc => !v | .bk => w.cc.getLsbD 4 | .nbk => !w.cc.getLsbD 4
       | .fl => w.cc.getLsbD 5 | .nfl => !w.cc.getLsbD 5
     exec .nop s = .next (goes false 0#64 4) ∧
     exec (.br o) s = .next (goes true to24 4) ∧
     exec (.bcc cond lit) s = .next (goes holds (w.pc + BitVec.ofInt 64 (4 * lit.toInt)) 8) ∧
     exec (.bmz o) s = .next (goes (decide (w.act = 0#32)) to24 4) ∧
     exec (.bmnz o) s = .next (goes (decide (w.act ≠ 0#32)) to24 4) ∧
     exec (.bmall o) s = .next (goes (decide (w.act = BitVec.allOnes 32)) to24 4) ∧
     exec (.call o) s =
       .next (withWave s (goneTo to24 { w with s := Sparse.put 0#64 w.s 63 (w.pc + 4#64) })) ∧
     (∃ u, exec .yield s = .next (withWave s u) ∧ u.pc = w.pc + 4#64 ∧ u.s = w.s ∧ u.k = w.k ∧ u.v = w.v ∧ u.x = w.x ∧
       u.tile = w.tile ∧ u.cc = w.cc ∧ u.mode = w.mode ∧ u.st = w.st ∧ u.stampA = s.clock.get w.die)) ∧
  (∀ (s : State) (a b : BitVec 8),
     let w := s.wave
     let target := s.readU b
     let back := Sparse.get 0#64 w.s 63
     (Unstruck s → back.toNat % 4 = 0 → exec .ret s = .next (withWave s (goneTo back w))) ∧
     (Unstruck s → target.toNat % 4 = 0 → exec (.jmpr b) s = .next (withWave s (goneTo target w))) ∧
     (Unstruck s → target.toNat % 4 = 0 →
       exec (.jmprLink a b) s = .next (withWave s (goneTo target (toUniform a (w.pc + 4#64) w)))) ∧
     (back.toNat % 4 ≠ 0 → exec .ret s = .next (s.trap .align)) ∧
     (target.toNat % 4 ≠ 0 → exec (.jmpr b) s = .next (s.trap .align) ∧
       exec (.jmprLink a b) s = .next (s.trap .align)))

/-- R184, R216: what a uniform code reads, registers and every special code, and that a uniform destination reads back: an s
register the value, a k register its low 32 bits; no other code is changed by the write. `stepid` is one of the two steppings
that R216 names; which of them is the model's choice (log entry 12). R189, R222, R223: SETM in its three forms writes the
mode register when the new value is legal and traps ILL_RSVD when it is not; SETM.CC writes cc from bits 5 to 0; GETM
and GETM.CC read them. -/
def Obligations.OperandsAndMode : Prop :=
  (∀ (s : State) (n : Nat) (a : BitVec 8) (v : DWord),
     (n < 0x40 → s.readU (BitVec.ofNat 8 n) = Sparse.get 0#64 s.wave.s n) ∧
     (0x40 ≤ n ∧ n < 0x50 →
       (s.readU (BitVec.ofNat 8 n)).toNat = (Sparse.get 0#256 s.wave.x (n - 0x40)).toNat % 2 ^ 56) ∧
     (0x50 ≤ n ∧ n < 0x58 →
       (s.readU (BitVec.ofNat 8 n)).toNat = (Sparse.get 0#32 s.wave.k (n - 0x50)).toNat) ∧
     (let w := s.wave
      let shows : BitVec 8 → Nat → Prop := fun c v => s.readU c = BitVec.ofNat 64 v
      shows 0x60#8 w.widx ∧ (w.pair = none → shows 0x61#8 w.hdl.toNat) ∧
      (∀ p, w.pair = some p → shows 0x61#8 (if p.side1 then p.partner.toNat else w.hdl.toNat)) ∧
      (∀ t g, s.teams.find? (fun t => decide (t.uid = w.team)) = some t →
        s.grids.find? (fun g => decide (g.uid = t.grid)) = some g →
        shows 0x62#8 t.ix ∧ shows 0x63#8 t.iy ∧ shows 0x64#8 t.iz ∧ shows 0x65#8 g.gx ∧ shows 0x66#8 g.gy ∧
          shows 0x67#8 g.gz ∧ shows 0x68#8 t.nwaves ∧ shows 0x73#8 (16384 * t.units) ∧ shows 0x74#8 t.tags) ∧
      shows 0x69#8 (if w.consumer then 1 else 0) ∧ shows 0x6A#8 w.core ∧ shows 0x6B#8 w.cluster ∧ shows 0x6C#8 w.die ∧
      shows 0x6D#8 s.pkg ∧ shows 0x6E#8 w.part ∧ shows 0x6F#8 (s.clock.get w.die) ∧ shows 0x70#8 w.mb.toNat ∧
      shows 0x71#8 (if w.priv then 1 else 0) ∧ shows 0x72#8 w.proc.toNat ∧ (shows 0x75#8 1 ∨ shows 0x75#8 2)) ∧
     (a.toNat < 0x40 → (withWave s (toUniform a v s.wave)).readU a = v) ∧
     (0x50 ≤ a.toNat ∧ a.toNat < 0x58 →
       ((withWave s (toUniform a v s.wave)).readU a).toNat = v.toNat % 2 ^ 32) ∧
     (n < 0x80 → n ≠ a.toNat →
       (withWave s (toUniform a v s.wave)).readU (BitVec.ofNat 8 n) = s.readU (BitVec.ofNat 8 n))) ∧
  (∀ (s : State) (a b : BitVec 8) (mask : BitVec 6) (lit : Word),
     let w := s.wave
     let legal : Word → Prop := fun m =>
       m.toNat / 8 % 32 ≤ 14 ∧ m.toNat / 256 % 8 ≤ 5 ∧ m.toNat / 8192 % 8 = 0
     let sets : Word → State := fun m => withWave s (past 8 { w with mode := m })
     let src : Word := (s.readU b).setWidth 32
     let part : Word := (w.mode &&& ~~~(modeMask mask)) ||| (lit &&& modeMask mask)
     (Unstruck s → legal lit → exec (.setm lit) s = .next (sets lit)) ∧
     (Unstruck s → legal src → exec (.setmSrc b) s = .next (sets src)) ∧
     (Unstruck s → legal part → exec (.setmPart mask lit) s = .next (sets part)) ∧
     (¬ legal lit → exec (.setm lit) s = .next (s.trap .illRsvd)) ∧
     (¬ legal src → exec (.setmSrc b) s = .next (s.trap .illRsvd)) ∧
     (¬ legal part → exec (.setmPart mask lit) s = .next (s.trap .illRsvd)) ∧
     (Unstruck s → exec (.setmCc b) s = .next (withWave s (past 8 { w with cc := (s.readU b).setWidth 6 }))) ∧
     (Unstruck s → exec (.getm a) s = .next (withWave s (past 4 (toUniform a (BitVec.ofNat 64 w.mode.toNat) w)))) ∧
     (Unstruck s → exec (.getmCc a) s = .next (withWave s (past 4 (toUniform a (BitVec.ofNat 64 w.cc.toNat) w)))))

/-- R224, R225: SYSRD copies a system register, every one of the table; SYSWR writes one, keeping only the bits that its map
stores, and clears F; SYSWR to uictl writes `en`, and clears `pend` where bit 1 is 1; with `arm` it also registers a waiter on
the counter of `uictr` for `uithr` in place of an earlier one, which fires at once where the counter has reached or is not
OK, and sets `armed`; where `uictr` is not aligned or does not translate to a readable type-C page it sets F. R224, R226, R355:
SYSWR to resinj is privileged. In a privileged wave a value that arms an execution is stored where its target is a live wave of
the process and the die; for any other target, and for a value that arms none, the other fields are stored with `arm` 0,
and F tells a target that failed; in any other wave it traps ILL_PRIV. -/
def Obligations.SystemRegisterAccess : Prop :=
  (∀ (s : State) (a b : BitVec 8), Unstruck s →
     let w := s.wave
     let v := s.readU b
     let reads : BitVec 8 → DWord → Prop := fun idx r =>
       exec (.sysrd a idx) s = .next (withWave s (past 4 (toUniform a r w)))
     let writes : BitVec 8 → Wave → Prop := fun idx u => exec (.syswr idx b) s = .next (withWave s (past 4 (withF false u)))
     reads 0x00#8 (w.proc.setWidth 64) ∧ reads 0x11#8 (BitVec.ofNat 64 w.basePri) ∧
     reads 0x12#8 (w.codever.setWidth 64) ∧ reads 0x20#8 w.uivec ∧ reads 0x22#8 w.uiepc ∧ reads 0x23#8 w.uisave ∧
     reads 0x24#8 w.uictr ∧ reads 0x25#8 w.uithr ∧
     (∀ p, s.procs.find? (fun p => decide (p.hdl = w.proc)) = some p →
       reads 0x01#8 p.ptroot ∧ reads 0x02#8 (BitVec.ofNat 64 p.dlease) ∧ reads 0x03#8 (p.fport.setWidth 64) ∧
       reads 0x04#8 p.ocbase ∧ reads 0x05#8 p.flist ∧
       (∀ i < 5, reads (BitVec.ofNat 8 (6 + i)) (BitVec.ofNat 64 (p.quota.getD i 0))) ∧
       reads 0x0B#8 (p.ckey.setWidth 64) ∧ reads 0x0C#8 (p.parent.setWidth 64)) ∧
     (∀ t, s.teams.find? (fun t => decide (t.uid = w.team)) = some t → t.side1 = false →
       reads 0x10#8 (t.wave0.setWidth 64)) ∧
     reads 0x21#8 (BitVec.ofNat 64 ((if w.uiEn then 1 else 0) + (if w.uiPend then 2 else 0) + (if w.uiAct then 4 else 0) +
       (if w.uiArmed then 8 else 0))) ∧
     reads 0x30#8 (Sparse.get 0#64 s.resinj w.die) ∧
     writes 0x20#8 { w with uivec := BitVec.ofNat 64 (v.toNat / 4 * 4) } ∧
     writes 0x22#8 { w with uiepc := BitVec.ofNat 64 (v.toNat / 4 * 4) } ∧
     writes 0x23#8 { w with uisave := BitVec.ofNat 64 (v.toNat % 2 ^ 38) } ∧
     writes 0x24#8 { w with uictr := v } ∧ writes 0x25#8 { w with uithr := v } ∧
     (v.getLsbD 4 = false → exec (.syswrUictl b) s =
       .next (withWave s (past 4 (withF false { w with uiEn := v.getLsbD 0, uiPend := w.uiPend && !v.getLsbD 1 })))) ∧
     (v.getLsbD 4 = true →
       let s0 := withWave s (withF false { w with uiEn := v.getLsbD 0, uiPend := w.uiPend && !v.getLsbD 1 })
       let found := s0.resolve w.die w.proc w.priv .ctrRead w.uictr.toNat (some w.coreNo)
       let u := found.1
       let fails : Prop := exec (.syswrUictl b) s = .next (withWave u (past 4 (withF true u.wave)))
       (w.uictr.toNat % 8 ≠ 0 → exec (.syswrUictl b) s = .next (withWave s0 (past 4 (withF true s0.wave)))) ∧
       (w.uictr.toNat % 8 = 0 → (∀ c, found.2 = .error c → fails) ∧
         ∀ key pte room, found.2 = .ok (key, pte, room) → (pteType pte ≠ 1 → fails) ∧
           (pteType pte = 1 →
             let h := u.wave.hdl
             let others := u.waiters.filter fun x => decide (x.party ≠ .ui h)
             let seen := ({ u with waiters := others } : State).ctrRead key
             let now := (seen.1 - w.uithr).msb = false ∨ seen.2 ≠ .ok
             exec (.syswrUictl b) s = .next { u with
               wave := past 4 (withF false { u.wave with uiArmed := true })
               waiters := if now then others else others ++ [⟨key, w.uithr, .ui h⟩]
               work := if now then u.work ++ [(.uiCounterFire h, {})] else u.work })))) ∧
  (∀ (s : State) (b : BitVec 8),
     let v := s.readU b
     (s.wave.priv = false → exec (.syswrResinj b) s = .next (s.trap .illPriv)) ∧
     (s.wave.priv = true → Unstruck s →
       let w := s.wave
       let count := v.toNat / 16 % 4
       let arms := v.getLsbD 0 = true ∧ (count = 1 ∨ count = 2)
       let h : Handle := if v.toNat / 2 ^ 32 = 0 then w.hdl else BitVec.ofNat 32 (v.toNat / 2 ^ 32)
       let live := ∃ t, s.findWave h = some t ∧ t.proc = w.proc ∧ hDie h = w.die
       let stores : DWord → Bool → Prop := fun r f =>
         Ends (.syswrResinj b) s fun t => t.resinj = Sparse.put 0#64 s.resinj w.die r ∧
           t.wave = past 4 (withF f w) ∧ t.waves = s.waves ∧ t.mem = s.mem
       (¬ arms → stores (v &&& 0xFFFFFFFF00FF07F0#64) false) ∧ (arms → live → stores (v &&& 0xFFFFFFFF00FF07F1#64) false) ∧
         (arms → ¬ live → stores (v &&& 0xFFFFFFFF00FF07F0#64) true)))

/-- R355: the code of every trap. R231, R194, R227, R228, R232: BKPT, an unassigned opcode, UIRET outside a handler, SVC
in a handler or in a redundant pair, and WHALT by a wave that is not privileged take their traps, the first and SVC with
PC + 4 as the default resume PC. BKPT's word holds its code in field `c`, and zeros in `a` and `b`. -/
def Obligations.TrappingInstructions : Prop :=
  ([.undefOp, .illRsvd, .illConv, .illPriv, .align, .pageNp, .ctrDelta, .ctrStore, .ctrSpace, .fmtBad, .objBad,
    .objQuota, .svc, .bkpt, .uirq].map Trap.code = [1, 2, 3, 4, 5, 6, 8, 9, 10, 11, 12, 13, 14, 15, 16]) ∧
  ∀ (s : State) (code a b : BitVec 8) (word : Word),
    encode (.bkpt code) = [0x38#8 ++ (0#8 ++ (0#8 ++ code))] ∧
    exec (.bkpt code) s = .next (s.takeTrap .bkpt code.toNat 0xFF 0#64 (s.wave.pc + 4#64)) ∧
    exec (.unassignedOpcode word) s = .next (({ s with iword := word } : State).takeTrap .undefOp 0 0xFF 0#64 s.wave.pc) ∧
    (s.wave.uiAct = false → exec .uiret s = .next (s.takeTrap .illConv 0 0xFF 0#64 s.wave.pc)) ∧
    (a.toNat + 8 ≤ 8 * s.wave.vblk → a.toNat < 0xF0 → b.toNat + 4 ≤ 8 * s.wave.vblk → b.toNat < 0xF0 →
      (s.wave.uiAct = true ∨ s.wave.pair.isSome = true) →
      exec (.svc code a b) s = .next (s.takeTrap .svc code.toNat 0xFF 0#64 (s.wave.pc + 4#64))) ∧
    (8 * s.wave.vblk < a.toNat + 8 ∨ 8 * s.wave.vblk < b.toNat + 4 ∨ 0xF0 ≤ a.toNat ∨ 0xF0 ≤ b.toNat →
      exec (.svc code a b) s = .next (s.takeTrap .illRsvd 0 0xFF 0#64 s.wave.pc)) ∧
    (s.wave.priv = false → exec (.whalt b) s = .next (s.takeTrap .illPriv 0 0xFF 0#64 s.wave.pc) ∧
      exec (.whaltRes b) s = .next (s.takeTrap .illPriv 0 0xFF 0#64 s.wave.pc))

/-- R355, R356, R357, R360: a trap of a wave whose process has a live fault port. The wave parks with every register
as it was and awaits a reply whose default is `npc`; its message names the wave, the code, the detail, the lane, the
flags and the active mask; it lands in the port, or is kept pending while the port is full. R356, R365: a wave that
traps while its process has no live fault port is killed: no wave stands at issue, and no other wave of the package is
touched. -/
def Obligations.TakingATrap : Prop :=
  (∀ (s : State) (t : Trap) (detail lane : Nat) (addr npc : DWord) (p : Port),
     s.faultPort s.wave.proc = some p → NoMmas s → (∀ e ∈ s.l1, e.core = s.wave.coreNo → e.written = 0#32) →
     detail < 256 → lane < 256 →
     let w := s.wave
     let parked := withWave s
       { w with st := .parked, await := .trapReply npc, due := false, slots := 0#8, since := s.clock.get w.die }
     ∃ m : List Byte, m.length = 64 ∧ natAt m 8 4 = w.hdl.toNat ∧ natAt m 12 1 = 1 ∧ natAt m 16 8 = w.pc.toNat ∧
       natAt m 24 1 = t.code ∧ natAt m 25 1 = detail ∧ natAt m 26 1 = lane ∧
       natAt m 27 1 = (if w.uiAct then 2 else 0) + (if (w.pair.map (·.side1)).getD false then 4 else 0) ∧
       natAt m 28 4 = w.act.toNat ∧ natAt m 32 4 = w.proc.toNat ∧ natAt m 36 4 = s.iword.toNat ∧
       natAt m 40 8 = s.clock.get w.die % 2 ^ 64 ∧ natAt m 48 8 = addr.toNat ∧ natAt m 56 8 = npc.toNat ∧
       s.takeTrap t detail lane addr npc =
         if p.broken = false ∧ p.msgs.length + p.held + 1 ≤ 2 ^ p.dlog then
           parked.landSlots p.hdl [(m, plainLanded w.hdl (if hDie p.hdl = w.die then 0 else 1))]
         else { parked with pendFaults := s.pendFaults ++ [⟨w.die, p.hdl, 0#64, [m], w.hdl, 0⟩] }) ∧
  (∀ (s : State) (t : Trap) (detail lane : Nat) (addr npc : DWord),
     s.faultPort s.wave.proc = none → s.wave.hdl ≠ 0#32 → s.wave.pair = none →
     (s.takeTrap t detail lane addr npc).wave = Wave.blank ∧ (s.takeTrap t detail lane addr npc).waves = s.waves)

/-- R228, R229: SVC of a wave outside a handler and a pair, with a clean L1. The wave parks at PC + 4 with no access
outstanding and every register as it was, and a batch of 1 + ⌈n/2⌉ slots goes into the request ring of its die, or stays
pending; the header names the wave, the code, the mask, n, the records, the PC and the process, and a record holds two
argument blocks. -/
def Obligations.ServiceCall : Prop :=
  ∀ (s : State) (code a b : BitVec 8) (ring : Port),
    a.toNat + 8 ≤ 8 * s.wave.vblk → a.toNat < 0xF0 → b.toNat + 4 ≤ 8 * s.wave.vblk → b.toNat < 0xF0 →
    s.wave.uiAct = false → s.wave.pair = none → NoMmas s →
    (∀ e ∈ s.l1, e.core = s.wave.coreNo → e.written = 0#32) →
    s.rolePort s.wave.die .ring = some ring →
    let w := s.wave
    let lanes := lanesOf w.act
    let n := lanes.length
    let parked := withWave s
      { past 4 w with st := .parked, await := .svcReply b w.act, due := false, slots := 0#8, since := s.clock.get w.die }
    ∃ (head : List Byte) (recs : List (List Byte)), recs.length = (n + 1) / 2 ∧
      head.length = 64 ∧ natAt head 0 8 = 0 ∧ natAt head 8 4 = w.hdl.toNat ∧ natAt head 12 1 = code.toNat ∧
      natAt head 16 4 = w.act.toNat ∧ natAt head 20 1 = n ∧ natAt head 21 1 = (n + 1) / 2 ∧
      natAt head 24 8 = w.pc.toNat ∧ natAt head 32 4 = w.proc.toNat ∧ natAt head 36 28 = 0 ∧
      (∀ q i, q < n → i < 8 → natAt (recs.getD (q / 2) []) (32 * (q % 2) + 4 * i) 4 =
        (w.getV (a.toNat + i) (lanes.getD q 0)).toNat) ∧
      exec (.svc code a b) s = .next
        (if ring.msgs.length + ring.held + (1 + recs.length) ≤ 2 ^ ring.dlog then
          parked.landSlots ring.hdl ((head :: recs).map fun m => (m, plainLanded w.hdl 0))
         else { parked with pendSvc := s.pendSvc ++ [⟨w.die, ring.hdl, 0#64, head :: recs, w.hdl, 0⟩] })

/-- R227, R225, R355: a ready wave with a pending interrupt enters its handler, keeping the PC, cc and k0; without a
handler it traps UIRQ; UIRET goes back and restores them; the waiter of the interrupt counter, once it has fired, makes it
pending once.
R232: WHALT and its resuming form, by a privileged wave on another wave of its process. A halt of a waiting wave parks
it and marks it, a halt of a parked one marks it; a resume clears the mark, and the wave becomes runnable when it
awaits nothing more; a halt of a halted wave and a resume of one that is not set F and change nothing else; any other
target traps OBJ_BAD. -/
def Obligations.InterruptsAndHalts : Prop :=
  (∀ (s : State), s.wave.hdl ≠ 0#32 →
     let w := s.wave
     let h := w.hdl
     let due := w.st = .resident ∧ w.halted = false ∧ w.refilling = false ∧ w.pair = none ∧ w.uiEn = true ∧
       w.uiPend = true ∧ w.uiAct = false ∧ w.unfKind = .no ∧ w.asked = [] ∧ w.told = none
     (due → w.uivec ≠ 0#64 →
       ∃ t u, exec (.userInterruptEntry h) s = .next t ∧
         t = { s with wave := u, waves := t.waves, lastWin := t.lastWin } ∧
         t.waves.map (·.hdl) = s.waves.map (·.hdl) ∧
         u = { w with k := Sparse.put 0#32 w.k 0 0xFFFFFFFF#32, uiepc := w.pc,
                      uisave := BitVec.ofNat 64 (w.cc.toNat * 2 ^ 32 + (Sparse.get 0#32 w.k 0).toNat),
                      uiPend := false, uiAct := true, pc := w.uivec,
                      stampA := s.clock.get w.die, runA := u.runA }) ∧
     (due → w.uivec = 0#64 →
       exec (.userInterruptEntry h) s = .next
         ((({ s with iword := s.fetchInstr.1.iword } : State).takeTrap .uirq 0 0xFF 0#64 w.pc).updWave h fun v =>
           if v.await.isTrap then { v with uiPend := false } else v)) ∧
     (w.uiAct = true → ∃ u, exec .uiret s = .next (withWave s u) ∧ u.pc = w.uiepc ∧ u.uiAct = false ∧
       u.k = Sparse.put 0#32 w.k 0 (BitVec.ofNat 32 w.uisave.toNat) ∧
       u.cc = BitVec.ofNat 6 (w.uisave.toNat / 2 ^ 32) ∧ u.s = w.s ∧ u.v = w.v ∧ u.x = w.x ∧ u.tile = w.tile ∧
       u.mode = w.mode ∧ u.uiPend = w.uiPend ∧ u.uivec = w.uivec ∧ u.slots = w.slots) ∧
     ((∃ e ∈ s.waiters, e.party = .ui h) → exec (.uiCounterFire h) s = .next s) ∧
     ((∀ e ∈ s.waiters, e.party ≠ .ui h) → exec (.uiCounterFire h) s =
       .next (withWave s (if w.uiArmed then { w with uiPend := true, uiArmed := false } else w)))) ∧
  (∀ (s : State) (b : BitVec 8) (v : Wave), s.wave.priv = true →
     let w := s.wave
     let h : Handle := (s.readU b).setWidth 32
     h ≠ 0#32 → h ≠ w.hdl → w.hdl ≠ 0#32 →
     (s.waves.find? (fun o => decide (o.hdl = h)) = none ∨
         (s.waves.find? (fun o => decide (o.hdl = h)) = some v ∧ v.proc ≠ w.proc) →
       exec (.whalt b) s = .next (s.trap .objBad) ∧ exec (.whaltRes b) s = .next (s.trap .objBad)) ∧
     (s.waves.find? (fun o => decide (o.hdl = h)) = some v → v.proc = w.proc →
       (v.halted = true → exec (.whalt b) s = .next (withWave s (past 4 (withF true w)))) ∧
       (v.halted = false → exec (.whaltRes b) s = .next (withWave s (past 4 (withF true w)))) ∧
       (v.halted = false → v.pair = none → (∀ m ∈ s.mmas, m.wave ≠ h) → (∀ e ∈ s.l1, e.bad = false) →
         ∃ t, exec (.whalt b) s = .next t ∧ t.wave.pc = w.pc + 4#64 ∧ t.wave.cc.getLsbD 5 = false ∧ t.wave.s = w.s ∧ ∃ u ∈ t.waves, u.hdl = h ∧ u.halted = true ∧ u.pc = v.pc ∧ u.s = v.s ∧
           (v.st = .resident ∨ v.st = .waiting → u.st = .parked) ∧ (v.st = .parked → u.st = .parked)) ∧
       (v.halted = true → v.pair = none → s.teamSaved v = false → ∃ t, exec (.whaltRes b) s = .next t ∧ t.wave = past 4 (withF false w) ∧
         ∃ u ∈ t.waves, u.hdl = h ∧ u.halted = false ∧ u.pc = v.pc ∧
           u.st = (if v.st = .parked ∧ (v.due = true ∨ v.await = .nothing) then .runnable else v.st))))

/-- R188, R237: the width, the registers and the elements of every type of the mode register, and how a narrow result is
put into a register: extended with its sign, or with zeros; an element reads back what was put. -/
def Obligations.ElementTypes : Prop :=
  ([.i32, .n32, .i16, .n16, .i8, .n8, .i64, .n64, .f32, .f16, .bf16, .f64, .f16x2, .bf16x2, .i16x2].map
      (fun t : EType => (t.bitsOf, t.regs, t.elems)) =
    [(32, 1, 1), (32, 1, 1), (16, 1, 1), (16, 1, 1), (8, 1, 1), (8, 1, 1), (64, 2, 1), (64, 2, 1), (32, 1, 1), (16, 1, 1),
      (16, 1, 1), (64, 2, 1), (16, 1, 2), (16, 1, 2), (16, 1, 2)]) ∧
  ∀ (t : EType) (f : Nat → Nat) (i : Nat), i < t.elems →
    t.elem (perElement t f) i = f i % 2 ^ t.bitsOf ∧
    (t.elems = 1 → t.bitsOf < 32 → perElement t f =
      if t.signed = true ∧ (f 0).testBit (t.bitsOf - 1) = true then f 0 % 2 ^ t.bitsOf + (2 ^ 32 - 2 ^ t.bitsOf)
      else f 0 % 2 ^ t.bitsOf) ∧
    (t.signed = true → ∀ v, t.toInt v = (BitVec.ofNat t.bitsOf v).toInt) ∧
    (t.signed = false → ∀ v, t.toInt v = (v % 2 ^ t.bitsOf : Nat))

/-- R237, R238, R239: two-source integer and logic instructions, from registers and with a literal: element by element in
the lanes at work, add, subtract and multiply fitted, the high half of the product, logic under every type, shifts by the
whole element, minimum and maximum. -/
def Obligations.VectorIntegerArithmetic : Prop :=
  ∀ (s : State) (a b c : BitVec 8) (lit : Word),
    let w := s.wave
    let t := w.etype
    let n := t.regs
    WorksIn s w.lanes → dstFits w n a → srcFits w n b →
    let does : Instr → Instr → (Nat → Nat → Nat) → Prop := fun i j f =>
      (srcFits w n c → writesLanes s i 4 a n fun l =>
        perElement t fun e => f (t.elem (laneOf w b n l) e) (t.elem (laneOf w c n l) e)) ∧
      writesLanes s j 8 a n fun l => perElement t fun e => f (t.elem (laneOf w b n l) e)
        (t.elem (if t = .i64 ∨ t = .f64 then (lit.signExtend 64).toNat else lit.toNat) e)
    does (.vand a b c) (.vandLit a b lit) (fun x y => x &&& y) ∧
    does (.vor a b c) (.vorLit a b lit) (fun x y => x ||| y) ∧
    does (.vxor a b c) (.vxorLit a b lit) (fun x y => x ^^^ y) ∧
    (t.isInt = true →
      does (.vadd a b c) (.vaddLit a b lit) (fun x y => fitted t w.sat (t.toInt x + t.toInt y)) ∧
      does (.vsub a b c) (.vsubLit a b lit) (fun x y => fitted t w.sat (t.toInt x - t.toInt y)) ∧
      does (.vmul a b c) (.vmulLit a b lit) (fun x y => fitted t w.sat (t.toInt x * t.toInt y)) ∧
      does (.vmulh a b c) (.vmulhLit a b lit) (fun x y => fitted t false (t.toInt x * t.toInt y / 2 ^ t.bitsOf)) ∧
      does (.vshl a b c) (.vshlLit a b lit) (fun x y => x * 2 ^ y % 2 ^ t.bitsOf) ∧
      does (.vshr a b c) (.vshrLit a b lit) (fun x y => fitted t false (t.toInt x / 2 ^ y)) ∧
      does (.vmin a b c) (.vminLit a b lit) (fun x y => fitted t false (min (t.toInt x) (t.toInt y))) ∧
      does (.vmax a b c) (.vmaxLit a b lit) (fun x y => fitted t false (max (t.toInt x) (t.toInt y))))

/-- R240, R241, R243: VMAD forms its result exactly and fits it once; VABS of signed types and VNEG; VMOV, its literal
form and VBCAST move whole lane values under every type; VSEL takes its first source where the bit of its mask is 1.
R241, R244: VCLZ, VPOPC, VBREV, VBFE and VBFI under 32- and 64-bit integer types: leading zeros, set bits, the bits in
reverse order, a field extracted with its sign under a signed type, a field inserted. The words of VMAD and VSEL stand as
R240 and R243 lay them out. -/
def Obligations.VectorMovesAndBits : Prop :=
  (∀ (s : State) (a b c e : BitVec 8) (k : BitVec 3) (lit : Word),
     let w := s.wave
     let t := w.etype
     let n := t.regs
     WorksIn s w.lanes → dstFits w n a →
     let x : Nat → Nat → Int := fun l i => t.toInt (t.elem (laneOf w b n l) i)
     let y : Nat → Nat → Int := fun l i => t.toInt (t.elem (laneOf w c n l) i)
     let z : Nat → Nat → Int := fun l i => t.toInt (t.elem (laneOf w e n l) i)
     writesLanes s (.vmovLit a lit) 8 a n (fun _ => if t = .i64 ∨ t = .f64 then (lit.signExtend 64).toNat else lit.toNat) ∧
     writesLanes s (.vbcast a b) 4 a n (fun _ => (s.readU b).toNat) ∧
     (srcFits w n b → writesLanes s (.vmov a b) 4 a n (laneOf w b n)) ∧
     (srcFits w n b → srcFits w n c → writesLanes s (.vsel a b c k) 8 a n fun l =>
       if (Sparse.get 0#32 w.k k.toNat).getLsbD l then laneOf w b n l else laneOf w c n l) ∧
     (t.isInt = true → srcFits w n b →
       writesLanes s (.vneg a b) 4 a n (fun l => perElement t fun i => fitted t w.sat (-(x l i))) ∧
       (t.signed = true →
         writesLanes s (.vabs a b) 4 a n (fun l => perElement t fun i => fitted t w.sat (max (x l i) (-(x l i))))) ∧
       (srcFits w n c → srcFits w n e →
         writesLanes s (.vmad a b c e) 8 a n (fun l => perElement t fun i => fitted t w.sat (x l i * y l i + z l i))))) ∧
  (∀ (s : State) (a b c : BitVec 8) (pos : BitVec 6) (len : BitVec 7) (val : Nat → Nat),
     let w := s.wave
     let t := w.etype
     let n := t.regs
     WorksIn s w.lanes → dstFits w n a → srcFits w n b → (t = .i32 ∨ t = .n32 ∨ t = .i64 ∨ t = .n64) →
     let x := laneOf w b n
     let y := laneOf w c n
     let p := pos.toNat
     let m := len.toNat
     ((∀ l < 32, val l ≤ t.bitsOf ∧ x l < 2 ^ (t.bitsOf - val l) ∧ (val l < t.bitsOf → 2 ^ (t.bitsOf - 1 - val l) ≤ x l)) →
       writesLanes s (.vclz a b) 4 a n val) ∧
     writesLanes s (.vpopc a b) 4 a n (fun l => onesBelow t.bitsOf (x l)) ∧
     ((∀ l < 32, val l < 2 ^ t.bitsOf ∧ ∀ i < t.bitsOf, (val l).testBit i = (x l).testBit (t.bitsOf - 1 - i)) →
       writesLanes s (.vbrev a b) 4 a n val) ∧
     (0 < m → p + m ≤ t.bitsOf →
       writesLanes s (.vbfe a b pos len) 8 a n (fun l =>
         let f := x l / 2 ^ p % 2 ^ m
         if t.signed = true ∧ f.testBit (m - 1) = true then 2 ^ t.bitsOf - 2 ^ m + f else f) ∧
       (srcFits w n c →
         (∀ l < 32, val l < 2 ^ t.bitsOf ∧ ∀ i < t.bitsOf,
           (val l).testBit i = if p ≤ i ∧ i < p + m then (x l).testBit (i - p) else (y l).testBit i) →
         writesLanes s (.vbfi a b c pos len) 8 a n val))) ∧
  ∀ (a b c e : BitVec 8) (k : BitVec 3),
    encode (.vmad a b c e) = [0x60#8 ++ (a ++ (b ++ c)), 0#24 ++ e] ∧
    encode (.vsel a b c k) = [0x64#8 ++ (a ++ (b ++ c)), 0#29 ++ k]

/-- R245 to R252: sums and products of numbers are exact, and an exact zero sum has the sign that R246 gives it. Float
instructions on two, three and one sources: each element is computed exactly from the decoded sources and rounded once under the mode and the lane; VFMA of a zero and an infinity gives the default NaN whatever its third
source is; VFEXP2 and VFLOG2, whose values of 30 bits the model computes from chains of 200 bits (log entry 15, the model's
reading), take the types of 16 and 32 bits. The words of VFMA and VFSCALE stand as R247 and R252 lay them out. -/
def Obligations.VectorFloatArithmetic : Prop :=
  (∀ (rdn a b : Bool) (m n : Nat) (e k : Int),
     let r : Bool → Nat → Int → ℚ := fun g m e => (if g then -1 else 1) * (m : ℚ) * (2 : ℚ) ^ e
     (∃ g p q, FVal.add rdn (.num a m e) (.num b n k) = .num g p q ∧ r g p q = r a m e + r b n k ∧
       (r a m e + r b n k = 0 → g = if m = 0 ∧ n = 0 ∧ a = b then a else rdn)) ∧
     ∃ p q, FVal.mul (.num a m e) (.num b n k) = .num (a != b) p q ∧ r (a != b) p q = r a m e * r b n k) ∧
  ∀ (s : State) (a b c e : BitVec 8) (np na : Bool),
    let w := s.wave
    let t := w.etype
    let n := t.regs
    WorksIn s w.lanes → t.isFloat = true → dstFits w n a → srcFits w n b →
    let x : Nat → Nat → FVal := fun l i => w.fin (t.elem (laneOf w b n l) i)
    let y : Nat → Nat → FVal := fun l i => w.fin (t.elem (laneOf w c n l) i)
    let z : Nat → Nat → FVal := fun l i => w.fin (t.elem (laneOf w e n l) i)
    let gives : Instr → Nat → (Nat → Nat → FVal) → Prop := fun i k f =>
      writesLanes s i k a n fun l => perElement t fun j => w.fout l j (f l j)
    encode (.vfma np na a b c e) =
      [0x73#8 ++ (a ++ (b ++ c)), 0#22 ++ (BitVec.ofBool na ++ (BitVec.ofBool np ++ e))] ∧
    encode (.vfscale a b c) = [0x7F#8 ++ (a ++ (b ++ c))] ∧
    gives (.vfsqrt a b) 4 (fun l i => (x l i).sqrt) ∧
    gives (.vfrcp a b) 4 (fun l i => FVal.div FVal.one (x l i)) ∧
    gives (.vfrsq a b) 4 (fun l i => (x l i).rsqrt) ∧
    gives (.vfrnd a b) 4 (fun l i => (x l i).integral (w.rnd l i)) ∧
    (t ≠ .f64 → gives (.vfexp2 a b) 4 (fun l i => (x l i).exp2) ∧ gives (.vflog2 a b) 4 (fun l i => (x l i).log2)) ∧
    (srcFits w 1 c → gives (.vfscale a b c) 4
      (fun l i => (x l i).scaleBy (BitVec.ofNat 32 (laneOf w c 1 l)).toInt)) ∧
    (srcFits w n c →
      gives (.vfadd a b c) 4 (fun l i => FVal.add w.rdn (x l i) (y l i)) ∧
      gives (.vfsub a b c) 4 (fun l i => FVal.add w.rdn (x l i) (y l i).neg) ∧
      gives (.vfmul a b c) 4 (fun l i => FVal.mul (x l i) (y l i)) ∧
      gives (.vfdiv a b c) 4 (fun l i => FVal.div (x l i) (y l i)) ∧
      gives (.vfmin a b c) 4 (fun l i => FVal.minNum (x l i) (y l i)) ∧
      gives (.vfmax a b c) 4 (fun l i => FVal.maxNum (x l i) (y l i)) ∧
      (srcFits w n e →
        let fma : Nat → Nat → FVal := fun l i =>
          let p := FVal.mul (x l i) (y l i)
          FVal.add w.rdn (if np then p.neg else p) (if na then (z l i).neg else z l i)
        gives (.vfma np na a b c e) 8 fma ∧
        ∀ l i g k ex, (x l i = .num g 0 ex ∧ y l i = .inf k ∨ x l i = .inf k ∧ y l i = .num g 0 ex) →
          w.fout l i (fma l i) = t.fmt.nanBits))

/-- R242, R138: VCMP writes its k register whole: the lanes at work in which the integers compare as named, zeros
elsewhere. R248, R249: VFCMP's eight conditions, of which only `ne` and `uno` hold where a source is a NaN, and
VFCLASS, whose mask has one bit for each class of a pattern, `ftz` or not. -/
def Obligations.VectorCompares : Prop :=
  (∀ (s : State) (b c : BitVec 8) (kd : BitVec 3),
     let w := s.wave
     let t := w.etype
     let n := t.regs
     WorksIn s w.lanes → srcFits w n b → srcFits w n c → t.isInt = true → t ≠ .i16x2 →
     let x : Nat → Int := fun l => t.toInt (laneOf w b n l)
     let y : Nat → Int := fun l => t.toInt (laneOf w c n l)
     writesMask s (.vcmp .eq kd b c) kd (fun l => x l = y l) ∧ writesMask s (.vcmp .ne kd b c) kd (fun l => x l ≠ y l) ∧
     writesMask s (.vcmp .lt kd b c) kd (fun l => x l < y l) ∧ writesMask s (.vcmp .le kd b c) kd (fun l => x l ≤ y l) ∧
     writesMask s (.vcmp .gt kd b c) kd (fun l => y l < x l) ∧ writesMask s (.vcmp .ge kd b c) kd (fun l => y l ≤ x l)) ∧
  (∀ (s : State) (a b c : BitVec 8) (kd : BitVec 3),
     let w := s.wave
     let t := w.etype
     let n := t.regs
     WorksIn s w.lanes → t.isFloat = true → srcFits w n b →
     let x : Nat → FVal := fun l => w.fin (t.elem (laneOf w b n l) 0)
     let y : Nat → FVal := fun l => w.fin (t.elem (laneOf w c n l) 0)
     let nan : Nat → Bool := fun l => (x l).isNan || (y l).isNan
     let f := t.fmt
     (srcFits w n c → t.packed = false →
       writesMask s (.vfcmp .uno kd b c) kd (fun l => nan l = true) ∧
       writesMask s (.vfcmp .ord kd b c) kd (fun l => nan l = false) ∧
       writesMask s (.vfcmp .eq kd b c) kd (fun l => nan l = false ∧ (x l).eqv (y l) = true) ∧
       writesMask s (.vfcmp .ne kd b c) kd (fun l => nan l = true ∨ (x l).eqv (y l) = false) ∧
       writesMask s (.vfcmp .lt kd b c) kd (fun l => nan l = false ∧ (x l).lt (y l) = true) ∧
       writesMask s (.vfcmp .gt kd b c) kd (fun l => nan l = false ∧ (y l).lt (x l) = true) ∧
       writesMask s (.vfcmp .le kd b c) kd (fun l => nan l = false ∧ ((x l).lt (y l) = true ∨ (x l).eqv (y l) = true)) ∧
       writesMask s (.vfcmp .ge kd b c) kd (fun l => nan l = false ∧ ((y l).lt (x l) = true ∨ (x l).eqv (y l) = true))) ∧
     (dstFits w n a → writesLanes s (.vfclass a b) 4 a n fun l => perElement t fun i =>
       let v := t.elem (laneOf w b n l) i
       let neg : Bool := decide (v / 2 ^ (f.eb + f.mb) % 2 = 1)
       let ex := v / 2 ^ f.mb % 2 ^ f.eb
       let m := v % 2 ^ f.mb
       if ex = 2 ^ f.eb - 1 ∧ m = 0 then (if neg then 1 else 128)
       else if ex = 2 ^ f.eb - 1 then (if m < 2 ^ (f.mb - 1) then 256 else 512)
       else if ex = 0 ∧ m = 0 then (if neg then 8 else 16)
       else if ex = 0 then (if neg then 4 else 32)
       else (if neg then 2 else 64)))

/-- R284, R245, R437, R288: the formats, the value of a pattern in each, and what rounding a magnitude into one gives. R253 to
R256: VCVT converts a lane value of its source type to the mode's type: integer to integer fitted; integer to float
rounded; float to integer rounded to an integer and clamped, 0 for a NaN; float to float exact where it widens, else
rounded; equal types copy. VPACK packs elements of E registers into one, VUNPK takes them out, an element scaled by a power
of two; with every scale 127 the scaled forms do what the unscaled ones do. An infinity under `sat` follows the row of
R253's table that names f32, f16 and bf16 (log entry 18, the model's reading). -/
def Obligations.VectorConversions : Prop :=
  (formats.map (fun f : Fmt => (f.eb, f.mb, f.special, f.maxFinite, f.nanBits)) =
    [(4, 3, .nanOnly, 0x7E, 0x7F), (5, 2, .ieee, 0x7B, 0x7F), (3, 2, .none, 0x1F, 0), (2, 3, .none, 0x1F, 0),
      (2, 1, .none, 7, 0), (5, 10, .ieee, 0x7BFF, 0x7FC0), (8, 7, .ieee, 0x7F7F, 0x7FC0),
      (8, 23, .ieee, 0x7F7FFFFF, 0x7FC00000), (11, 52, .ieee, 0x7FEFFFFFFFFFFFFF, 0x7FF8000000000000)]) ∧
  (∀ f ∈ formats, f.qmin = 2 - 2 ^ (f.eb - 1) - f.mb ∧
    ∀ (rn : Rnd) (neg : Bool) (m b : Nat) (e : Int),
      (0 < m → IsRounding f rn neg ((m : ℚ) * (2 : ℚ) ^ e) (f.roundNum rn neg m e)) ∧
      (b < 2 ^ (f.eb + f.mb) →
        let v := f.decode (neg.toNat * 2 ^ (f.eb + f.mb) + b)
        (f.special = .ieee ∧ infinityOf f < b ∨ f.special = .nanOnly ∧ b = 2 ^ (f.eb + f.mb) - 1 → v = .nan) ∧
        (f.special = .ieee ∧ b = infinityOf f → v = .inf neg) ∧
        (b ≤ f.maxFinite → ∃ n k, v = .num neg n k ∧ (n : ℚ) * (2 : ℚ) ^ k = magOf f b))) ∧
  (∀ (s : State) (a b : BitVec 8) (src : EType),
     let w := s.wave
     let t := w.etype
     let x : Nat → Nat := fun l => src.elem (laneOf w b src.regs l) 0
     let rn : Nat → Rnd := fun l => w.rndSat l 0
     let v : Nat → FVal := fun l => src.fmt.decode (flushed src.fmt w.ftz (x l))
     let gives : (Nat → Nat) → Prop := fun f => writesLanes s (.vcvt a b src) 8 a t.regs fun l => perElement t fun _ => f l
     WorksIn s w.lanes → t.packed = false → src.packed = false → dstFits w t.regs a → srcFits w src.regs b →
     (∀ l, rn l = ⟨w.mode.toNat / 256 % 8, if w.mode.toNat / 256 % 8 = 5
       then stoHash (w.mode.toNat / 2 ^ 16) (w.threadId l).toNat 0 else 0, w.mode.getLsbD 11⟩) ∧
     (src = t → gives x) ∧
     (src.isInt = true → t.isInt = true → gives fun l => fitted t w.sat (src.toInt (x l))) ∧
     (src.isInt = true → t.isFloat = true → gives fun l =>
       let r := src.toInt (x l)
       flushed t.fmt w.ftz (t.fmt.roundNum (rn l) (decide (r < 0)) r.natAbs 0)) ∧
     (src.isFloat = true → t.isInt = true → gives fun l => match v l with
       | .nan => 0
       | .inf neg => fitted t true (if neg then -(2 ^ 64) else 2 ^ 64)
       | .num neg m e => fitted t true (integerOf (rn l) neg m e)) ∧
     (src.isFloat = true → t.isFloat = true → src ≠ t → gives fun l => match v l with
       | .nan => t.fmt.nanBits
       | .inf neg => neg.toNat * 2 ^ (t.bitsOf - 1) + (if w.sat = true ∧ t ≠ .f64 then t.fmt.maxFinite else infinityOf t.fmt)
       | .num neg m e => flushed t.fmt w.ftz (t.fmt.roundNum (rn l) neg m e)) ∧
     (src.isFloat = true → (src = .f32 ∧ t = .f64 ∨ (src = .f16 ∨ src = .bf16) ∧ (t = .f32 ∨ t = .f64)) →
       ∃ val, gives val ∧ ∀ l < 32, ∀ neg m e, v l = .num neg m e →
         ∃ n k, t.fmt.decode (val l) = .num neg n k ∧ (n : ℚ) * (2 : ℚ) ^ k = (m : ℚ) * (2 : ℚ) ^ e)) ∧
  (∀ (s : State) (a b c d : BitVec 8) (fmt : PackFmt) (scaled : Bool),
     let w := s.wave
     let t := w.etype
     let scale : Nat → Nat := fun l => if scaled then laneOf w c 1 l % 256 else 127
     let sum : (Nat → Nat → Nat) → Nat → Nat → Nat := fun f k l => ((List.range fmt.elems).map fun j => 2 ^ (k * j) * f l j).sum
     let packs : (Nat → Nat → Nat) → Prop := fun f => writesLanes s (.vpack a b c fmt scaled) 8 a 1 (sum f fmt.bitsOf)
     let unpacks : (Nat → Nat → Nat) → Prop := fun f => writesLanes s (.vunpk a b c fmt scaled) 8 a fmt.elems (sum f 32)
     let word : Nat → Nat → Nat := fun l j => (w.getV (b.toNat + j) l).toNat
     let elem : Nat → Nat → Nat := fun l j => laneOf w b 1 l / 2 ^ (fmt.bitsOf * j) % 2 ^ fmt.bitsOf
     let plain := fmt = .i8 ∨ fmt = .i16
     WorksIn s w.lanes → (scaled = true → srcFits w 1 c) →
     (dstFits w 1 a → inBudget w fmt.elems b →
       (plain → (t = .i32 ∨ t = .n32) → packs fun l j => fittedTo fmt.bitsOf t.signed w.sat (t.toInt (word l j))) ∧
       (∀ f, fmt.fmt = some f → t = .f32 → packs fun l j =>
         if scale l = 255 then f.nanBits
         else match Fmt.f32.decode (flushed .f32 w.ftz (word l j)) with
           | .nan => f.nanBits
           | .inf neg => neg.toNat * 2 ^ (f.eb + f.mb) + (if w.sat then f.maxFinite else infinityOf f)
           | .num neg m e => flushed f w.ftz (f.roundNum (w.rndSat l j) neg m (e + 127 - scale l))) ∧
       (scaled = true → (∀ l < 32, scale l = 127) → exec (.vpack a b c fmt true) s = exec (.vpack a b d fmt false) s)) ∧
     (inBudget w fmt.elems a → srcFits w 1 b →
       (plain → (t = .i32 ∨ t = .n32) → unpacks fun l j =>
         if t = .i32 ∧ 2 ^ (fmt.bitsOf - 1) ≤ elem l j then elem l j + (2 ^ 32 - 2 ^ fmt.bitsOf) else elem l j) ∧
       (∀ f, fmt.fmt = some f → t = .f32 → unpacks fun l j =>
         if scale l = 255 then 0x7FC00000
         else match f.decode (elem l j) with
           | .nan => 0x7FC00000
           | .inf neg => neg.toNat * 2 ^ 31 + 0x7F800000
           | .num neg m e => flushed .f32 (w.ftz && decide (fmt.bitsOf ≤ 8))
               (Fmt.f32.roundNum (w.rnd l j) neg m (e + scale l - 127))) ∧
       (scaled = true → (∀ l < 32, scale l = 127) → exec (.vunpk a b c fmt true) s = exec (.vunpk a b d fmt false) s)))

/-- R257, R258, R261: VSHFL reads the position that its index names, active or not; VSHFLX moves lane values within
segments of 2^w positions, and a lane without a source keeps its own value or takes 0; VMATCH gives each lane at work the
mask of those that hold the same key. -/
def Obligations.Shuffles : Prop :=
  ∀ (s : State) (a b c : BitVec 8) (zf : Bool) (ws : BitVec 3) (d : BitVec 5) (val : Nat → Nat),
    let w := s.wave
    let t := w.etype
    let n := t.regs
    WorksIn s w.lanes → srcFits w n b →
    let x := laneOf w b n
    let idx : Nat → Nat := laneOf w c 1
    let seg := 2 ^ ws.toNat
    let none' : Nat → Nat := fun l => if zf then 0 else x l
    let shift : ShflKind → (Nat → Nat) → Prop := fun kind f => writesLanes s (.vshflx kind zf ws d a b c) 8 a n f
    (dstFits w n a → srcFits w 1 c → writesLanes s (.vshfl a b c) 4 a n fun l => x (idx l % 32)) ∧
    (dstFits w n a → ws.toNat ≤ 5 →
      (srcFits w 1 c → shift .idx fun l => x (l / seg * seg + idx l % seg)) ∧
      shift .up (fun l => if d.toNat ≤ l % seg then x (l - d.toNat) else none' l) ∧
      shift .down (fun l => if l % seg + d.toNat < seg then x (l + d.toNat) else none' l) ∧
      shift .xor (fun l => x (l ^^^ d.toNat)) ∧
      shift .bcast (fun l => x (l / seg * seg + d.toNat))) ∧
    (dstFits w 1 a →
      let width := if t.packed then 32 else t.bitsOf
      (∀ l < 32, val l < 2 ^ 32 ∧ ∀ i < 32, (val l).testBit i = true ↔
        w.activeMask.getLsbD i = true ∧ x i % 2 ^ width = x l % 2 ^ width) →
      writesLanes s (.vmatch a b) 4 a 1 val)

/-- R259, R260: VRED folds the lanes at work of each segment in ascending order and gives every one of them the result, or
a uniform register that of all (nothing where no lane is at work); VSCAN gives each lane the fold up to it, or of those
before it, the identity where there is none. Integer operations fit each step under `sat`; float operations round each. -/
def Obligations.ReduceAndScan : Prop :=
  ∀ (s : State) (op : RedOp) (ws : BitVec 3) (a b : BitVec 8) (excl : Bool),
    let w := s.wave
    let t := w.etype
    let n := t.regs
    WorksIn s w.lanes → srcFits w n b → ws.toNat ≤ 5 →
    ((op = .fadd ∨ op = .fmin ∨ op = .fmax) ∧ t.isFloat = true ∨
      (op ≠ .fadd ∧ op ≠ .fmin ∧ op ≠ .fmax) ∧ t.isInt = true) →
    let x := laneOf w b n
    let one : Nat → Nat → Nat → Nat → Nat := fun l i u v => match op with
      | .add => fitted t w.sat (t.toInt u + t.toInt v)
      | .min => fitted t false (min (t.toInt u) (t.toInt v))
      | .max => fitted t false (max (t.toInt u) (t.toInt v))
      | .and => u &&& v
      | .or => u ||| v
      | .xor => u ^^^ v
      | .fadd => w.fout l i (FVal.add w.rdn (w.fin u) (w.fin v))
      | .fmin => w.fout l i (FVal.minNum (w.fin u) (w.fin v))
      | .fmax => w.fout l i (FVal.maxNum (w.fin u) (w.fin v))
    let folded : List Nat → Nat := fun ls => match ls with
      | [] => 0
      | f :: rest => rest.foldl (fun acc l => perElement t fun i => one l i (t.elem acc i) (t.elem (x l) i))
          (perElement t fun i => t.elem (x f) i)
    let identity : Nat := match op with
      | .min => fitted t false (if t.signed then 2 ^ (t.bitsOf - 1) - 1 else 2 ^ t.bitsOf - 1)
      | .max => fitted t false (if t.signed then -(2 ^ (t.bitsOf - 1)) else 0)
      | .and => 2 ^ t.bitsOf - 1
      | .fadd => t.fmt.signBit true
      | .fmin => t.fmt.infOf false
      | .fmax => t.fmt.infOf true
      | _ => 0
    let seg : Nat → List Nat := fun l => w.lanes.filter fun i => decide (i / 2 ^ ws.toNat = l / 2 ^ ws.toNat)
    (dstFits w n a → writesLanes s (.vred op ws false a b) 8 a n (fun l => folded (seg l))) ∧
    exec (.vred op ws true a b) s = .next (withWave s (past 8
      (if w.lanes = [] then w else toUniform a (BitVec.ofNat 64 (folded w.lanes)) w))) ∧
    (dstFits w n a → writesLanes s (.vscan op ws excl a b) 8 a n fun l =>
      let upTo := (seg l).filter fun i => if excl then decide (i < l) else decide (i ≤ l)
      if upTo = [] then perElement t fun _ => identity else folded upTo)

/-- R264, R45, R24, R36: what the accesses of a memory instruction reach. A scratchpad access reaches the cell of its
offset in the team's scratchpad; an access through a valid register of this device's memory reaches `pbase` plus its offset
where the offset lies within the register's limit and its permissions allow the access; nothing changes there. -/
def Obligations.AccessesThroughRegisters : Prop :=
  ∀ (s : State) (f : Form) (l : Nat),
    let a := s.accOf f l
    let x := Sparse.get 0#256 s.wave.x f.xreg
    a.pos = l ∧ a.off = s.offsetOf f l + f.imm.toInt * f.size ∧
    (f.sp = true → f.ctr = false →
      let h : Hit := ⟨l, a.va, 2 ^ 70 + s.wave.team * 2 ^ 22 + a.off.toNat, 1, 0, 0, 0, false⟩
      s.translateAll f [a] = (s, [.ok h]) ∧ s.sendOn f h = .ok h) ∧
    (f.sp = false → f.ctr = false → f.red = none → x.getLsbD 164 = true → 0 ≤ a.off →
      a.off + f.size ≤ (x.toNat / 2 ^ 128 % 2 ^ 32 : Nat) → x.toNat / 2 ^ 123 % 4 = 0 →
      (x.getLsbD 167 = true → s.wave.priv = true) →
      (f.kind = .load ∧ x.getLsbD 165 = true ∨ f.kind = .store ∧ x.getLsbD 166 = true ∨
        f.kind = .rmw ∧ x.getLsbD 165 = true ∧ x.getLsbD 166 = true) →
      let h : Hit := ⟨l, a.va, x.toNat / 2 ^ 64 % 2 ^ 52 + a.off.toNat, x.toNat / 2 ^ 168 % 4, 0, x.toNat / 2 ^ 170 % 4,
        x.toNat / 2 ^ 116 % 128, false⟩
      s.translateAll f [a] = (s, [.ok h]) ∧ s.sendOn f h = .ok { h with key := localKey h.key })

/-- R195, R235, R136: of a vector instruction on two sources, an operand outside the budget or misaligned traps
ILL_RSVD, and then a type that is not accepted ILL_CONV; a type that is not accepted is judged as of one register.
R35, R45, R355: of a lane load or store whose registers are in budget, the first lane that is misaligned traps ALIGN
with its address, and then, of scratchpad accesses, the first outside the team's grant traps PAGE_NP with detail 8. -/
def Obligations.LaneTraps : Prop :=
  (∀ (s : State) (a b c : BitVec 8) (i : Instr) (accepts : Bool),
     let w := s.wave
     let t := w.etype
     let n := if accepts then t.regs else 1
     (i ∈ [Instr.vadd a b c, .vsub a b c, .vmul a b c, .vmulh a b c, .vshl a b c, .vshr a b c, .vmin a b c, .vmax a b c] ∧
         accepts = t.isInt ∨
       i ∈ [Instr.vfadd a b c, .vfsub a b c, .vfmul a b c, .vfdiv a b c, .vfmin a b c, .vfmax a b c] ∧ accepts = t.isFloat ∨
       i ∈ [Instr.vand a b c, .vor a b c, .vxor a b c] ∧ accepts = true) →
     (¬ (dstFits w n a ∧ srcFits w n b ∧ srcFits w n c) → exec i s = .next (s.trap .illRsvd)) ∧
     (dstFits w n a → srcFits w n b → srcFits w n c → accepts = false → exec i s = .next (s.trap .illConv))) ∧
  (∀ (s : State) (a base c : BitVec 8) (x : MemExt),
     let w := s.wave
     let s0 := afterWait s x.slots
     let n := if x.width = .b128 then 4 else if x.width = .b64 then 2 else 1
     UnstruckIn s w.lanes → inBudget w n a → srcFits w (if MBase.wide base then 2 else 1) c →
     let judge : Instr → Form → Prop := fun i f =>
       let bad : Nat → Bool := fun l => decide ((s.accOf f l).va.toNat % f.size ≠ 0)
       let out : Nat → Bool := fun l => !s.inGrant f (s.accOf f l)
       (∀ l, w.lanes.find? bad = some l → exec i s = .next (s0.takeTrap .align 0 l (s.accOf f l).va w.pc)) ∧
       (f.sp = true → w.lanes.find? bad = none → ∀ l, w.lanes.find? out = some l →
         exec i s = .next (s0.takeTrap .pageNp 8 l (s.accOf f l).va w.pc))
     judge (.ld a base c x) (loadForm false base c x) ∧ judge (.lds a base c x) (loadForm false base c x) ∧
     judge (.st a base c x) (storeForm false base c x) ∧ judge (.sts a base c x) (storeForm false base c x))

/-- R266, R267, R105, R52, R109: LD, LDS and LDU whose accesses pass their checks and meet no sector in error, where no
access asks for a sector of the L1 to go home first and the L1s have room. Every lane at work receives the number in the
bytes that its core finds, zero-extended, every other lane and register stays, the slot is set, the PC moves on 8, and
memory is unchanged. -/
def Obligations.Loads : Prop :=
  ∀ (s u : State) (a base c : BitVec 8) (x : MemExt) (hits : List Hit) (h : Hit),
    let w := s.wave
    let n := if x.width = .b128 then 4 else if x.width = .b64 then 2 else 1
    let f := loadForm false base c x
    let fu := loadForm true base c x
    let stays : Form → List Hit → Prop := fun f hits => u.l1 = [] ∨
      acquires f.sp x = false ∧ ∀ h ∈ hits, h.looks = true ∨ isSpKey h.key = true
    NoMmas s → u.wave.pair = none → u.poison = [] → u.l1.length < 4000 → (∀ e ∈ u.l1, e.bad = false) →
    (dstFits w n a → srcFits w (if MBase.wide base then 2 else 1) c → Reaches (afterWait s x.slots) f (fun _ => false) u hits →
      stays f hits → (hits.map (·.pos)).Nodup → (∀ h ∈ hits, h.dev = false ∧ h.pos < 32) →
      ∃ t v, (exec (.ld a base c x) s = .next t ∧ exec (.lds a base c x) s = .next t) ∧ t.mem = u.mem ∧
        t.wave = past 8 { u.wave with v := v, slots := slotsSet x.slots u.wave.slots } ∧
        (∀ r l, l < 32 → (a = 0xFF#8 ∨ r < a.toNat ∨ a.toNat + n ≤ r ∨ ∀ h ∈ hits, h.pos ≠ l) →
          Sparse.get 0#32 v (32 * r + l) = u.wave.getV r l) ∧
        (a ≠ 0xFF#8 → ∀ h ∈ hits, ∀ i < n, Sparse.get 0#32 v (32 * (a.toNat + i) + h.pos) =
          BitVec.ofNat 32 (numberSeen u h (acquires f.sp x) x.width.bytes / 2 ^ (32 * i)))) ∧
    (Reaches (afterWait s x.slots) fu (fun _ => false) u [h] → stays fu [h] → h.dev = false →
      ∃ t, exec (.ldu a base c x) s = .next t ∧ t.mem = u.mem ∧
        t.wave = past 8 (toUniform a (BitVec.ofNat 64 (numberSeen u h (acquires fu.sp x) x.width.bytes))
          { u.wave with slots := slotsSet x.slots u.wave.slots }))

/-- R266, R267, R53, R105: ST, STS and STU whose accesses pass their checks, over plain memory. Every lane at work stores
the low bytes of its registers, a later lane over an earlier one, at the home or, under a write-back policy, in the core's
L1; no other byte of memory changes, nor any register; the slot is set, the PC moves on 8. -/
def Obligations.Stores : Prop :=
  ∀ (s u : State) (a base c : BitVec 8) (x : MemExt) (hits : List Hit),
    let w := s.wave
    let n := if x.width = .b128 then 4 else if x.width = .b64 then 2 else 1
    let z := x.width.bytes
    let stores : Instr → (Nat → Nat) → Prop := fun i data =>
      ∃ t, exec i s = .next t ∧ t.wave = past 8 { u.wave with slots := slotsSet x.slots u.wave.slots } ∧
        (∀ k, (∀ h ∈ hits, ¬ covers h z k) → t.rawByte k = u.rawByte k) ∧
        ((∀ h ∈ hits, ¬ atHome h x) → t.mem = u.mem) ∧
        (∀ pre h post, hits = pre ++ h :: post → ∀ i < z, (∀ g ∈ post, ¬ covers g z (h.key + i)) →
          ((∀ g ∈ hits, atHome g x) → t.rawByte (h.key + i) = BitVec.ofNat 8 (data h.pos / 2 ^ (8 * i))) ∧
          ((∀ g ∈ hits, ¬ atHome g x) →
            t.l1Byte w.coreNo (h.key + i) = some (BitVec.ofNat 8 (data h.pos / 2 ^ (8 * i)))))
    Plain u → u.wave.coreNo = w.coreNo → (∀ h ∈ hits, h.dev = false) →
    (srcFits w n a → srcFits w (if MBase.wide base then 2 else 1) c →
      Reaches (afterWait s x.slots) (storeForm false base c x) (fun _ => false) u hits →
      stores (.st a base c x) (fun l => w.laneNat a l n) ∧ stores (.sts a base c x) (fun l => w.laneNat a l n)) ∧
    (Reaches (afterWait s x.slots) (storeForm true base c x) (fun _ => false) u hits →
      stores (.stu a base c x) (fun _ => (s.readU a).toNat))

/-- R268, R269, R22, R24: XLAT and XLAT.W fill a register from a live cached translation that allows the intent, and clear
F; an address that no table maps leaves only the base and sets F; one that is not canonical is a page fault. XINV clears
every field but the base. -/
def Obligations.TranslationRegisters : Prop :=
  ∀ (s : State) (xr : BitVec 4) (b : BitVec 8) (e : TlbEntry),
    let w := s.wave
    let va := s.readU b
    let old := Sparse.get 0#256 w.x xr.toNat
    let filled : Bool → BitVec 256 := fun wint => BitVec.ofNat 256
      (va.toNat % 2 ^ 56 + (e.pte.toNat / 2 ^ 16 % 2 ^ 36 * 65536 + (va.toNat - e.base)) % 2 ^ 52 * 2 ^ 64 +
        e.pte.toNat / 2 ^ 52 % 128 * 2 ^ 116 + e.pte.toNat / 2 ^ 8 % 4 * 2 ^ 123 +
        (e.base + e.size - va.toNat) % 2 ^ 32 * 2 ^ 128 + wint.toNat * 2 ^ 160 + 2 ^ 164 + e.r.toNat * 2 ^ 165 +
        e.w.toNat * 2 ^ 166 + (e.pte.toNat / 2 ^ 5 % 2) * 2 ^ 167 + e.pte.toNat / 2 ^ 6 % 4 * 2 ^ 168 +
        e.pte.toNat / 2 ^ 10 % 4 * 2 ^ 170 + e.expiry % 2 ^ 64 * 2 ^ 192)
    let holds : BitVec 256 → Bool → State := fun v bad =>
      withWave s (past 4 (withF bad { w with x := Sparse.put 0#256 w.x xr.toNat v }))
    (Unstruck s → w.unfKind = .no → 65536 ≤ va.toNat → va.toNat < 2 ^ 56 →
      s.tlbIn (.core w.coreNo) w.die w.proc va.toNat (fun _ => true) = some e →
      (e.pte.getLsbD 5 = true → w.priv = true) → e.pte.toNat / 2 ^ 6 % 4 ≠ 2 →
      (e.r = true → exec (.xlat xr b) s = .next (holds (filled false) false)) ∧
      (e.w = true → exec (.xlatW xr b) s = .next (holds (filled true) false))) ∧
    (Unstruck s → va.toNat < 65536 →
      exec (.xlat xr b) s = .next (holds (BitVec.ofNat 256 va.toNat) true) ∧
      exec (.xlatW xr b) s = .next (holds (BitVec.ofNat 256 va.toNat) true)) ∧
    (Unstruck s → 2 ^ 56 ≤ va.toNat →
      exec (.xlat xr b) s = .next (s.takePageFault [⟨0, va, .noncanon⟩] 0#32 .uniform false false) ∧
      exec (.xlatW xr b) s = .next (s.takePageFault [⟨0, va, .noncanon⟩] 0#32 .uniform true false)) ∧
    exec (.xinv xr) s =
      .next (withWave s (past 4 { w with x := Sparse.put 0#256 w.x xr.toNat (BitVec.ofNat 256 (old.toNat % 2 ^ 56)) }))

/-- R270, R271, R109: fences of a wave of no pair. One that acquires beyond the core leaves in the core's L1 only the
bytes that the core has written, and no other state changes but the PC; one that releases beyond the core, of an L1
whose sectors hold no error, leaves it nothing unwritten-back; within the core no fence does anything but move on.
R272, R273, R120: reductions over plain memory, by the lanes and by the uniform agent, with and without return. Lanes
that name different places, none in the read-only directory of a command window (R406), each apply the operation to what
their place holds; lanes that name one place apply theirs
in lane order, an integer operation step by step; with return each lane receives what it found. Every other byte of
memory and every other register stays; the slot is set, the PC moves on 8. -/
def Obligations.FencesAndReductions : Prop :=
  (∀ (s : State) (sc : Scope) (p c : BitVec 3), s.wave.pair = none →
     (∀ e ∈ s.l1, e.core = s.wave.coreNo → e.bad = false) →
     let w := s.wave
     let moved := withWave s (past 4 w)
     let wideScope := sc ≠ .wave ∧ sc ≠ .team ∧ sc ≠ .core
     let clean : State → Prop := fun t => ∀ e ∈ t.l1, e.core = w.coreNo → e.written = 0#32
     let dropped : State → Prop := fun t => ∀ e ∈ t.l1, e.core = w.coreNo → e.valid = e.written
     (¬ wideScope → exec (.fenceAcq sc) s = .next moved ∧ exec (.fenceRel sc) s = .next moved ∧
       exec (.fenceFull sc) s = .next moved) ∧
     (wideScope →
       (∃ t, exec (.fenceAcq sc) s = .next t ∧ t = { moved with l1 := t.l1 } ∧ dropped t ∧
         ∀ e ∈ s.l1, e.core = w.coreNo → e.written ≠ 0#32 → ∃ d ∈ t.l1, d.sector = e.sector ∧ d.data = e.data ∧
           d.written = e.written) ∧
       (∃ t, exec (.fenceRel sc) s = .next t ∧ clean t ∧ t.wave = past 4 w ∧ t.waves = s.waves) ∧
       (∃ t, exec (.fenceFull sc) s = .next t ∧ clean t ∧ dropped t ∧ t.wave = past 4 w ∧ t.waves = s.waves)) ∧
     (∃ t, exec (.fencex p c) s = .next t ∧ t.wave = past 4 w ∧ t.waves = s.waves ∧ (p = 0#3 → clean t) ∧
       (c = 0#3 → dropped t) ∧ (p ≠ 0#3 → t.mem = s.mem) ∧ (p ≠ 0#3 → c ≠ 0#3 → t = moved))) ∧
  (∀ (s u : State) (op : AtomOp) (ret : Bool) (a base c : BitVec 8) (x : MemExt) (hits : List Hit) (h : Hit),
     let w := s.wave
     let t := w.etype
     let n := if x.width = .b64 then 2 else 1
     let z := x.width.bytes
     let lane : Instr := match op, ret with
       | .add, false => .atomAdd a base c x | .add, true => .atomAddRet a base c x
       | .fadd, false => .atomFadd a base c x | .fadd, true => .atomFaddRet a base c x
       | .min, false => .atomMin a base c x | .min, true => .atomMinRet a base c x
       | .max, false => .atomMax a base c x | .max, true => .atomMaxRet a base c x
       | .and, false => .atomAnd a base c x | .and, true => .atomAndRet a base c x
       | .or, false => .atomOr a base c x | .or, true => .atomOrRet a base c x
       | .xor, false => .atomXor a base c x | .xor, true => .atomXorRet a base c x
     let uniform : Instr := match op, ret with
       | .add, false => .atomuAdd a base x | .add, true => .atomuAddRet a base x
       | .fadd, false => .atomuFadd a base x | .fadd, true => .atomuFaddRet a base x
       | .min, false => .atomuMin a base x | .min, true => .atomuMinRet a base x
       | .max, false => .atomuMax a base x | .max, true => .atomuMaxRet a base x
       | .and, false => .atomuAnd a base x | .and, true => .atomuAndRet a base x
       | .or, false => .atomuOr a base x | .or, true => .atomuOrRet a base x
       | .xor, false => .atomuXor a base x | .xor, true => .atomuXorRet a base x
     let accepted := if op = .fadd
       then x.width = .b16 ∧ (t = .f16 ∨ t = .bf16) ∨ x.width = .b32 ∧ t = .f32 ∨ x.width = .b64 ∧ t = .f64
       else x.width = .b32 ∧ (t = .i32 ∨ t = .n32) ∨ x.width = .b64 ∧ (t = .i64 ∨ t = .n64)
     let does : Nat → Nat → Nat := fun m v => match op with
       | .add => (m + v) % 2 ^ t.bitsOf
       | .min => if t.toInt m ≤ t.toInt v then m else v
       | .max => if t.toInt m ≤ t.toInt v then v else m
       | .and => m &&& v
       | .or => m ||| v
       | .xor => m ^^^ v
       | .fadd => t.fmt.round Rnd.rne (FVal.add false (t.fmt.decode m) (t.fmt.decode v))
     let val : Nat → Nat := fun l => w.laneNat a l n % 2 ^ t.bitsOf
     let was : Nat → Nat := fun k => u.rawNat k z
     let apart := ∀ g ∈ hits, ∀ h ∈ hits, g ≠ h → g.key + z ≤ h.key ∨ h.key + z ≤ g.key
     let ends : Instr → (State → Prop) → Prop := fun i q => ∃ e, exec i s = .next e ∧
       e.wave = past 8 { u.wave with v := e.wave.v, slots := slotsSet x.slots u.wave.slots } ∧
       (∀ r l, l < 32 → (ret = false ∨ r < a.toNat ∨ a.toNat + n ≤ r ∨ ∀ h ∈ hits, h.pos ≠ l) →
         e.wave.getV r l = u.wave.getV r l) ∧ q e
     NoMmas s → Plain u → u.poison = [] → accepted → u.wave.etype = t → (hits.map (·.pos)).Nodup →
     (inBudget w n a → srcFits w (if MBase.wide base then 2 else 1) c →
       Reaches (afterWait s x.slots) (atomForm false op base c x) (fun _ => false) u hits →
       (∀ h ∈ hits, h.pos < 32 ∧ isDirectory h.key = false) →
       (apart → ends lane fun e =>
         (∀ k, (∀ h ∈ hits, ¬ covers h z k) → e.rawByte k = u.rawByte k) ∧
         (∀ h ∈ hits, e.rawNat h.key z = does (was h.key) (val h.pos)) ∧
         (ret = true → ∀ h ∈ hits, ∀ i < n, e.wave.getV (a.toNat + i) h.pos =
           BitVec.ofNat 32 (t.join [was h.key] / 2 ^ (32 * i)))) ∧
       (op ≠ .fadd → (∀ g ∈ hits, g.key = h.key) → hits ≠ [] → ends lane fun e =>
         (∀ k, ¬ covers h z k → e.rawByte k = u.rawByte k) ∧
         e.rawNat h.key z = (hits.map fun g => val g.pos).foldl does (was h.key) ∧
         (ret = true → ∀ pre g post, hits = pre ++ g :: post → ∀ i < n, e.wave.getV (a.toNat + i) g.pos =
           BitVec.ofNat 32 (t.join [(pre.map fun g => val g.pos).foldl does (was h.key)] / 2 ^ (32 * i))))) ∧
     (Reaches (afterWait s x.slots) (atomForm true op base 0#8 x) (fun _ => false) u [h] → isDirectory h.key = false →
       ∃ e, exec uniform s = .next e ∧
         (∀ k, ¬ covers h z k → e.rawByte k = u.rawByte k) ∧
         e.rawNat h.key z = does (was h.key) ((s.readU a).toNat % 2 ^ t.bitsOf) ∧
         e.wave = past 8 (let v := { u.wave with slots := slotsSet x.slots u.wave.slots }
           if ret then toUniform a (BitVec.ofNat 64 (was h.key)) v else v)))

/-- R49, R50, R274: STAG gives each lane at work the slot that holds its key, or all ones; STAGSET, lane after lane in
ascending order, records its key in a way of its set, forgets it in every other way, and gives its slot; STAGINV makes a slot
invalid; a lane that names a slot out of range, or a table of no entries, traps PAGE_NP with detail 8. The address of that
trap, the key or the slot number, is the model's choice (log entry 28). The set of a key is the XOR of its four 16-bit parts
modulo the number of sets. R47, R275: SPRESZ is privileged; a legal request whose ways hold no grant sets
the split and clears F, any other sets F and leaves the split; its destination receives the L1 ways as they were. -/
def Obligations.TagsAndPool : Prop :=
  (∀ (s : State) (a b c : BitVec 8) (x : OrdExt) (t : Team) (l : Nat),
     let w := s.wave
     let w0 := { w with slots := w.slots &&& ~~~x.slots.wait }
     let ends : (Sparse Word) → Wave := fun v => past 8 { w0 with v := v, slots := slotsSet x.slots w0.slots }
     let key : Nat → Nat := laneOf w b 2
     let setOf : Nat → Nat := fun k =>
       ((k % 2 ^ 16) ^^^ (k / 2 ^ 16 % 2 ^ 16) ^^^ (k / 2 ^ 32 % 2 ^ 16) ^^^ (k / 2 ^ 48 % 2 ^ 16)) % (t.tags / 8)
     let cell : State → Nat → Nat := fun u i => (Sparse.get 0#65 u.tags (4096 * t.uid + i)).toNat
     WorksIn s w.lanes → s.team w.team = some t → t.tags % 8 = 0 → t.tags ≤ 4096 →
     (dstFits w 1 a → srcFits w 2 b → ∃ v, exec (.stag a b x) s = .next (withWave s (ends v)) ∧
       (∀ r i, i < 32 → (¬ w.activeMask.getLsbD i = true ∨ a = 0xFF#8 ∨ r ≠ a.toNat) →
         Sparse.get 0#32 v (32 * r + i) = w.getV r i) ∧
       (a ≠ 0xFF#8 → ∀ i < 32, w.activeMask.getLsbD i = true →
         let r := (Sparse.get 0#32 v (32 * a.toNat + i)).toNat
         (r = 0xFFFFFFFF ∧ (t.tags = 0 ∨ ∀ q < 8, cell s (8 * setOf (key i) + q) ≠ 2 ^ 64 + key i)) ∨
         (r / 8 = setOf (key i) ∧ r < t.tags ∧ cell s r = 2 ^ 64 + key i))) ∧
     (dstFits w 1 a → srcFits w 2 b → srcFits w 1 c → 0 < t.tags →
       let slot : Nat → Nat := fun i => 8 * setOf (key i) + laneOf w c 1 i % 8
       let records : (Nat → Nat) → Nat → Nat → Nat := fun m i k =>
         if k = 4096 * t.uid + slot i then 2 ^ 64 + key i
         else if 4096 * t.uid + 8 * setOf (key i) ≤ k ∧ k < 4096 * t.uid + 8 * setOf (key i) + 8 ∧ m k = 2 ^ 64 + key i then 0
         else m k
       ∃ v g, exec (.stagset a b c x) s = .next { withWave s (ends v) with tags := g } ∧
         (∀ r i, i < 32 → Sparse.get 0#32 v (32 * r + i) =
           if w.activeMask.getLsbD i = true ∧ a ≠ 0xFF#8 ∧ r = a.toNat then BitVec.ofNat 32 (slot i) else w.getV r i) ∧
         ∀ k, (Sparse.get 0#65 g k).toNat =
           ((List.range 32).filter fun i => w.activeMask.getLsbD i).foldl records (fun k => (Sparse.get 0#65 s.tags k).toNat) k) ∧
     (dstFits w 1 a → srcFits w 2 b → srcFits w 1 c → t.tags = 0 → w.lanes.head? = some l →
       exec (.stagset a b c x) s = .next ((withWave s w0).takeTrap .pageNp 8 l (BitVec.ofNat 64 (key l)) w.pc)) ∧
     (srcFits w 1 b → (∀ i ∈ w.lanes, laneOf w b 1 i = 0xFFFFFFFF ∨ laneOf w b 1 i < t.tags) →
       ∃ g, exec (.staginv b x) s = .next { withWave s (ends w.v) with tags := g } ∧
         ∀ k, (Sparse.get 0#65 g k).toNat = if ∃ i ∈ w.lanes, laneOf w b 1 i ≠ 0xFFFFFFFF ∧ k = 4096 * t.uid + laneOf w b 1 i
           then (Sparse.get 0#65 s.tags k).toNat % 2 ^ 64 else (Sparse.get 0#65 s.tags k).toNat) ∧
     (srcFits w 1 b → w.lanes.find? (fun i => decide (laneOf w b 1 i ≠ 0xFFFFFFFF ∧ t.tags ≤ laneOf w b 1 i)) = some l →
       exec (.staginv b x) s =
         .next ((withWave s w0).takeTrap .pageNp 8 l (BitVec.ofNat 64 (laneOf w b 1 l)) w.pc))) ∧
  (∀ (s : State) (a b : BitVec 8),
     let w := s.wave
     let n := (s.readU b).toNat
     let was := Sparse.get 20 s.ways w.coreNo
     let gives : State → Bool → Prop := fun t bad =>
       t.wave = past 4 (toUniform a (BitVec.ofNat 64 (24 - was)) (withF bad w)) ∧ t.waves = s.waves
     (w.priv = false → exec (.spresz a b) s = .next (s.trap .illPriv)) ∧
     (w.priv = true → (n < 4 ∨ 20 < n ∨ (24 - n < was ∧ ∃ t ∈ s.teams, coreKey t.die (t.core / 8) (t.core % 8) = w.coreNo ∧
         t.saved = false ∧ t.unit0 < 8 * was ∧ 8 * (24 - n) < t.unit0 + t.units)) →
       ∃ t, exec (.spresz a b) s = .next t ∧ gives t true ∧ t.ways = s.ways ∧ t.mem = s.mem) ∧
     (w.priv = true → 4 ≤ n → n ≤ 20 → (24 - n < was → ∀ t ∈ s.teams,
         coreKey t.die (t.core / 8) (t.core % 8) = w.coreNo → t.saved = false →
           8 * was ≤ t.unit0 ∨ t.unit0 + t.units ≤ 8 * (24 - n)) →
       ∃ t, exec (.spresz a b) s = .next t ∧ gives t false ∧ Sparse.get 20 t.ways w.coreNo = 24 - n))

/-- R67, R68, R69, R70, R72, R82: an operation at a counter's home. An add changes the value modulo 2^64, not the
status; a break takes OK to ABANDONED or FAULTED and ABANDONED to FAULTED, not the value; an initialisation sets the
value and the status OK. Every waiter of the cell whose threshold the value has reached, and every one when the status
is not OK, is removed and woken; no other waiter is. R277, R75, R281: CADD and CFADD over plain memory, of lanes whose
cells are apart and sound. Each lane's delta is added to its counter; CFADD gives the lane the value before its add;
no other byte of memory changes; F is set by a refused reference, which adds nothing, and by a status FAULTED, B by a
status that is not OK (CFADD). -/
def Obligations.CounterHomesAndAdds : Prop :=
  (∀ (s : State) (key : Nat) (d v : DWord) (st : CtrStatus),
     s.inp.ok = true → s.inp.found ≠ .correctable → s.poison = [] → s.mxAlias = [] → s.engRecords = [] →
     let old := s.ctrValue key
     let was := s.ctrStatus key
     let takes := (was = .ok ∧ st ≠ .ok) ∨ (was = .abandoned ∧ st = .faulted)
     let fires : DWord → CtrStatus → Waiter → Prop := fun v st e =>
       e.key = key ∧ (st ≠ .ok ∨ (v.toNat + 2 ^ 64 - e.thr.toNat) % 2 ^ 64 < 2 ^ 63)
     let ends : CtrOp → DWord → CtrStatus → Prop := fun op v st => ∃ t, exec (.homeCounterOperation key op) s = .next t ∧
       t.ctrValue key = v ∧ t.ctrStatus key = st ∧ t.wave = s.wave ∧ t.waves = s.waves ∧
       (∀ k, k < key ∨ key + 8 ≤ k → t.rawByte k = s.rawByte k) ∧
       (∀ k, k / 8 ≠ key / 8 → t.ctrStatus k = s.ctrStatus k) ∧
       (∀ e ∈ s.waiters, fires v st e ↔ e ∉ t.waiters) ∧ (∀ e ∈ t.waiters, e ∈ s.waiters) ∧
       (∀ e ∈ s.waiters, fires v st e → e.party.event v st ∈ t.work)
     ends (.add d) (old + d) was ∧ ends (.init v) v .ok ∧ (takes → ends (.brk st) old st) ∧
     (¬ takes → exec (.homeCounterOperation key (.brk st)) s = .next s)) ∧
  (∀ (s u : State) (a base c : BitVec 8) (x : MemExt) (hits : List Hit) (cell : Hit → Nat),
     let w := s.wave
     let f := ctrForm false .ctrWrite base c x true
     let delta : Nat → DWord := fun l => BitVec.ofNat 64 (laneOf w a 2 l)
     NoMmas s → Plain u → u.poison = [] → u.engRecords = [] → u.wave.unfKind = .no → u.wave.gathB = false →
     u.wave.gathF = false → u.wave.lanes = w.lanes →
     inBudget w 2 a → srcFits w (if MBase.wide base then 2 else 1) c →
     Reaches (afterWait s x.slots) f (fun l => decide (2 ^ 63 ≤ laneOf w a 2 l)) u hits →
     (hits.map (·.pos)).Nodup → hits.map (·.pos) = w.lanes →
     (∀ h ∈ hits, u.cellOf h = some (cell h)) →
     (∀ g ∈ hits, ∀ h ∈ hits, g ≠ h → cell g + 8 ≤ cell h ∨ cell h + 8 ≤ cell g) →
     let adds : State → Prop := fun t =>
       (∀ h ∈ hits, t.ctrValue (cell h) = u.ctrValue (cell h) + delta h.pos) ∧ t.cst = u.cst ∧
       (∀ k, (∀ h ∈ hits, k < cell h ∨ cell h + 8 ≤ k) → t.rawByte k = u.rawByte k)
     (∃ t, exec (.cadd a base c x) s = .next t ∧ adds t ∧
       t.wave = past 8 { (if w.lanes = [] then u.wave else withF false u.wave) with
         slots := slotsSet x.slots u.wave.slots }) ∧
     (∃ t, exec (.cfadd a base c x) s = .next t ∧ adds t ∧ t.wave.pc = u.wave.pc + 8#64 ∧
       t.wave.s = u.wave.s ∧ t.wave.k = u.wave.k ∧ t.wave.x = u.wave.x ∧ t.wave.tile = u.wave.tile ∧
       (w.lanes ≠ [] → t.wave.cc.getLsbD 4 = hits.any (fun h => decide (u.ctrStatus (cell h) ≠ .ok)) ∧
         t.wave.cc.getLsbD 5 = hits.any (fun h => decide (u.ctrStatus (cell h) = .faulted))) ∧
       (∀ h ∈ hits, t.wave.getV a.toNat h.pos = BitVec.ofNat 32 (u.ctrValue (cell h)).toNat ∧
         t.wave.getV (a.toNat + 1) h.pos = BitVec.ofNat 32 ((u.ctrValue (cell h)).toNat / 2 ^ 32)) ∧
       (∀ r l, l < 32 → (r < a.toNat ∨ a.toNat + 2 ≤ r ∨ ∀ h ∈ hits, h.pos ≠ l) → t.wave.getV r l = u.wave.getV r l)))

/-- R277, R265, R69, R281: CREAD gives each lane the value of its counter and tells B and F of all; CINIT initialises each
lane's counter; the two breaks break it, and are privileged. A counter of a peer is initialised by a privileged wave
alone. -/
def Obligations.CounterReadInitBreak : Prop :=
  ∀ (s u : State) (a base c : BitVec 8) (x : MemExt) (hits : List Hit),
    let w := s.wave
    let fr := ctrForm false .ctrRead base c x false
    let fw := ctrForm false .ctrWrite base c x false
    let offs := srcFits w (if MBase.wide base then 2 else 1) c
    let apart := ∀ g ∈ hits, ∀ h ∈ hits, g ≠ h → g.key / 8 ≠ h.key / 8 ∧ (g.key + 8 ≤ h.key ∨ h.key + 8 ≤ g.key)
    let brk : CtrStatus → CtrStatus → CtrStatus := fun st was => match st, was with
      | .faulted, _ => .faulted
      | .abandoned, .ok => .abandoned
      | _, o => o
    let reached' := fun f => Reaches (afterWait s x.slots) f (fun _ => false) u hits
    let keepsWave : State → Prop := fun t => t.wave = past 8 { u.wave with slots := slotsSet x.slots u.wave.slots }
    NoMmas s → Plain u → u.poison = [] → u.engRecords = [] → u.wave.unfKind = .no → u.wave.gathB = false →
    u.wave.gathF = false → u.wave.lanes = w.lanes → u.wave.priv = w.priv → (hits.map (·.pos)).Nodup → hits.map (·.pos) = w.lanes → offs →
    (inBudget w 2 a → reached' fr →
      ∃ t, exec (.cread a base c x) s = .next t ∧ t.mem = u.mem ∧ t.cst = u.cst ∧ t.wave.pc = u.wave.pc + 8#64 ∧
        t.wave.s = u.wave.s ∧ t.wave.k = u.wave.k ∧
        (w.lanes ≠ [] → t.wave.cc.getLsbD 4 = hits.any (fun h => decide (u.ctrStatus h.key ≠ .ok)) ∧
          t.wave.cc.getLsbD 5 = hits.any (fun h => decide (u.ctrStatus h.key = .faulted))) ∧
        (∀ h ∈ hits, t.wave.getV a.toNat h.pos = BitVec.ofNat 32 (u.ctrValue h.key).toNat ∧
          t.wave.getV (a.toNat + 1) h.pos = BitVec.ofNat 32 ((u.ctrValue h.key).toNat / 2 ^ 32)) ∧
        (∀ r l, l < 32 → (r < a.toNat ∨ a.toNat + 2 ≤ r ∨ ∀ h ∈ hits, h.pos ≠ l) → t.wave.getV r l = u.wave.getV r l)) ∧
    (srcFits w 2 a → reached' fw → apart → (w.priv = true ∨ ∀ h ∈ hits, h.target ≠ 2) →
      ∃ t, exec (.cinit a base c x) s = .next t ∧ keepsWave t ∧
        (∀ h ∈ hits, t.ctrValue h.key = BitVec.ofNat 64 (laneOf w a 2 h.pos) ∧ t.ctrStatus h.key = .ok) ∧
        (∀ k, (∀ h ∈ hits, ¬ covers h 8 k) → t.rawByte k = u.rawByte k)) ∧
    (srcFits w 2 a → reached' fw → w.priv = false → ∀ h, hits.find? (fun h => decide (h.target = 2)) = some h →
      exec (.cinit a base c x) s = .next (u.takeTrap .illPriv 0 h.pos 0#64 u.wave.pc)) ∧
    (w.priv = true → reached' fw → apart →
      (∃ t, exec (.cbrkAband base c x) s = .next t ∧ keepsWave t ∧ t.mem = u.mem ∧
        ∀ h ∈ hits, t.ctrStatus h.key = brk .abandoned (u.ctrStatus h.key)) ∧
      (∃ t, exec (.cbrkFault base c x) s = .next t ∧ keepsWave t ∧ t.mem = u.mem ∧
        ∀ h ∈ hits, t.ctrStatus h.key = brk .faulted (u.ctrStatus h.key))) ∧
    (w.priv = false → exec (.cbrkAband base c x) s = .next (s.trap .illPriv) ∧
      exec (.cbrkFault base c x) s = .next (s.trap .illPriv))

/-- R278, R279, R280, R281: CPOLL, CWAIT and CWAIT with a continuation at a counter whose cell is reached. Where the
value has reached the threshold or the status is not OK, the destination receives the value, Z, B and F tell what was
seen, and the wave goes on, the last form at its continuation PC; otherwise CPOLL does the same with Z clear, CWAIT
registers a waiter and waits in its slot, and the last form registers it and parks; a continuation PC that is not a
word's traps. R278, R279, R80: a waiter's wake ends the wait of a wave of no pair: its destination receives the value
observed, Z, B and F tell what was seen, and it goes on behind its CWAIT, or at its continuation PC, in its slot again
or runnable. -/
def Obligations.CounterWaiting : Prop :=
  (∀ (s u : State) (a base c : BitVec 8) (x : MemExt) (h : Hit),
     let f := ctrForm true .ctrRead base c x false
     let g := ctrForm true .ctrRead base 0#8 x false
     let thr := s.readU a
     let npc := s.readU c
     let v := u.ctrValue h.key
     let st := u.ctrStatus h.key
     let reach : Bool := decide ((v.toNat + 2 ^ 64 - thr.toNat) % 2 ^ 64 < 2 ^ 63)
     let isOver := reach = true ∨ st ≠ .ok
     let seen : Wave := toUniform a v { u.wave with
       cc := ccOf (decide (st = .faulted)) (decide (st ≠ .ok)) (u.wave.cc.getLsbD 3) (u.wave.cc.getLsbD 2)
         (u.wave.cc.getLsbD 1) reach, slots := slotsSet x.slots u.wave.slots }
     let waiter : Waiter := ⟨h.key, thr, .wave u.wave.hdl⟩
     Plain u → u.poison = [] → u.engRecords = [] →
     (Reaches (afterWait s x.slots) f (fun _ => false) u [h] →
       exec (.cpoll a base c x) s = .next (withWave u (past 8 seen)) ∧
       (isOver → exec (.cwait a base c x) s = .next (withWave u (past 8 seen))) ∧
       (¬ isOver → exec (.cwait a base c x) s = .next { withWave u { u.wave with
         st := .waiting, await := .counter h.key thr a (acquires f.sp x), due := false, since := u.clock.get u.wave.die }
         with waiters := u.waiters ++ [waiter] })) ∧
     (npc.toNat % 4 ≠ 0 → Unstruck s → exec (.cwaitCont a base c x) s = .next ((afterWait s x.slots).trap .align)) ∧
     (npc.toNat % 4 = 0 → Reaches (afterWait s x.slots) g (fun _ => false) u [h] →
       (isOver → exec (.cwaitCont a base c x) s = .next (withWave u (goneTo npc seen))) ∧
       (¬ isOver → exec (.cwaitCont a base c x) s = .next { withWave u { u.wave with
         st := .parked, await := .cont h.key thr a (acquires g.sp x) npc, due := false, slots := 0#8,
         since := u.clock.get u.wave.die } with waiters := u.waiters ++ [waiter] }))) ∧
  (∀ (s : State) (w : Wave) (key : Nat) (thr v npc : DWord) (dst : BitVec 8) (st : CtrStatus),
     w.hdl ≠ 0#32 → s.wave.hdl ≠ w.hdl → s.waves.find? (fun o => decide (o.hdl = w.hdl)) = some w →
     w.due = false → w.halted = false → w.pair = none → s.engRecords = [] → (∀ e ∈ s.waiters, e.party ≠ .wave w.hdl) →
     (∀ e ∈ s.l1, e.core = w.coreNo → 128 * (e.sector / 4) + 128 ≤ key ∨ key + 8 ≤ 128 * (e.sector / 4)) →
     let reach : Bool := decide ((v.toNat + 2 ^ 64 - thr.toNat) % 2 ^ 64 < 2 ^ 63)
     let seen : Wave := toUniform dst v { w with
       cc := ccOf (decide (st = .faulted)) (decide (st ≠ .ok)) (w.cc.getLsbD 3) (w.cc.getLsbD 2) (w.cc.getLsbD 1) reach }
     (w.await = .counter key thr dst false → w.st = .waiting →
       ∃ t, exec (.waiterWake w.hdl v st) s = .next t ∧ t.mem = s.mem ∧ t.wave = s.wave ∧
         { goneTo (w.pc + 8#64) seen with st := .resident, await := .nothing, since := s.clock.get w.die } ∈ t.waves) ∧
     (w.await = .cont key thr dst false npc → w.st = .parked → s.teamSaved w = false → npc ≠ w.pc →
       ∃ t, exec (.waiterWake w.hdl v st) s = .next t ∧ t.mem = s.mem ∧ t.wave = s.wave ∧
         { goneTo npc seen with st := .runnable, await := .nothing, due := false, curPri := w.basePri,
                                since := s.clock.get w.die } ∈ t.waves))

/-- R303, R302 as far as a tile's bytes: TZERO clears its tile, or one panel of 64 columns, and nothing else. R304: TMOVV
copies words of a tile to registers in the lanes at work, VMOVT registers to words of a tile, along rows or columns, and
nothing else changes. No MMA of the wave is outstanding. TZERO's word stands as R303 lays it out. -/
def Obligations.TileMoves : Prop :=
  ∀ (s : State) (sel a b : BitVec 8) (index : BitVec 7) (col : Bool) (n : BitVec 2),
    (∀ m ∈ s.mmas, m.wave ≠ s.wave.hdl) →
    let w := s.wave
    let byteOf : Sparse Byte → Nat → Nat → Byte := fun d t o => Sparse.get 0#8 d (65536 * t + o)
    let place : Nat → Nat → Nat → Nat × Nat := fun h j l =>
      if col then (32 * j + l, index.toNat + h) else (index.toNat + h, 32 * j + l)
    let word : Sparse Byte → Nat → Nat × Nat → Nat := fun d t p =>
      natOfBytes ((List.range 4).map fun i => byteOf d t (512 * p.1 + 4 * p.2 + i))
    let groups := 2 ^ n.toNat
    encode (.tzero sel) = [0xCA#8 ++ (sel ++ (0#8 ++ 0#8))] ∧
    (Unstruck s → (sel.toNat / 8 % 8) < w.ntiles →
      ∃ d, exec (.tzero sel) s = .next (withWave s (past 4 { w with tile := d })) ∧ ∀ t o, o < 65536 →
        byteOf d t o = if t = sel.toNat / 8 % 8 ∧ (128 ≤ sel.toNat ∨ o % 512 / 64 = sel.toNat % 8) then 0#8
          else byteOf w.tile t o) ∧
    (WorksIn s w.lanes → 0x58 ≤ b.toNat → b.toNat < 0x58 + w.ntiles → inBudget w 1 a →
      a.toNat + 4 * groups ≤ 8 * w.vblk →
      ∃ v, exec (.tmovv a b index col n) s = .next (withWave s (past 8 { w with v := v })) ∧
        (∀ h j l, h < groups → j < 4 → l < 32 → w.activeMask.getLsbD l = true →
          (Sparse.get 0#32 v (32 * (a.toNat + 4 * h + j) + l)).toNat = word w.tile (b.toNat - 0x58) (place h j l)) ∧
        ∀ r l, l < 32 → (r < a.toNat ∨ a.toNat + 4 * groups ≤ r ∨ w.activeMask.getLsbD l = false) →
          Sparse.get 0#32 v (32 * r + l) = w.getV r l) ∧
    (UnstruckIn s w.lanes → 0x58 ≤ a.toNat → a.toNat < 0x58 + w.ntiles → inBudget w 1 b →
      b.toNat + 4 * groups ≤ 8 * w.vblk → index.toNat + groups ≤ 128 →
      ∃ d, exec (.vmovt a b index col n) s = .next (withWave s (past 8 { w with tile := d })) ∧
        (∀ h j l, h < groups → j < 4 → l < 32 → w.activeMask.getLsbD l = true →
          word d (a.toNat - 0x58) (place h j l) = (w.getV (b.toNat + 4 * h + j) l).toNat) ∧
        ∀ t o, o < 65536 → (t ≠ a.toNat - 0x58 ∨ ∀ h j l, h < groups → j < 4 → l < 32 → w.activeMask.getLsbD l = true →
            (o < 512 * (place h j l).1 + 4 * (place h j l).2 ∨ 512 * (place h j l).1 + 4 * (place h j l).2 + 4 ≤ o)) →
          byteOf d t o = byteOf w.tile t o)

/-- R302, R289, R45: TLD and TST of a whole tile or a panel to and from the team's scratchpad. Row r stands at the offset of
the instruction plus r strides; TLD fills the tile's rows from there and touches no memory, TST writes them there and
touches no tile; every other byte stays. A row that is not on 16 bytes traps ALIGN; one outside the grant traps PAGE_NP. -/
def Obligations.TileLoadsAndStores : Prop :=
  ∀ (s : State) (sel base c : BitVec 8) (x : MemExt) (t : Team),
    (∀ m ∈ s.mmas, m.wave ≠ s.wave.hdl) → MBase.sp base = true → Unstruck s → Plain s → s.poison = [] → s.wave.asked = [] →
    (sel.toNat / 8 % 8) < s.wave.ntiles → s.team s.wave.team = some t →
    let w := s.wave
    let q := sel.toNat / 8 % 8
    let n : Nat := if 128 ≤ sel.toNat then 512 else 64
    let col : Nat := if 128 ≤ sel.toNat then 0 else 64 * (sel.toNat % 8)
    let v := (s.readU c).toNat
    let off : Nat → Int := fun r => (BitVec.ofNat 32 (v / 2 ^ 32)).toInt + 16 * x.imm.toInt + r * (v % 2 ^ 32)
    let key : Nat → Nat := fun r => 2 ^ 70 + w.team * 2 ^ 22 + (off r).toNat
    let byteOf : Sparse Byte → Nat → Nat → Byte := fun d t o => Sparse.get 0#8 d (65536 * t + o)
    let w0 := { w with slots := w.slots &&& ~~~x.slots.wait }
    let aligned := ∀ r < 128, off r % 16 = 0
    let within := ∀ r < 128, 0 ≤ off r ∧ off r + n ≤ t.units * 16384
    (aligned → within →
      (∃ d, exec (.tld sel base c x) s =
          .next (withWave s (past 8 { w0 with tile := d, slots := slotsSet x.slots w0.slots })) ∧
        ∀ p r i, r < 128 → i < 512 → byteOf d p (512 * r + i) =
          if p = q ∧ col ≤ i ∧ i < col + n then s.rawByte (key r + (i - col)) else byteOf w.tile p (512 * r + i)) ∧
      (∃ u, exec (.tst sel base c x) s = .next u ∧
        u.wave = past 8 { w0 with slots := slotsSet x.slots w0.slots } ∧
        (∀ k, (∀ r < 128, k < key r ∨ key r + n ≤ k) → u.rawByte k = s.rawByte k) ∧
        (n ≤ v % 2 ^ 32 → ∀ r i, r < 128 → i < n → u.rawByte (key r + i) = byteOf w.tile q (512 * r + col + i)))) ∧
    (∀ r < 128, off r % 16 ≠ 0 → (∀ p < r, off p % 16 = 0) →
      exec (.tld sel base c x) s = .next ((withWave s w0).takeTrap .align 0 0xFF (BitVec.ofInt 64 (off r)) w.pc) ∧
      exec (.tst sel base c x) s = .next ((withWave s w0).takeTrap .align 0 0xFF (BitVec.ofInt 64 (off r)) w.pc)) ∧
    (aligned → ∀ r < 128, ¬ (0 ≤ off r ∧ off r + n ≤ t.units * 16384) →
      (∀ p < r, 0 ≤ off p ∧ off p + n ≤ t.units * 16384) →
      exec (.tld sel base c x) s = .next ((withWave s w0).takeTrap .pageNp 8 0xFF (BitVec.ofInt 64 (off r)) w.pc) ∧
      exec (.tst sel base c x) s = .next ((withWave s w0).takeTrap .pageNp 8 0xFF (BitVec.ofInt 64 (off r)) w.pc))

/-- R305 to R308: TCVT converts each word of its source, under its block's scale or unscaled, and packs it into the panels from
its first one; a scaled one writes its scale bytes to the scratchpad, and traps PAGE_NP where they lie outside the grant.
TREDMX and TREDSM fold each row, or each block of 32, of a tile into the lanes at work of their registers; TSCL
scales every word of its tile by the coefficient of its row or column, and adds one. Nothing else changes but the PC. -/
def Obligations.TileArithmetic : Prop :=
  ∀ (s : State) (a b c : BitVec 8) (fmt : TcvtFmt) (p : BitVec 3) (scaled sat isrc b32 abs col add : Bool) (rnd : TRnd),
    (∀ m ∈ s.mmas, m.wave ≠ s.wave.hdl) →
    let w := s.wave
    let byteOf : Sparse Byte → Nat → Nat → Byte := fun d t o => Sparse.get 0#8 d (65536 * t + o)
    let words : Nat → Nat → Nat → Nat := fun t m n => (w.tileWord t m n).toNat
    let f32 : Nat → FVal := fun v => Fmt.f32.decode v
    let f32out : FVal → Nat := fun v => Fmt.f32.round Rnd.rne v
    let isTile : BitVec 8 → Prop := fun r => 0x58 ≤ r.toNat ∧ r.toNat < 0x58 + w.ntiles
    let folds : Instr → (List FVal → FVal) → Prop := fun i g =>
      ∃ v, exec i s = .next (withWave s (past 8 { w with v := v })) ∧
        (∀ m blk, m < 128 → blk < (if b32 then 4 else 1) → w.activeMask.getLsbD (m % 32) = true →
          (Sparse.get 0#32 v (32 * (a.toNat + 4 * blk + m / 32) + m % 32)).toNat =
            f32out (g ((List.range (if b32 then 32 else 128)).map fun i => f32 (words (b.toNat - 0x58) m (32 * blk + i)))) %
              2 ^ 32) ∧
        ∀ r l, l < 32 → (r < a.toNat ∨ a.toNat + (if b32 then 16 else 4) ≤ r ∨ w.activeMask.getLsbD l = false) →
          Sparse.get 0#32 v (32 * r + l) = w.getV r l
    (Unstruck s → isTile a → isTile b → a ≠ b → p.toNat + fmt.panels ≤ 8 → (scaled = true → fmt.scalable = true) →
      let off := (s.readU c).toNat
      let key := 2 ^ 70 + w.team * 2 ^ 22 + off
      let grant := match s.team w.team with
        | some t => t.units * 16384
        | none => 0
      let word := words (b.toNat - 0x58)
      let emax : Int := match fmt with
        | .e4m3 => 8
        | .e5m2 => 15
        | .e3m2 => 4
        | _ => 2
      let format : Fmt := match fmt with
        | .e4m3 => .e4m3
        | .e5m2 => .e5m2
        | .e3m2 => .e3m2
        | .e2m3 => .e2m3
        | .e2m1 => .e2m1
        | .bf16 => .bf16
        | _ => .f16
      let rn : Nat → Nat → Bool → Rnd := fun m n sat => ⟨rnd.mode,
        if rnd = .sto then stoHash (w.mode.toNat / 2 ^ 16) (w.threadId 0).toNat (128 * m + n) else 0, sat⟩
      let val : (Nat → Nat → Nat) → Nat → Nat → Nat := fun E m n =>
        if fmt = .i8 then
          (if isrc then fittedTo 8 true sat (BitVec.ofNat 32 (word m n)).toInt
           else match f32 (word m n) with
             | .nan => 0
             | .inf g => if g then 0x80 else 0x7F
             | .num g q e => fittedTo 8 true true (integerOf (rn m n false) g q e))
        else match f32 (word m n) with
          | .nan => format.nanBits
          | .inf g => g.toNat * 2 ^ (format.eb + format.mb) + (if sat || scaled then format.maxFinite else infinityOf format)
          | .num g q e => format.roundNum (rn m n (sat || scaled)) g q (e + 127 - E m (n / 32))
      let converted : (Nat → Nat → Nat) → Sparse Byte → Prop := fun E d =>
        (∀ m n, m < 128 → n < 128 →
          let at_ : Nat → Nat := fun i => (byteOf d (a.toNat - 0x58) (512 * m + 64 * p.toNat + i)).toNat
          if fmt = .e2m1 then at_ (n / 2) / 16 ^ (n % 2) % 16 = val E m n
          else if fmt.panels = 4 then at_ (2 * n) + 256 * at_ (2 * n + 1) = val E m n
          else at_ n = val E m n) ∧
        ∀ t m i, m < 128 → i < 512 → ¬ (t = a.toNat - 0x58 ∧ 64 * p.toNat ≤ i ∧ i < 64 * (p.toNat + fmt.panels)) →
          byteOf d t (512 * m + i) = byteOf w.tile t (512 * m + i)
      (scaled = false → ∃ d, converted (fun _ _ => 127) d ∧
        exec (.tcvt a b c fmt false p sat rnd isrc) s = .next (withWave s (past 8 { w with tile := d }))) ∧
      (scaled = true → off + 512 ≤ grant → s.mxAlias = [] → ∃ d E u, converted E d ∧
        (∀ m j, m < 128 → j < 4 → IsScale ((List.range 32).map fun i => f32 (word m (32 * j + i))) emax (E m j)) ∧
        exec (.tcvt a b c fmt true p sat rnd isrc) s = .next u ∧ u.wave = past 8 { w with tile := d } ∧
        (∀ m j, m < 128 → j < 4 → (u.rawByte (key + 4 * m + j)).toNat = E m j) ∧
        ∀ k, (k < key ∨ key + 512 ≤ k) → u.rawByte k = s.rawByte k) ∧
      (scaled = true → grant < off + 512 → exec (.tcvt a b c fmt true p sat rnd isrc) s =
        .next (s.takeTrap .pageNp 8 0xFF (BitVec.ofNat 64 off) w.pc))) ∧
    (WorksIn s w.lanes → isTile b → inBudget w 1 a → a.toNat + (if b32 then 16 else 4) ≤ 8 * w.vblk →
      folds (.tredmx a b b32 abs) (fun l =>
        let l := if abs then l.map (fun v => if v.negative then v.neg else v) else l
        l.tail.foldl FVal.maxNum (l.headD .nan)) ∧
      folds (.tredsm a b b32) (fun l => l.tail.foldl (fun x y => f32 (f32out (FVal.add false x y))) (l.headD .nan))) ∧
    (Unstruck s → isTile a → inBudget w 1 b → b.toNat + (if add then 8 else 4) ≤ 8 * w.vblk →
      ∃ d, exec (.tscl a b col add) s = .next (withWave s (past 8 { w with tile := d })) ∧
        (∀ m n, m < 128 → n < 128 →
          let i := if col then n else m
          let coef : Nat → FVal := fun r => f32 (w.getV (b.toNat + r + i / 32) (i % 32)).toNat
          natOfBytes ((List.range 4).map fun j => byteOf d (a.toNat - 0x58) (512 * m + 4 * n + j)) =
            f32out (FVal.add false (FVal.mul (f32 (words (a.toNat - 0x58) m n)) (coef 0))
              (if add then coef 4 else f32 0)) % 2 ^ 32) ∧
        ∀ t o, t ≠ a.toNat - 0x58 → o < 65536 → byteOf d t o = byteOf w.tile t o)

/-- R306, R298, R290: TPRUNE, in every format, keeps of each group of four elements of a row the one of the highest rank, the
lowest of equals, and then the one of the highest rank of the others, in their order, with their bits as they were, and writes
their positions into the group's nibble of the metadata. No other panel changes, and of the metadata panel's rows only the
quarter, or two, that is named. That the two bits above a 6-bit element are written 0 is R284's. -/
def Obligations.TilePruning : Prop :=
  ∀ (s : State) (a b c : BitVec 8) (fmt : BitVec 4) (mq : BitVec 2),
    (∀ m ∈ s.mmas, m.wave ≠ s.wave.hdl) → Unstruck s →
    (MOpnd.tile a).toNat < s.wave.ntiles → (MOpnd.tile b).toNat < s.wave.ntiles →
    (MOpnd.tile c).toNat < s.wave.ntiles →
    ¬ (MOpnd.tile a = MOpnd.tile c ∧ MOpnd.panel a = MOpnd.panel c) → (MOpnd.panel b).toNat < 7 →
    fmt.toNat < 12 → (fmt.toNat = 4 → mq.toNat % 2 = 0) →
    let w := s.wave
    let code := fmt.toNat
    let half := panelDepth code
    let at_ : Sparse Byte → Nat → Nat → Nat → Nat := fun d t r i => (Sparse.get 0#8 d (65536 * t + 512 * r + i)).toNat
    let panel : Sparse Byte → BitVec 8 → Nat → Nat → Nat := fun d o more k =>
      at_ d (MOpnd.tile o).toNat (k / 64) (64 * ((MOpnd.panel o).toNat + more) + k % 64)
    let src : Nat → Nat → Nat := fun r k => elementOf (panel w.tile b (k / half)) code false r (k % half)
    let kept : Nat → Nat := fun v => if code = 2 ∨ code = 3 then v % 64 else v
    let quarter := 64 * (MOpnd.panel c).toNat + 16 * mq.toNat
    ∃ d, exec (.tprune a b c fmt mq) s = .next (withWave s (past 8 { w with tile := d })) ∧
      (∀ r g, r < 128 → g < half / 2 →
        let val : Nat → FVal := fun q => valueOf code (src r (4 * g + q))
        ∃ i j, i < 4 ∧ j < 4 ∧ i ≠ j ∧
          (∀ q < 4, ¬ outranks (val q) (val i)) ∧ (∀ q < i, outranks (val i) (val q)) ∧
          (∀ q < 4, q ≠ i → ¬ outranks (val q) (val j)) ∧ (∀ q < j, q ≠ i → outranks (val j) (val q)) ∧
          elementOf (panel d a 0) code false r (2 * g) = kept (src r (4 * g + min i j)) ∧
          elementOf (panel d a 0) code false r (2 * g + 1) = kept (src r (4 * g + max i j)) ∧
          at_ d (MOpnd.tile c).toNat r (quarter + g / 2) / 16 ^ (g % 2) % 16 = min i j + 4 * max i j) ∧
      (∀ t r k, r < 128 → k < 512 →
        ¬ (t = (MOpnd.tile a).toNat ∧ k / 64 = (MOpnd.panel a).toNat) →
        ¬ (t = (MOpnd.tile c).toNat ∧ quarter ≤ k ∧ k < quarter + (if code = 4 then 32 else 16)) →
        at_ d t r k = at_ w.tile t r k)

/-- R290, R291, R294, R295, R297, R298, R299: the oldest operation of an array completes: dense or sparse, of panels read
normally or transposed or of fragments, in every format, scaled or not. Each word of D becomes the old word, or 0 where it
overwrites, with the products of each 32 logical elements summed exactly and added in turn: for int8 fitted or modulo 2^32, else
scaled, rounded to f32 and added with one more rounding. No other tile changes; the operation's batch waits for it no more.
For dense int8 panels, not transposed and not saturating, that is the sum of the 64 products modulo 2^32. -/
def Obligations.MatrixResult : Prop :=
  ∀ (s : State) (m : Mma), s.wave.hdl ≠ 0#32 → m.wave = s.wave.hdl → s.mmas.find? (fun o => decide (o.uid = m.uid)) = some m →
    (∀ o ∈ s.mmas, o.array = m.array → m.uid ≤ o.uid) → m.strike = none → (∀ n, s.wave.await ≠ .batch n) →
    m.fmta < 12 → m.fmtb < 12 → panelDepth m.fmta = panelDepth m.fmtb → (m.fmta = 5 ↔ m.fmtb = 5) →
    let w := s.wave
    let byteOf : BitVec 8 → Nat → Nat → Nat := fun o more k =>
      if MOpnd.frag o = true then
        (Sparse.get 0#32 m.frag (32 * (8 * (MOpnd.blk o).toNat + k / 128) + k % 128 / 4)).toNat / 256 ^ (k % 4) % 256
      else (Sparse.get 0#8 w.tile (65536 * (MOpnd.tile o).toNat + 512 * (k / 64) +
        64 * ((MOpnd.panel o).toNat + more) + k % 64)).toNat
    let half := panelDepth m.fmta
    let depth := if m.sparse then 2 * half else half
    let value : Nat → Nat → FVal := fun i k => valueOf m.fmta (elementOf (byteOf m.a 0) m.fmta m.ta i k)
    let nibble : Nat → Nat → Nat := fun i g =>
      (Sparse.get 0#8 w.tile (65536 * (m.metaP / 8) + 512 * i + 64 * (m.metaP % 8) + 16 * m.mq + g / 2)).toNat /
        16 ^ (g % 2) % 16
    let A : Nat → Nat → List FVal := fun i k =>
      if m.sparse = false then [value i k]
      else
        let here := (if nibble i (k / 4) % 4 = k % 4 then [value i (2 * (k / 4))] else []) ++
          (if nibble i (k / 4) / 4 = k % 4 then [value i (2 * (k / 4) + 1)] else [])
        if here = [] then [.num false 0 0] else here
    let B : Nat → Nat → FVal := fun n k =>
      valueOf m.fmtb (elementOf (byteOf m.b (k / half)) m.fmtb m.tb n (k % half))
    let scale : Nat → List Byte → Nat → Nat → Nat := fun blk l i k =>
      if blk = 0 then 127 else (l.getD (depth / (16 * 2 ^ blk) * i + k / (16 * 2 ^ blk)) 0#8).toNat
    let products : Nat → Nat → Nat → List FVal := fun i n j =>
      (List.range 32).flatMap fun q => (A i (32 * j + q)).map fun v => FVal.mul v (B n (32 * j + q))
    let step : Nat → Nat → Nat → Nat → Nat := fun i n acc j =>
      let sum := (products i n j).foldl (FVal.add false) (.num false 0 0)
      let ea := scale m.blka m.sa i (32 * j)
      let eb := scale m.blkb m.sb n (32 * j)
      let part : Nat :=
        if ea = 255 ∨ eb = 255 then 0x7FC00000
        else match sum with
          | .nan => 0x7FC00000
          | .inf g => g.toNat * 2 ^ 31 + 0x7F800000
          | .num g q e => Fmt.f32.roundNum Rnd.rne g q (e + (ea - 127 : Int) + (eb - 127 : Int))
      Fmt.f32.round Rnd.rne (FVal.add false (Fmt.f32.decode acc) (Fmt.f32.decode part))
    let whole : Nat → Nat → Nat → Nat → Nat := fun i n acc j =>
      fittedTo 32 true m.isat ((BitVec.ofNat 32 acc).toInt + ((List.range 32).map fun q =>
        ((A i (32 * j + q)).map fun v => match v, B n (32 * j + q) with
          | .num g x _, .num h y _ => (if g then -(x : Int) else x) * (if h then -(y : Int) else y)
          | _, _ => 0).sum).sum)
    let int8 : BitVec 8 → Nat → Nat → Int := fun o i k =>
      (Sparse.get 0#8 w.tile (65536 * (MOpnd.tile o).toNat + 512 * i + 64 * (MOpnd.panel o).toNat + k)).toInt
    ∃ t, exec (.mmaComplete m.uid) s = .next t ∧ t.wave.pc = w.pc ∧ t.wave.v = w.v ∧ t.wave.s = w.s ∧
      (∀ i n, i < 128 → n < 128 → (t.wave.tileWord m.d i n).toNat =
        (List.range (depth / 32)).foldl (if m.fmta = 5 then whole i n else step i n)
          (if m.ovw then 0 else (w.tileWord m.d i n).toNat)) ∧
      (m.fmta = 5 → m.isat = false → m.sparse = false → m.ta = false → m.tb = false → MOpnd.frag m.a = false →
        MOpnd.frag m.b = false → ∀ i n, i < 128 → n < 128 →
          t.wave.tileWord m.d i n = (if m.ovw then 0#32 else w.tileWord m.d i n) +
            BitVec.ofInt 32 (((List.range 64).map fun k => int8 m.a i k * int8 m.b n k).sum)) ∧
      (∀ q o, q ≠ m.d → o < 65536 → t.wave.getT q o = w.getT q o) ∧ t.mmas = s.mmas.filter (fun o => o.uid ≠ m.uid) ∧
      t.wave.openSet = w.openSet ∧ ∀ e ∈ t.wave.batches, m.uid ∉ e.2

/-- R292, R293, R294, R295, R296, R298, R299, R300: MMA and MMAS whose format block passes its checks and whose scales lie in the
grant, in a wave with every lane active, no incomplete MMA of which writes what they read, and a partition whose queue has
room, append one operation, with the scale bytes read, in issue order, to the queue and to the wave's open set, and change
nothing else of the wave but the PC; a format block that fails a check traps FMT_BAD, scales outside the grant PAGE_NP, a
partial mask ILL_CONV. R300, R301: MCLOSE gives the next batch number and moves the open set into that
batch; one with nothing outstanding before it completes at once. MWAIT on a number not yet given sets F; on a
completed one sets Z; else the wave waits for it. -/
def Obligations.MatrixIssueAndBatches : Prop :=
  (∀ (s : State) (a b c : BitVec 8) (fb : BitVec 6) (ta tb ovw : Bool) (mp mt : BitVec 3) (mq : BitVec 2) (cls : MClass),
     let w := s.wave
     let fmt := w.formatBlock fb
     let isTile := 0x58 ≤ a.toNat ∧ a.toNat < 0x58 + w.ntiles
     let opnds := w.opndOk b = true ∧ w.opndOk c = true
     let full := w.act = BitVec.allOnes 32
     let room := (s.mmas.filter fun m => decide (m.array = w.arrayNo)).length < 5
     let plainly := ¬ (fmt.fmta = 4 ∧ mq.toNat % 2 = 1)
     let reads : BitVec 8 → Nat → Prop := fun o d => MOpnd.frag o = false ∧ (MOpnd.tile o).toNat = d
     let apart : Bool → Prop := fun sparse => ∀ m ∈ s.mmas, m.wave = w.hdl →
       w.uiAct = false ∧ ¬ reads b m.d ∧ ¬ reads c m.d ∧ (sparse = true → m.d ≠ mt.toNat)
     let grant := match s.team w.team with
       | some t => t.units * 16384
       | none => 0
     let count : Bool → Nat → Nat := fun sparse blk =>
       if blk = 0 then 0 else 128 * ((if sparse then 2 else 1) * panelDepth fmt.fmta / (16 * 2 ^ blk))
     let within : Bool → Nat → Nat → Prop := fun sparse blk off => blk = 0 ∨ off + count sparse blk ≤ grant
     let scaled : Bool → Prop := fun sparse => within sparse fmt.blka fmt.sca ∧ within sparse fmt.blkb fmt.scb
     let bytes : Nat → Nat → List Byte := fun off n => (List.range n).map fun i => s.rawByte (2 ^ 70 + w.team * 2 ^ 22 + off + i)
     let issues : Instr → Bool → Prop := fun i sparse => ∃ (t : State) (m : Mma), exec i s = .next t ∧ t.mmas = s.mmas ++ [m] ∧
       t.wave = past 8 { w with openSet := w.openSet ++ [m.uid] } ∧ m.uid = s.uid ∧ m.wave = w.hdl ∧ m.array = w.arrayNo ∧
       m.d = a.toNat - 0x58 ∧ m.a = b ∧ m.b = c ∧ m.fmta = fmt.fmta ∧ m.fmtb = fmt.fmtb ∧ m.blka = fmt.blka ∧
       m.blkb = fmt.blkb ∧ m.isat = fmt.isat ∧ m.ta = ta ∧ m.tb = tb ∧ m.ovw = ovw ∧ m.sparse = sparse ∧
       (sparse = true → m.metaP = 8 * mt.toNat + mp.toNat ∧ m.mq = mq.toNat) ∧
       m.sa = bytes fmt.sca (count sparse fmt.blka) ∧ m.sb = bytes fmt.scb (count sparse fmt.blkb) ∧
       m.strike = none ∧ t.mem = s.mem ∧ t.waves = s.waves
     let bound : Instr → Nat → Prop := fun i off => exec i s = .next (s.takeTrap .pageNp 8 0xFF (BitVec.ofNat 64 off) w.pc)
     UnstruckIn s (upto 32) → isTile → opnds → mt.toNat < w.ntiles →
     (full → room → s.mxAlias = [] →
       (apart false → fmt.check false = some cls → scaled false → issues (.mma a b c fb ta tb ovw) false) ∧
       (apart true → plainly → fmt.check true = some cls → scaled true → issues (.mmas a b c fb ta tb ovw mp mt mq) true)) ∧
     (full → fmt.check false = some cls →
       (¬ within false fmt.blka fmt.sca → bound (.mma a b c fb ta tb ovw) fmt.sca) ∧
       (within false fmt.blka fmt.sca → ¬ within false fmt.blkb fmt.scb → bound (.mma a b c fb ta tb ovw) fmt.scb)) ∧
     (full → plainly → fmt.check true = some cls →
       (¬ within true fmt.blka fmt.sca → bound (.mmas a b c fb ta tb ovw mp mt mq) fmt.sca) ∧
       (within true fmt.blka fmt.sca → ¬ within true fmt.blkb fmt.scb → bound (.mmas a b c fb ta tb ovw mp mt mq) fmt.scb)) ∧
     (full → fmt.check false = none → exec (.mma a b c fb ta tb ovw) s = .next (s.trap .fmtBad)) ∧
     (full → plainly → fmt.check true = none → exec (.mmas a b c fb ta tb ovw mp mt mq) s = .next (s.trap .fmtBad)) ∧
     (¬ full → exec (.mma a b c fb ta tb ovw) s = .next (s.trap .illConv) ∧
       (plainly → exec (.mmas a b c fb ta tb ovw mp mt mq) s = .next (s.trap .illConv)))) ∧
  (∀ (s : State) (a b : BitVec 8),
     let w := s.wave
     let n := w.nb + 1#64
     let t := s.readU b
     let ahead := (t.toNat + 2 ^ 64 - w.nb.toNat) % 2 ^ 64
     let done := (w.mb.toNat + 2 ^ 64 - t.toNat) % 2 ^ 64 < 2 ^ 63
     let future := 1 ≤ ahead ∧ ahead < 2 ^ 63
     let runs : Nat → Prop := fun u => ∃ m ∈ s.mmas, m.uid = u
     let flags : Bool → Bool → Wave := fun f z => { w with
       cc := ccOf f false (w.cc.getLsbD 3) (w.cc.getLsbD 2) (w.cc.getLsbD 1) z }
     ((∀ u ∈ w.openSet, ¬ runs u) → w.batches = [] → exec (.mclose a) s =
       .next (withWave s (past 4 (toUniform a n { w with nb := n, mb := n, openSet := [] })))) ∧
     (w.openSet ≠ [] → (∀ u ∈ w.openSet, runs u) → (∀ e ∈ w.batches, e.2 ≠ []) → exec (.mclose a) s =
       .next (withWave s (past 4 (toUniform a n { w with nb := n, batches := w.batches ++ [(n, w.openSet)], openSet := [] })))) ∧
     (future → exec (.mwait b) s = .next (withWave s (past 4 (flags true false)))) ∧
     (¬ future → done → exec (.mwait b) s = .next (withWave s (past 4 (flags false true)))) ∧
     (¬ future → ¬ done → exec (.mwait b) s = .next (withWave s { w with
       st := .waiting, await := .batch t, due := false, since := s.clock.get w.die })))

/-- R310, R312, R313, R317, R320, R321: XCP, XCPM, XGAT and XCOLL of a wave of no pair whose core holds fewer than 32
requests. A request whose template, group, descriptor and parameter block pass is queued with what the wave named, F
is cleared and the wave goes on; any other sets F and starts nothing; with 32 requests the instruction does not issue.
R322, R319: the two forms of XTMPL whose image translates. A well-formed template, or a group that no running
multicast names, replaces its entry of the running grid's table and clears F; a malformed image sets F and changes nothing
else, and so does, by the model's choice (log entry 21; R322 is silent), the template form of a wave of no grid. -/
def Obligations.EngineInstructions : Prop :=
  (∀ (s u : State) (p tmpl grp v d : BitVec 8) (rlen : BitVec 12) (x : Slots) (l : List Byte),
     let w := s.wave
     let held := (s.engs.filter fun e => decide (e.core = w.coreNo)).length
     let s0 := afterWait s x
     let q : Nat → DWord := fun i => Sparse.get 0#64 w.s (p.toNat + i)
     let accepts : Instr → State → EngKind → Prop := fun i u k => exec i s = .next { u with
       wave := past 8 { withF false u.wave with slots := slotsSet x u.wave.slots },
       engs := u.engs ++ [⟨u.uid, k, w.hdl, w.proc, w.priv, w.team, w.die, w.coreNo, w.pc, s.iword.toNat / 2 ^ 24,
         q 0, q 1, q 2, q 3, false, [], [], [], false, none⟩],
       uid := u.uid + 1, work := u.work ++ [(.engineStart u.uid, {})] }
     let refuses : Instr → State → Prop := fun i u => exec i s = .next (withWave u (past 8 (withF true u.wave)))
     let counterOk := ctrAddrOk (q 2) = true ∧ (q 3).toNat < 2 ^ 63
     let srcOk := (placeOf w.team (q 0)).isSome = true
     let dstOk := (placeOf w.team (q 1)).isSome = true
     let t := s.templateOf tmpl.toNat
     let g := s.groupOf grp.toNat
     w.pair = none → s.strikes none = none → u.strikes none = none →
     (held < 32 →
       (∀ tm, t = some tm → counterOk → srcOk → dstOk → accepts (.xcp p tmpl x) s0 (.copy tm)) ∧
       (t = none ∨ ¬ counterOk ∨ ¬ srcOk ∨ ¬ dstOk → refuses (.xcp p tmpl x) s0) ∧
       (∀ tm gm tt, t = some tm → g = some gm → s.team w.team = some tt → counterOk → srcOk → q 1 = 0#64 →
         accepts (.xcpm p tmpl grp x) s0 (.multi tm gm grp.toNat tt.grid tt.ix tt.iy tt.iz)) ∧
       (t = none ∨ g = none ∨ ¬ counterOk ∨ ¬ srcOk ∨ q 1 ≠ 0#64 → refuses (.xcpm p tmpl grp x) s0) ∧
       (srcFits w 1 v → counterOk → (q 0).toNat < 2 ^ 56 → dstOk → accepts (.xgat p v rlen x) s0
         (.gather rlen.toNat ((lanesOf w.act).map (laneOf w v 1)))) ∧
       (srcFits w 1 v → ¬ counterOk ∨ 2 ^ 56 ≤ (q 0).toNat ∨ ¬ dstOk → refuses (.xgat p v rlen x) s0) ∧
       (s0.readImage w.die w.proc w.priv (s.readU d).toNat 64 = (u, .ok l) → u.poison = [] →
         (∀ k, parseColl l u.pkg w.die ((u.myProc.map (·.ckey)).getD 0#32) = some k → counterOk → srcOk → dstOk →
           u.collRuns w.die k = false → accepts (.xcoll p d x) u k) ∧
         (parseColl l u.pkg w.die ((u.myProc.map (·.ckey)).getD 0#32) = none → refuses (.xcoll p d x) u))) ∧
     (32 ≤ held → exec (.xcp p tmpl x) s = .next s ∧ exec (.xcpm p tmpl grp x) s = .next s ∧
       (srcFits w 1 v → exec (.xgat p v rlen x) s = .next s) ∧ exec (.xcoll p d x) s = .next s)) ∧
  (∀ (s u : State) (idx c : BitVec 8) (x : Slots) (l : List Byte) (tt : Team) (g : Grid),
     let w := s.wave
     let s0 := afterWait s x
     let va := (s.readU c).toNat
     let sets : Instr → (Grid → Grid) → Prop := fun i f => exec i s = .next { u with
       wave := past 8 { withF false u.wave with slots := slotsSet x u.wave.slots },
       grids := u.grids.map fun o => if o.uid = g.uid then f g else o }
     let refuses : Instr → Prop := fun i => exec i s = .next (withWave u (past 8 (withF true u.wave)))
     w.pair = none →
     (s0.readImage w.die w.proc w.priv va 32 = (u, .ok l) →
       (u.team u.wave.team = some tt → u.grid tt.grid = some g →
         (∀ t, parseTemplate l = some t → sets (.xtmplTmpl idx c x) fun g =>
           { g with templates := g.templates.filter (fun e => e.1 ≠ idx.toNat) ++ [(idx.toNat, t)] }) ∧
         (parseTemplate l = none → refuses (.xtmplTmpl idx c x))) ∧
       (u.team u.wave.team = none → refuses (.xtmplTmpl idx c x))) ∧
     (s0.readImage w.die w.proc w.priv va 256 = (u, .ok l) → u.team u.wave.team = some tt → u.grid tt.grid = some g →
       (∀ m, parseGroup l = some m → s.quiesced g.uid idx.toNat = true → sets (.xtmplGrp idx c x) fun g =>
         { g with groups := g.groups.filter (fun e => e.1 ≠ idx.toNat) ++ [(idx.toNat, m)] }) ∧
       (parseGroup l = none ∨ s.quiesced g.uid idx.toNat = false → refuses (.xtmplGrp idx c x))))

/-- R312, R314, R315, R111, R318: an engine request that no check failure strikes. A copy or a gather starts and its
completion is owed; the completion of a copy of one run within a team's scratchpad, between places that do not meet, makes its
destination equal to its source, adds its delta to its counter, and the request is gone. A delivery of a multicast's
member to a team's scratchpad does the same there and is recorded; after the last one the completion is owed, which adds to
the request's counter, or breaks it with the lowest member that failed. R311, R314, R320: a copy or gather of any runs, from and
to scratchpad and memory alike, whose places are reached and apart, makes every destination equal to its source. R315, R90: one
of whose runs some cannot be read leaves of the others' bytes what was there or what was copied, breaks its counter, and
holds the first failure. R321: a collective of the two dies of a package over their scratchpads gives each participant the
elements folded in rank order, its share of them, or all the contributions. An end counts the stall time of the waves that
a full queue held (R346; the model's bookkeeping, log entry 46), which changes nothing else of them. -/
def Obligations.EngineTransfers : Prop :=
  (∀ (s : State) (e : Eng) (t r : Team) (tm : Template) (mb : Member) (gm : List Member) (grp gr ix iy iz i : Nat),
     let off : DWord → Nat := fun a => a.toNat % 2 ^ 22
     let pad : DWord → Prop := fun a => a.toNat / 2 ^ 22 = 0x80 * 2 ^ 34
     let key : Team → Nat → Nat := fun t o => 2 ^ 70 + t.uid * 2 ^ 22 + o
     s.engs.find? (fun o => decide (o.uid = e.uid)) = some e → s.poison = [] → s.mxAlias = [] → e.broken = false →
     e.strike = none → s.upset = none → s.team e.team = some t → t.uid = e.team → tm.n1m = 0 → tm.n2m = 0 → pad e.src → off e.src + tm.len0 ≤ t.units * 16384 →
     ((e.kind = .copy tm ∨ ∃ n l, e.kind = .gather n l) → e.started = false → exec (.engineStart e.uid) s = .next { s with
         engs := s.engs.map (fun o => if o.uid = e.uid then { e with started := true, broken := false, targets := [] } else o),
         work := s.work ++ [(.engineCompletion e.uid, {})] }) ∧
     (e.kind = .copy tm → e.started = true → pad e.dst → pad e.ctr → off e.ctr % 8 = 0 → off e.dst + tm.len0 ≤ t.units * 16384 →
         off e.ctr + 8 ≤ t.units * 16384 → (off e.ctr + 8 ≤ off e.dst ∨ off e.dst + tm.len0 ≤ off e.ctr) →
         (off e.src + tm.len0 ≤ off e.dst ∨ off e.dst + tm.len0 ≤ off e.src) →
         ∃ u, exec (.engineCompletion e.uid) s = .next u ∧ u.engs = s.engs.filter (fun o => o.uid ≠ e.uid) ∧
           (∀ j < tm.len0, u.rawByte (key t (off e.dst) + j) = s.rawByte (key t (off e.src) + j)) ∧
           u.ctrValue (key t (off e.ctr)) = s.ctrValue (key t (off e.ctr)) + e.delta ∧
           (∀ k, (k < key t (off e.dst) ∨ key t (off e.dst) + tm.len0 ≤ k) →
             (k < key t (off e.ctr) ∨ key t (off e.ctr) + 8 ≤ k) → u.rawByte k = s.rawByte k) ∧ onlyStalled s u) ∧
     (e.kind = .multi tm gm grp gr ix iy iz → e.started = true → e.targets.find? (fun m => decide (m.1 = i)) = some (i, some r.uid) →
       s.team r.uid = some r → gm[i]? = some mb → e.done.contains i = false → e.failed.any (fun m => decide (m.1 = i)) = false →
       mb.ctr % 8 = 0 → mb.ctr + 8 ≤ r.units * 16384 → mb.dst + tm.len0 ≤ r.units * 16384 →
       (mb.ctr + 8 ≤ mb.dst ∨ mb.dst + tm.len0 ≤ mb.ctr) →
       (key t (off e.src) + tm.len0 ≤ key r mb.dst ∨ key r mb.dst + tm.len0 ≤ key t (off e.src)) →
       ∃ u, exec (.multicastMemberDelivery e.uid i) s = .next u ∧
         (∀ j < tm.len0, u.rawByte (key r mb.dst + j) = s.rawByte (key t (off e.src) + j)) ∧
         u.ctrValue (key r mb.ctr) = s.ctrValue (key r mb.ctr) + e.delta ∧
         (∀ o ∈ u.engs, o.uid = e.uid → o.done = e.done ++ [i]) ∧
         (e.done.length + 1 + e.failed.length = e.targets.length → (.engineCompletion e.uid, {}) ∈ u.work))) ∧
  (∀ (s : State) (e : Eng) (a b : Place) (sk dk : Nat → Nat) (ck : Nat) (cause : Nat → Option Nat) (tm : Template) (n : Nat)
     (l : List Nat),
     let runs : List (Int × Int × Nat) := match e.kind with
       | .copy tm => (List.range (tm.n2m + 1)).flatMap fun j => (List.range (tm.n1m + 1)).map fun i =>
           ((i : Int) * tm.ss1 + (j : Int) * tm.ss2, (i : Int) * tm.ds1 + (j : Int) * tm.ds2, tm.len0)
       | .gather n l => (List.range l.length).map fun i =>
           (((l.getD i 0 * (16 * (n + 1)) : Nat) : Int), ((i * (16 * (n + 1)) : Nat) : Int), 16 * (n + 1))
       | _ => []
     let so : Nat → Int := fun i => (runs.getD i (0, 0, 0)).1
     let dof : Nat → Int := fun i => (runs.getD i (0, 0, 0)).2.1
     let len : Nat → Nat := fun i => (runs.getD i (0, 0, 0)).2.2
     let reads : Nat → Prop := fun i => ∃ ty, s.engReach e a (so i) (len i) .load = (s, .ok ⟨sk i, ty, len i⟩) ∧ ty ≠ 2 ∧
       (ty = 1 → isSpKey (dk i) = false) ∧ isDevKey (sk i) = false
     let writes : Nat → Prop := fun i => ∃ ty, s.engReach e b (dof i) (len i) .store = (s, .ok ⟨dk i, ty, len i⟩) ∧ ty ≠ 1 ∧
       isDevKey (dk i) = false
     let away : Nat → Nat → Nat → Nat → Prop := fun k n j m => k + n ≤ j ∨ j + m ≤ k
     let outside : Nat → Prop := fun k => ∀ i < runs.length, cause i = none → away k 1 (dk i) (len i)
     let addr : Nat → DWord := fun i => match a with
       | .virt va => va + BitVec.ofInt 64 (so i)
       | .pad _ o => BitVec.ofNat 64 (0x80 * 2 ^ 56 + ((o : Int) + so i).toNat % 2 ^ 22)
     let ends : (State → Prop) → Prop := fun p => ∃ u, exec (.engineCompletion e.uid) s = .next u ∧
       u.engs = s.engs.filter (fun o => o.uid ≠ e.uid) ∧ onlyStalled s u ∧ p u
     let breaks : DWord → Nat → Nat → State → Prop := fun addr c mem u => u.ctrValue ck = s.ctrValue ck ∧
       u.ctrStatus ck = .faulted ∧ u.engRecords = s.engRecords ++ [⟨ck, e.ctr, e.proc, e.die, e.pc, e.wave, addr,
         (match e.kind with
          | .gather _ _ => 3
          | _ => 1), c, mem⟩]
     (∀ team off, off < 2 ^ 22 → placeOf team (BitVec.ofNat 64 (0x80 * 2 ^ 56 + off)) = some (.pad team off) ∧
       ∀ t o k, 0 < n → s.team team = some t → 0 ≤ (off : Int) + o → ((off : Int) + o).toNat + n ≤ t.units * 16384 →
         s.engReach e (.pad team off) o n k = (s, .ok ⟨2 ^ 70 + team * 2 ^ 22 + ((off : Int) + o).toNat, 0, n⟩)) ∧
     (∀ team va, va < 2 ^ 56 → placeOf team (BitVec.ofNat 64 va) = some (.virt (BitVec.ofNat 64 va))) ∧
     (s.engs.find? (fun o => decide (o.uid = e.uid)) = some e → e.started = true → e.broken = false → s.poison = [] →
       s.mxAlias = [] → (∀ x ∈ s.waiters, x.key ≠ ck) → s.ctrTarget e.die e.proc e.priv e.team e.ctr = (s, .ok ck) →
       (e.kind = .copy tm ∨ e.kind = .gather n l → placeOf e.team e.src = some a → placeOf e.team e.dst = some b →
         (∀ i < runs.length, 0 < len i ∧ (cause i = none → reads i ∧ writes i ∧ away ck 8 (dk i) (len i) ∧
             ∀ j < runs.length, cause j = none → away (dk i) (len i) (sk j) (len j) ∧
               (j ≠ i → away (dk i) (len i) (dk j) (len j))) ∧
           ∀ c, cause i = some c → s.engReach e a (so i) (len i) .load = (s, .error (c, len i))) →
         ((∀ i < runs.length, cause i = none) → ends fun u =>
           (∀ i < runs.length, ∀ j < len i, u.rawByte (dk i + j) = s.rawByte (sk i + j)) ∧
           u.ctrValue ck = s.ctrValue ck + e.delta ∧
           ∀ k, outside k → (k < ck ∨ ck + 8 ≤ k) → u.rawByte k = s.rawByte k) ∧
         (∀ f c, f < runs.length → cause f = some c → (∀ i < f, cause i = none) → ends fun u =>
           breaks (addr f) c 0xFF u ∧ (∀ k, outside k → u.rawByte k = s.rawByte k) ∧
           ∀ i < runs.length, cause i = none → ∀ j < len i,
             u.rawByte (dk i + j) = s.rawByte (sk i + j) ∨ u.rawByte (dk i + j) = s.rawByte (dk i + j))) ∧
       ((∃ g grp gr x y z, e.kind = .multi tm g grp gr x y z) → e.done.length + e.failed.length = e.targets.length →
         (e.failed = [] → ends fun u => u.ctrValue ck = s.ctrValue ck + e.delta) ∧
         (∀ f ∈ e.failed, (∀ g ∈ e.failed, g ≠ f → f.1 < g.1) → ends fun u => breaks f.2 12 f.1 u ∧ u.mem = s.mem)))) ∧
  (∀ (s : State) (e p q : Eng) (tp tq : Team) (kind op ety count : Nat) (cid : DWord) (members : BitVec 256) (ckey : Word),
     let z := if ety = 9 ∨ ety = 10 then 2 else 4
     let n := count * z
     let m := if kind = 1 then n / 2 else if kind = 2 then 2 * n else n
     let off : DWord → Nat := fun a => a.toNat % 2 ^ 22
     let key : Team → DWord → Nat := fun t a => 2 ^ 70 + t.uid * 2 ^ 22 + off a
     let pads : Eng → Team → Prop := fun x t => s.team x.team = some t ∧ t.uid = x.team ∧ x.started = true ∧ x.broken = false ∧
       off x.src + n ≤ t.units * 16384 ∧ off x.dst + m ≤ t.units * 16384 ∧ off x.ctr + 8 ≤ t.units * 16384 ∧ off x.ctr % 8 = 0 ∧
       ∀ a ∈ [x.src, x.dst, x.ctr], a.toNat / 2 ^ 22 = 0x80 * 2 ^ 34
     let away : Nat → Nat → Nat → Nat → Prop := fun k n j m => k + n ≤ j ∨ j + m ≤ k
     let ty : EType := match ety with
       | 0 => .i32
       | 1 => .n32
       | 8 => .f32
       | 9 => .f16
       | _ => .bf16
     let fold : Nat → Nat → Nat := fun x y =>
       if ty.isFloat then
         let v := ty.fmt.decode x
         let u := ty.fmt.decode y
         ty.fmt.round Rnd.rne (if op = 0 then FVal.add false v u else if op = 1 then FVal.minNum v u else FVal.maxNum v u)
       else if op = 0 then (x + y) % 2 ^ 32
       else if op = 1 then (if ty.toInt x ≤ ty.toInt y then x else y)
       else if ty.toInt x ≤ ty.toInt y then y else x
     let elem : Nat → Nat → Nat := fun k i => s.rawNat (k + z * i) z
     (e = p ∨ e = q) → s.engs.find? (fun o => decide (o.uid = e.uid)) = some e → p.uid ≠ q.uid → s.inp.ok = true →
     s.poison = [] → s.mxAlias = [] → p.die = 0 → q.die = 1 → kind < 3 → op < 3 → [0, 1, 8, 9, 10].contains ety →
     (kind = 1 → count % 2 = 0) → p.kind = .coll kind op ety count cid members ckey 0 →
     q.kind = .coll kind op ety count cid members ckey 1 → (∀ i < 256, members.getLsbD i = decide (i / 2 = s.pkg)) →
     s.pkg < 128 → (s.joined cid ckey = [p, q] ∨ s.joined cid ckey = [q, p]) → pads p tp → pads q tq →
     away (key tp p.dst) m (key tq q.dst) m → away (key tp p.ctr) 8 (key tq q.ctr) 8 →
     (∀ d ∈ [key tp p.dst, key tq q.dst], (∀ k ∈ [key tp p.src, key tq q.src], away d m k n) ∧
       ∀ k ∈ [key tp p.ctr, key tq q.ctr], away d m k 8) →
     ∃ u, exec (.engineCompletion e.uid) s = .next u ∧ (∀ o ∈ u.engs, o.uid ≠ p.uid ∧ o.uid ≠ q.uid) ∧
       u.ctrValue (key tp p.ctr) = s.ctrValue (key tp p.ctr) + p.delta ∧
       u.ctrValue (key tq q.ctr) = s.ctrValue (key tq q.ctr) + q.delta ∧
       (∀ r d, (r = 0 ∧ d = key tp p.dst ∨ r = 1 ∧ d = key tq q.dst) →
         (kind = 0 → ∀ i < count, u.rawNat (d + z * i) z = fold (elem (key tp p.src) i) (elem (key tq q.src) i)) ∧
         (kind = 1 → ∀ i < count / 2, u.rawNat (d + z * i) z =
           fold (elem (key tp p.src) (r * (count / 2) + i)) (elem (key tq q.src) (r * (count / 2) + i))) ∧
         (kind = 2 → ∀ i < n, u.rawByte (d + i) = s.rawByte (key tp p.src + i) ∧
           u.rawByte (d + n + i) = s.rawByte (key tq q.src + i))) ∧
       ∀ k, (∀ d ∈ [key tp p.dst, key tq q.dst], away k 1 d m) → (∀ c ∈ [key tp p.ctr, key tq q.ctr], away k 1 c 8) →
         u.rawByte k = s.rawByte k)

/-- R146, R147, R262: REGRP whose operands are illegal traps ILL_RSVD; with MMAs outstanding, or with no partner and a
window of 0, the wave goes on with F set; with no partner and a window it waits until the window ends, when it goes on
with F set; every register stays. R146, R147, R148: a wave that arrives at REGRP where one wave waits with which it
fuses. The wave of the lower team index goes on behind its REGRP with F clear and its lanes packed: its k0 has as many
low bits as both had active lanes, and its uniform registers stay; of every block that either mask names, and of every k
register and thread id, a position holds what the lane packed there held, a spare position 0 or the id of R148; the other wave
leaves the machine. The ns at which a window of aclk ends, rounded up, is the model's choice (log entry 1). -/
def Obligations.Regrouping : Prop :=
  (∀ (s : State) (b c : BitVec 8) (mask : Word) (e : Nat), s.wave.hdl ≠ 0#32 → UnstruckIn s s.wave.lanes →
     let w := s.wave
     let m := (s.readU b).toNat
     let win := (s.readU c).toNat
     let now := s.clock.get w.die
     let legal := m < 2 ^ 30 ∧ win < 2 ^ 20 ∧ m < 2 ^ w.vblk
     let alone := ∀ o ∈ s.waves, o.team ≠ w.team
     let ends := now + (win * 1000 + 939) / 940
     (¬ legal → exec (.regrp b c) s = .next (s.trap .illRsvd)) ∧
     (legal → (w.openSet ≠ [] ∨ w.batches ≠ []) → exec (.regrp b c) s = .next (withWave s (past 4 (withF true w)))) ∧
     (legal → w.openSet = [] → w.batches = [] → alone → win = 0 → exec (.regrp b c) s = .next (withWave s
       { past 4 (withF true w) with slots := 0#8, st := .resident, await := .nothing, since := now })) ∧
     (legal → w.openSet = [] → w.batches = [] → alone → 0 < win → exec (.regrp b c) s = .next (withWave s
       { w with slots := 0#8, await := .partner (BitVec.ofNat 32 m) ends, st := .waiting, due := false, since := now })) ∧
     (w.await = .partner mask e → w.st = .waiting → w.halted = false → e ≤ now →
       exec (.regrpWindowExpiry w.hdl) s = .next (withWave s
         { past 4 (withF true w) with st := .resident, await := .nothing, since := now }))) ∧
  (∀ (s : State) (b c : BitVec 8) (o : Wave) (m : Word) (e : Nat), s.wave.hdl ≠ 0#32 → UnstruckIn s s.wave.lanes →
     let w := s.wave
     s.waves = [o] → o.hdl ≠ w.hdl → o.hdl ≠ 0#32 → o.st = .waiting → o.await = .partner m e → o.pair = none → w.pair = none →
     s.clock.get o.die < e → o.team = w.team → o.pc = w.pc → o.codever = w.codever → o.consumer = w.consumer → w.widx < o.widx →
     (lanesOf w.act).length + (lanesOf o.act).length ≤ 32 → w.openSet = [] → w.batches = [] →
     (s.readU b).toNat < 2 ^ 30 → (s.readU b).toNat < 2 ^ w.vblk → (s.readU c).toNat < 2 ^ 20 →
     ∃ t, exec (.regrp b c) s = .next t ∧ t.waves = [] ∧ t.wave.hdl = w.hdl ∧ t.wave.pc = w.pc + 4#64 ∧
       t.wave.cc.getLsbD 5 = false ∧ t.wave.s = w.s ∧ t.wave.x = w.x ∧ t.wave.tile = w.tile ∧ t.wave.mode = w.mode ∧
       (∀ i < 32, (Sparse.get 0#32 t.wave.k 0).getLsbD i =
         decide (i < (lanesOf w.act).length + (lanesOf o.act).length)) ∧
       t.wave.slots = 0#8 ∧
       let na := (lanesOf w.act).length
       let nb := (lanesOf o.act).length
       let from_ : Nat → Wave × Nat := fun p => if p < na then (w, (lanesOf w.act).getD p 0) else (o, (lanesOf o.act).getD (p - na) 0)
       ∀ p < 32,
         (∀ r, t.wave.getV r p =
           if r < 240 ∧ ((s.readU b).toNat.testBit (r / 8) = true ∨ m.getLsbD (r / 8) = true) then
             (if p < na + nb then (from_ p).1.getV r (from_ p).2 else 0#32)
           else w.getV r p) ∧
         (∀ j < 8, (t.wave.getK j).getLsbD p = (decide (p < na + nb) && ((from_ p).1.getK j).getLsbD (from_ p).2)) ∧
         t.wave.threadId p = if p < na + nb then (from_ p).1.threadId (from_ p).2 else BitVec.ofNat 32 (0x400 + 32 * w.widx + p))

/-- R153, R325, R332, R335: WSNEW and TMNEW by a wave of no pair with nothing to write back, a free handle and a quota that is not
used up: the object is appended and its handle is the reply, with F clear; without a handle, the quota or room they trap
OBJ_QUOTA. R329, R158, R406: PNEW is refused for the reasons 1, 2 and 5 in their order, traps OBJ_QUOTA the same way, and
else appends a port with its ring, its grant window and its name; one that the host may send to takes the lowest free unit
of the command window and enters its directory. R327: CRGRID answers the reasons 2, 1, 6, 3, 4 and 5 in their order, or
appends a grid. Where a ring stands in the pool is the model's choice (log entry 46). -/
def Obligations.ObjectCreation : Prop :=
  (∀ (s u : State) (a b c : BitVec 8) (x : Slots) (h : Handle),
    let w := s.wave
    let s0 := afterWait s x
    let attr := (s.readU b).toNat
    let gwin := (s.readU c).toNat
    let dlog := attr % 16
    let opn := attr / 16 % 4
    let slots := attr / 64
    let depth := 64 * 2 ^ dlog
    let quota : Instr → Prop := fun i => exec i s = .next (s0.trap .objQuota)
    let used : Nat → Nat → Prop := fun die n => ∃ p ∈ s.ports, hDie p.hdl = die ∧ p.cwUnit = n
    let lowest : Nat → Nat → Prop := fun die n => 1 ≤ n ∧ n ≤ 255 ∧ ¬ used die n ∧ ∀ m, 1 ≤ m → m < n → used die m
    let sound := attr < 2 ^ 15 ∧ 4 ≤ dlog ∧ dlog ≤ 12 ∧ slots ≤ 256 ∧ (opn = 3 → ∃ n, lowest w.die n)
    let window := gwin % 65536 = 0 ∧ 65536 ≤ gwin ∧ gwin + 65536 * slots ≤ 2 ^ 55 ∧
      ∀ i < slots, ∀ y, s.walk w.proc (gwin + 65536 * i) ≠ .ok y
    let listed := ∃ p, s.proc w.proc = some p ∧ p.flist ≠ 0#64
    let refused : Nat → Prop := fun r => exec (.pnew a b c x) s = .next (withWave s (replied s0 x a (BitVec.ofNat 64 r) true))
    let fits := sound ∧ (slots = 0 ∨ (window ∧ listed))
    let takes := if opn = 3 then 0 else depth
    let name := BitVec.ofNat 64 (u.pkg * 2 ^ 28 + h.toNat % 2 ^ 28)
    let port : Nat → Nat → Port := fun n ring =>
      ⟨h, w.proc, dlog, opn, if slots = 0 then 0#64 else s.readU c, slots, .plain, n, ring, 0, [], [], false, []⟩
    let made : State → Port → Prop := fun t p => exec (.pnew a b c x) s = .next t ∧ t.ports = u.ports ++ [p] ∧
      t.wave = replied (withWave u { u.wave with s := Sparse.put 0#64 u.wave.s (a.toNat + 1) name }) x a (h.setWidth 64) false
    Quiet s →
    (s.newHandle 4 w.die = none → quota (.wsnew a x)) ∧
    (s.newHandle 5 w.die = none → quota (.tmnew a x)) ∧
    (s.newHandle 4 w.die = some h →
      (s.mayCreate w.proc 4 w.die 1 (8 * Config.spillBytes) = true → exec (.wsnew a x) s = .next { s0 with
        wave := replied s0 x a (h.setWidth 64) false, sets := s.sets ++ [⟨h, w.proc, [], 0#32, [], []⟩] }) ∧
      (s.mayCreate w.proc 4 w.die 1 (8 * Config.spillBytes) = false → quota (.wsnew a x))) ∧
    (s.newHandle 5 w.die = some h →
      (s.mayCreate w.proc 5 w.die 1 0 = false ∨ s0.newPair w.proc h = none → quota (.tmnew a x)) ∧
      (s.mayCreate w.proc 5 w.die 1 0 = true → s0.newPair w.proc h = some u → exec (.tmnew a x) s = .next { u with
        wave := replied u x a (h.setWidth 64) false, timers := u.timers ++ [⟨h, w.proc, false, 0#64, 0#64⟩] })) ∧
    (¬ sound → refused 1) ∧ (sound → slots ≠ 0 → ¬ window → refused 2) ∧
    (sound → slots ≠ 0 → window → ¬ listed → refused 5) ∧
    (fits → s.newHandle 3 w.die = none → quota (.pnew a b c x)) ∧
    (fits → s.newHandle 3 w.die = some h →
      (s.mayCreate w.proc 3 w.die 1 takes = false ∨ s0.newPair w.proc h = none → quota (.pnew a b c x)) ∧
      (s.mayCreate w.proc 3 w.die 1 takes = true → s0.newPair w.proc h = some u →
        (opn ≠ 3 → u.poolTake (hDie h) depth = none → quota (.pnew a b c x)) ∧
        (opn ≠ 3 → ∀ ring, u.poolTake (hDie h) depth = some ring → ∃ t, made t (port 0 ring) ∧ t.mem = u.mem) ∧
        (opn = 3 → ∀ n, lowest (hDie h) n → ∃ t,
          let entry := u.pairKey w.proc h * 2 ^ 64 + dlog * 2 ^ 36 + 2 ^ 35 + name.toNat % 2 ^ 35
          let at_ := reservedBase (hDie h) + 0x10000000 + 16 * n
          made t (port n (reservedBase (hDie h) + 0x10000000 + 0x40000 * n)) ∧
            (∀ i < 16, t.rawByte (at_ + i) = BitVec.ofNat 8 (entry / 256 ^ i)) ∧
            ∀ k, k < at_ ∨ at_ + 16 ≤ k → t.rawByte k = u.rawByte k)))) ∧
  (∀ (s u : State) (a b : BitVec 8) (x : Slots) (l : List Byte) (e : Cause) (cv : CodeVer) (k : KernelNote),
    let w := s.wave
    let s0 := afterWait s x
    let image := s0.readImage w.die w.proc w.priv (s.readU b).toNat 256
    let refused : Nat → Prop := fun r =>
      exec (.crgrid a b x) s = .next { u with wave := replied u x a (BitVec.ofNat 64 r) true }
    let gx := natAt l 12 4
    let gy := natAt l 16 2
    let gz := natAt l 18 2
    let formed := 1 ≤ gx ∧ gx < 2 ^ 31 ∧ 1 ≤ gy ∧ 1 ≤ gz ∧ gx * gy * gz ≤ 2 ^ 40 ∧ natAt l 20 1 ≤ 2 ∧ natAt l 21 1 < 2 ∧
      natAt l 22 10 = 0 ∧ natAt l 48 80 = 0
    let code : Handle := BitVec.ofNat 32 (natAt l 8 4)
    let live := code = 0#32 ∨ ∃ v ∈ u.codes, v.hdl = code ∧ v.proc = w.proc ∧ v.withdrawn = false
    let allowed := natAt l 21 1 = 1 → w.priv = true
    let bound : LaunchPart → Option CodeVer := u.launchVersion w.proc w.codever
    let isKernel : KernelNote → Prop := fun k => k.addr = BitVec.ofNat 64 (natAt l 0 8)
    Quiet s →
    (image = (u, .error e) → refused 2) ∧
    (image = (u, .ok l) → ¬ formed → refused 1) ∧
    (image = (u, .ok l) → formed → ¬ live → refused 6) ∧
    (image = (u, .ok l) → formed → live → ¬ allowed → refused 3) ∧
    (image = (u, .ok l) → formed → live → allowed → ∃ pl, parseLaunch l = some pl ∧
      (bound pl = none → refused 4) ∧
      (bound pl = some cv → (∀ k ∈ cv.kernels, ¬ isKernel k) → refused 4) ∧
      (bound pl = some cv → cv.kernels.find? (fun k => decide (k.addr = pl.kernel)) = some k → isKernel k ∧
        (holdable k = false ∨ u.quotaOf w.proc 2 < k.waves → refused 5) ∧
        (holdable k = true → k.waves ≤ u.quotaOf w.proc 2 → cv.sealed = true → cv.ready ≤ u.clock.get w.die →
          ∃ t, exec (.crgrid a b x) s = .next t ∧ t.wave = replied u x a 0#64 false ∧ t.mem = u.mem ∧ t.waves = u.waves ∧
            ∃ g : Grid, t.grids = u.grids ++ [g] ∧ g.uid = u.uid ∧ g.proc = w.proc ∧ g.die = w.die ∧ g.kernel = k ∧
              g.codever = cv.hdl ∧ (g.gx, g.gy, g.gz) = (gx, gy, gz) ∧ g.curve = natAt l 20 1 ∧
              g.doneCtr.toNat = natAt l 32 8 ∧ g.args.toNat = natAt l 40 8 ∧ (g.priv = true ↔ natAt l 21 1 = 1) ∧
              g.arrival = 0 ∧ g.placed = 0))))

/-- R156, R326, R328: CRWAVE whose descriptor passes creates a wave bound to the version that it names or the caller's, with
the registers of R328 and those of the descriptor, and answers its handle; its forms for a process, which are privileged,
create a process whose parent is the caller's with its first wave, and rewrite a process's attributes. -/
def Obligations.WaveAndProcessCreation : Prop :=
  ∀ (s u : State) (a b c : BitVec 8) (x : Slots) (h ph : Handle) (p : WavePart) (q : ProcPart) (cv : CodeVer) (l : List Byte),
    let w := s.wave
    let s0 := afterWait s x
    let va := (s.readU b).toNat
    let born : State → Handle → Prop := fun t proc => ∃ n ∈ t.waves, n.hdl = h ∧ n.proc = proc ∧
      n.codever = cv.hdl ∧ n.pc.toNat = natAt l 0 8 ∧ n.basePri = natAt l 12 1 ∧ n.vblk = natAt l 13 1 ∧
      n.ntiles = natAt l 14 1 ∧ n.xctr.toNat = natAt l 24 8 ∧ (∀ i < 8, (n.getS i).toNat = natAt l (32 + 8 * i) 8) ∧
      (∀ i, 8 ≤ i → n.getS i = 0#64) ∧ (∀ i, n.getK i = if i = 0 then 0xFFFFFFFF#32 else 0#32) ∧ n.v = [] ∧ n.x = [] ∧
      n.tile = [] ∧ n.mode = 0x40#32 ∧ n.cc = 0#6 ∧ ∀ i < 32, n.threadId i = BitVec.ofNat 32 i
    Quiet s →
    (s0.readImage w.die w.proc w.priv va 128 = (u, .ok l) → parseWave l = some p → u.waveVersion p = .ok (some cv) →
      cv.sealed = true → cv.ready ≤ u.clock.get w.die → u.newHandle 2 w.die = some h →
      u.mayCreate w.proc 2 w.die 1 (imageSize p.vblk p.tiles) = true →
      (∃ ctx rest, u.imagesFor w.die [imageSize p.vblk p.tiles] = some (ctx :: rest)) → h ≠ w.hdl → ∃ t, exec (.crwave a b x) s = .next t ∧ t.wave = replied u x a (h.setWidth 64) false ∧ born t w.proc) ∧
    (w.priv = false → exec (.crwaveProc a b x) s = .next (s0.trap .illPriv) ∧
      exec (.crwaveAttr a b c x) s = .next (s0.trap .illPriv)) ∧
    (w.priv = true → s0.readImage w.die w.proc w.priv va 192 = (u, .ok l) → parseWave l = some p →
      parseProc (l.drop 128) = some q → q.fport = 0#32 → u.waveVersion p = .ok (some cv) → cv.sealed = true →
      cv.ready ≤ u.clock.get w.die → u.newHandle 1 w.die = some ph →
      (∀ v : State, (∃ n : Proc, v = { u with procs := u.procs ++ [n] } ∧ n.hdl = ph ∧ n.quota = q.quota ∧ n.ocFrames = []) →
        v.newHandle 2 w.die = some h ∧ v.mayCreate ph 2 w.die 1 (imageSize p.vblk p.tiles) = true ∧
          ∃ ctx rest, v.imagesFor w.die [imageSize p.vblk p.tiles] = some (ctx :: rest)) → h ≠ w.hdl →
      ∃ t, exec (.crwaveProc a b x) s = .next t ∧ t.wave = replied u x a (h.setWidth 64) false ∧ born t ph ∧
        ∃ n : Proc, t.procs = u.procs ++ [n] ∧ n.hdl = ph ∧ n.parent = w.proc ∧ n.ptroot.toNat = natAt (l.drop 128) 0 8 ∧
          n.dlease = natAt (l.drop 128) 8 1 ∧ n.fport = 0#32 ∧ n.ckey.toNat = natAt (l.drop 128) 52 4) ∧
    (w.priv = true → s.names1 1 (s.handleIn c) = true → s0.readImage w.die w.proc w.priv va 64 = (u, .ok l) →
      parseProc l = some q → q.fport = 0#32 → (∀ n ∈ u.procs, n.hdl = s.handleIn c → n.ocFrames = []) →
      ∃ t, exec (.crwaveAttr a b c x) s = .next t ∧ t.wave = replied u x a 0#64 false ∧ t.mem = u.mem ∧
        ∀ n ∈ t.procs, n.hdl = s.handleIn c → n.ptroot = q.ptroot ∧ n.dlease = q.dlease ∧ n.fport = 0#32 ∧
          n.ocbase = q.ocbase ∧ n.flist = q.flist ∧ n.quota = q.quota ∧ n.ckey = q.ckey)

/-- R330, R162, R163, R331: PSEND to a port that refuses nothing, without grants, admits the message: it is under way with
the sender's handle in its header, and the reply is 0; a message that has no earlier one before it lands as the last of
its port; PRECV and its `try` form take the oldest message into eight registers; of an empty port the first waits and the
other sets F. -/
def Obligations.Messages : Prop :=
  ∀ (s : State) (a b c : BitVec 8) (x : Slots) (o : OrdExt) (p : Port) (m : Landed) (rest : List Landed) (f : Flight),
    let w := s.wave
    let s0 := afterWait s x
    let r0 := afterWait s o.slots
    let name := s.readU b
    let msg := w.block64 c
    let home := s.homeOf name
    let h : Handle := (s.readU b).setWidth 32
    Quiet s → s.poison = [] → s.mxAlias = [] →
    (s.sendReason home msg = 0 → natAt msg 13 1 % 8 = 0 → home.pkg = s.pkg →
      ∃ (t : State) (g : Flight), exec (.psend a b c x) s = .next t ∧ t.wave = replied s0 x a 0#64 false ∧ t.mem = s.mem ∧
        t.flights = s.flights ++ [g] ∧ g.sender = w.hdl ∧ g.sproc = w.proc ∧ g.cls = home.cls ∧ g.grants = [] ∧
        g.sent = s.clock.get w.die ∧ natAt g.bytes 8 4 = w.hdl.toNat ∧ natAt g.bytes 0 8 = natAt msg 0 8 ∧
        natAt g.bytes 16 48 = natAt msg 16 48) ∧
    (s.sendReason home msg ≠ 0 → exec (.psend a b c x) s = .next (withWave s
      (replied s0 x a (BitVec.ofNat 64 (s.sendReason home msg)) true))) ∧
    (s.names1 3 h = true → s.port h = some p → s.receiver h = none →
      (p.msgs = [] → exec (.precvTry a b o) s = .next (withWave s (ended r0 o.slots true)) ∧
        exec (.precv a b o) s = .next (withWave s { r0.wave with
          st := .waiting, await := .message h a ((o.order == .acq || o.order == .acqrel) && wide o.scope) (s.clock.get (hDie h)), due := false,
          since := s.clock.get w.die })) ∧
      (p.msgs = m :: rest →
        ∃ t, (exec (.precv a b o) s = .next t ∧ exec (.precvTry a b o) s = .next t) ∧ t.wave.pc = w.pc + 8#64 ∧
          t.wave.cc.getLsbD 5 = false ∧ t.wave.v = w.v ∧ t.wave.k = w.k ∧
          (∀ i < 8, t.wave.getS (a.toNat + i) = s.rawDWord (p.ring + 64 * m.slot + 8 * i)) ∧
          (∀ i, i < a.toNat ∨ a.toNat + 8 ≤ i → t.wave.getS i = w.getS i) ∧
          ∀ q ∈ t.ports, q.hdl = h → q.msgs = rest)) ∧
    (f.uid ≠ 0 → s.flights = [f] → f.pkg = s.pkg → f.grants = [] → f.port = p.hdl → s.port p.hdl = some p →
      f.bytes.length = 64 → s.clock.get (hDie p.hdl) ≤ f.sent + classBound f.cls →
      let count := s.arrivalKey p
      let slot := p.ring + 64 * ((s.ctrValue count).toNat % 2 ^ p.dlog)
      (count + 8 ≤ slot ∨ slot + 64 ≤ count) →
      ∃ t, exec (.messageLanding f.uid) s = .next t ∧ t.flights = [] ∧ t.wave = w ∧ t.waves = s.waves ∧
        (∀ i < 64, t.rawByte (slot + i) = f.bytes.getD i 0#8) ∧ t.ctrValue count = s.ctrValue count + 1#64 ∧
        ∀ q ∈ t.ports, q.hdl = p.hdl → ∃ r ∈ s.ports, r.hdl = p.hdl ∧ ∃ d : Landed, q.msgs = r.msgs ++ [d] ∧ d.sender = f.sender)

/-- R169, R335, R166, R336, R333: TMARM arms a timer at a deadline, or after a time, with a period that is legal, else
sets F; TMSTOP disarms one and tells by F whether it was disarmed; an expiry adds 1 to its counter and moves its
deadline by the period; NMREG registers a name once, its deletion removes it, NMFIND answers it; the forms of WSSET
write a member; a handle of another type or owner traps OBJ_BAD. R167, R168, R334: WSWAIT on a set whose members show
nothing registers one waiter for each and waits; on one with a member reached or broken it reports at once, the
broken, the reached and the lowest of them, with Z and B and F clear; an empty set, or one with a waiter, sets F. -/
def Obligations.TimersNamesAndWaitSets : Prop :=
  (∀ (s : State) (a b c : BitVec 8) (x : Slots) (member : BitVec 3) (after inpkg : Bool) (t : Timer) (k : Nat),
     let w := s.wave
     let s0 := afterWait s x
     let ha : Handle := (s.readU a).setWidth 32
     let hb : Handle := (s.readU b).setWidth 32
     let per := (s.readU c).toNat
     let dl := s.readU b + (if after then BitVec.ofNat 64 (s.clock.get (hDie ha)) else 0#64)
     let ends : Instr → State → Bool → Prop := fun i t bad => exec i s = .next { t with wave := ended s0 x bad }
     let timers : (Timer → Timer) → State := fun f =>
       { s with timers := s.timers.map fun t => if t.hdl = ha then f t else t }
     let mine : Nat × DWord × DWord → Bool := fun e => decide (e.1 = w.die) && decide (e.2.1 = s.readU a)
     let writes : Option SetMember → State := fun v => { s with sets := s.sets.map fun q =>
       if q.hdl = ha then { q with members := q.members.filter (fun e => e.1 < member.toNat) ++
         (v.toList.map fun v => (member.toNat, v)) ++ q.members.filter fun e => member.toNat < e.1 } else q }
     w.pair = none →
     (s.names1 5 ha = true →
       (per = 0 ∨ 1000 ≤ per ∧ per ≤ 2 ^ 40 → ends (.tmarm a b c after x)
         (timers fun t => { t with armed := true, deadline := dl, period := s.readU c }) false) ∧
       (per ≠ 0 → per < 1000 ∨ 2 ^ 40 < per → ends (.tmarm a b c after x) s true) ∧
       ends (.tmstop a x) (timers fun t => { t with armed := false })
         (!(s.timers.any fun t => decide (t.hdl = ha) && t.armed))) ∧
     (s.names1 5 ha = false → exec (.tmarm a b c after x) s = .next (s0.trap .objBad) ∧
       exec (.tmstop a x) s = .next (s0.trap .objBad)) ∧
     (s.timer t.hdl = some t → t.armed = true → t.deadline.toNat ≤ s.clock.get (hDie t.hdl) → s.poison = [] → s.mxAlias = [] →
       let key := s.pairKey t.proc t.hdl
       ∃ u, exec (.timerExpiry t.hdl) s = .next u ∧ u.ctrValue key = s.ctrValue key + 1#64 ∧ u.wave = w ∧
         ∀ r ∈ u.timers, r.hdl = t.hdl → ∃ o ∈ s.timers, o.hdl = t.hdl ∧ o.period = r.period ∧
           if r.period = 0#64 then r.armed = false else r.deadline = o.deadline + r.period) ∧
     (s.names1 3 hb = true → (s.names.filter fun e => decide (e.1 = w.die)).length < 65536 →
       (s.names.any mine = false → ends (.nmreg a b x) { s with names := s.names ++
         [(w.die, s.readU a, BitVec.ofNat 64 (s.pkg * 2 ^ 28 + hb.toNat % 2 ^ 28))] } false) ∧
       (s.names.any mine = true → ends (.nmreg a b x) s true) ∧
       (s.names.any mine = true → ends (.nmregDel a b x) { s with names := s.names.filter fun e => !mine e } false) ∧
       (s.names.any mine = false → ends (.nmregDel a b x) s true)) ∧
     (∀ e ∈ s.names, e.1 = w.die → e.2.1 = s.readU b → (∀ f ∈ s.names, f.1 = w.die → f.2.1 = s.readU b → f = e) →
       exec (.nmfind a b inpkg x) s = .next (withWave s (replied s0 x a e.2.2 false))) ∧
     ((∀ e ∈ s.names, e.2.1 ≠ s.readU b) →
       exec (.nmfind a b true x) s = .next (withWave s (replied s0 x a 0#64 true))) ∧
     (s.names1 4 ha = true → let after' : Wave := past 8 { s0.wave with slots := slotsSet x s0.wave.slots }
       (s.readU b = 0#64 → exec (.wsset a b c member x) s = .next { writes none with wave := after' }) ∧
       (s.readU b ≠ 0#64 → s0.waitCell (s.readU b) = (s0, some k) → exec (.wsset a b c member x) s =
         .next { writes (some ⟨k, s.readU c, 0#32⟩) with wave := after' }) ∧
       (s.names1 3 hb = true → exec (.wssetPort a b c member x) s =
         .next { writes (some ⟨s.pairKey w.proc hb, s.readU c, hb⟩) with wave := after' }) ∧
       (s.names1 5 hb = true → exec (.wssetTimer a b c member x) s =
         .next { writes (some ⟨s.pairKey w.proc hb, s.readU c, hb⟩) with wave := after' })) ∧
     (s.names1 4 ha = false → exec (.wsset a b c member x) s = .next (s0.trap .objBad) ∧
       exec (.wssetPort a b c member x) s = .next (s0.trap .objBad) ∧
       exec (.wssetTimer a b c member x) s = .next (s0.trap .objBad))) ∧
  (∀ (s : State) (a b : BitVec 8) (x : OrdExt) (t : WaitSet),
     let w := s.wave
     let s0 := afterWait s x.slots
     let h : Handle := (s.readU b).setWidth 32
     let now := s.clock.get (hDie h)
     let broken : SetMember → Prop := fun m => s.ctrStatus m.key ≠ .ok
     let hit : SetMember → Prop := fun m => s.ctrStatus m.key = .ok ∧
       ((s.ctrValue m.key).toNat + 2 ^ 64 - m.thr.toNat) % 2 ^ 64 < 2 ^ 63
     let report : Nat → Nat → DWord := fun bro hits =>
       BitVec.ofNat 64 (now % 2 ^ 32 * 2 ^ 32 + bro * 2 ^ 16 + hits * 2 ^ 8 + lowestBit (bro ||| hits))
     Quiet s → s.poison = [] → s.engRecords = [] → s.names1 4 h = true → s.set h = some t →
     (t.members.map (·.1)).Nodup → (∀ e ∈ t.members, e.1 < 8) →
     (t.members = [] ∨ t.waiter ≠ 0#32 → exec (.wswait a b x) s = .next (withWave s
       (past 8 { withF true (toUniform a (report 0 0) s0.wave) with slots := slotsSet x.slots s0.wave.slots }))) ∧
     (t.members ≠ [] → t.waiter = 0#32 → (∃ e ∈ t.members, broken e.2 ∨ hit e.2) →
       ∃ bro hits, exec (.wswait a b x) s = .next (withWave s (past 8 (toUniform a (report bro hits) { s0.wave with
           cc := ccOf false (decide (bro ≠ 0)) (w.cc.getLsbD 3) (w.cc.getLsbD 2) (w.cc.getLsbD 1) (decide (hits ≠ 0)),
           slots := slotsSet x.slots s0.wave.slots }))) ∧ bro < 256 ∧ hits < 256 ∧
         (∀ i < 8, bro.testBit i = true ↔ ∃ m, (i, m) ∈ t.members ∧ broken m) ∧
         ∀ i < 8, hits.testBit i = true ↔ ∃ m, (i, m) ∈ t.members ∧ hit m) ∧
     (t.members ≠ [] → t.waiter = 0#32 → (∀ e ∈ t.members, ¬ broken e.2 ∧ ¬ hit e.2) →
       exec (.wswait a b x) s = .next { s with
         wave := { s0.wave with
           st := .waiting,
           await := .waitSet h a ((x.order == .acq || x.order == .acqrel) && wide x.scope), due := false,
           since := s.clock.get w.die },
         waiters := s.waiters ++ t.members.map (fun e => ⟨e.2.key, e.2.thr, .member h⟩),
         sets := s.sets.map fun q => if q.hdl = h then { q with waiter := w.hdl, reg := q.members, gone := [] } else q }))

/-- R175, R176, R154, R170: ODEL deletes an object, and its slot moves on to the next generation: a wave dies, its waiters
with it and its exit counter broken; a timer is gone, and what waits on its counter finds it broken; a wait set is gone, and
the wave that waits on it wakes with every member broken; a port is gone with its names and its directory entry, its counters
broken where they are waited on, its messages, here without grants, discarded, and the wave that waits for one ends with F
and B; the members of wait sets that
lead to a deleted timer or port are gone; a code version is withdrawn; a process goes with all that it owns. A handle that
may not be named traps OBJ_BAD; a process by a wave that is not privileged traps ILL_PRIV. -/
def Obligations.Deletion : Prop :=
  ∀ (s : State) (b : BitVec 8) (t : Timer) (q : WaitSet) (c : CodeVer) (o : Wave) (p : Port),
    let w := s.wave
    let h : Handle := (s.readU b).setWidth 32
    let deleted : (State → Prop) → Prop := fun f => ∃ u, exec (.odel b) s = .next u ∧ u.wave = past 4 w ∧ f u
    let freed : State → Prop := fun u => Sparse.get 1 u.gens (hIndex h) = hGen h + 1
    let without : State → Prop := fun u =>
      u.sets = s.sets.map (fun q =>
        { q with gone := q.gone ++ (q.reg.filter fun e => decide (e.2.obj = h)).map (·.1) }) ∧
      ∀ q ∈ s.sets, (∃ e ∈ q.reg, e.2.obj = h) → (.waitSetEvaluation q.hdl, {}) ∈ u.work
    let waited : Nat → Prop := fun k => ∃ v ∈ s.waiters, v.key = k
    w.pair = none →
    (s.names1 (hType h) h = false → exec (.odel b) s = .next (s.trap .objBad)) ∧
    (s.names1 1 h = true → w.priv = false → exec (.odel b) s = .next (s.trap .illPriv)) ∧
    (s.names1 2 h = true → h ≠ w.hdl → s.findWave h = some o → o.pair = none → s.runq = [] → s.poison = [] → s.mxAlias = [] →
      (∃ v ∈ s.allWaves, v.hdl ≠ h ∧ v.team = o.team) → (∀ set dst acq, o.await ≠ .waitSet set dst acq) →
      hIndex o.codever ≠ hIndex h →
      ∀ m, s.team o.team = some m → m.cset = [] → m.uid = o.team →
        (o.xctr = 0#64 → deleted fun u => u.waves = s.waves.filter (fun v => v.hdl ≠ h) ∧ freed u ∧
          u.waiters = s.waiters.filter fun v => v.party ≠ .wave h ∧ v.party ≠ .ui h) ∧
        (o.xctr.toNat / 2 ^ 22 = 0x80 * 2 ^ 34 → o.xctr.toNat % 8 = 0 → o.xctr.toNat % 2 ^ 22 + 8 ≤ m.units * 16384 →
          let key := 2 ^ 70 + m.uid * 2 ^ 22 + o.xctr.toNat % 2 ^ 22
          deleted fun u => u.waves = s.waves.filter (fun v => v.hdl ≠ h) ∧ freed u ∧
            u.ctrStatus key = if s.ctrStatus key = .ok then .abandoned else s.ctrStatus key)) ∧
    (s.names1 2 h = true → h = w.hdl → (∃ v ∈ s.waves, v.hdl ≠ h ∧ v.team = w.team) → hIndex w.codever ≠ hIndex h →
      ∃ u, exec (.odel b) s = .next u ∧ u.wave = Wave.blank ∧ freed u) ∧
    (s.names1 5 h = true → s.timer h = some t → s.mxAlias = [] →
      let key := s.pairKey t.proc h
      deleted fun u => u.mem = s.mem ∧ u.timers = s.timers.filter (fun t => t.hdl ≠ h) ∧ freed u ∧ without u ∧
        (¬ waited key → u.cst = s.cst ∧ u.waiters = s.waiters) ∧
        (waited key → s.ctrStatus key ≠ .faulted → u.ctrStatus key = .faulted ∧
          u.waiters = s.waiters.filter (fun v => v.key ≠ key) ∧
          ∀ v ∈ s.waiters, v.key = key → v.party.event (s.ctrValue key) .faulted ∈ u.work)) ∧
    (s.names1 4 h = true → s.set h = some q → q.waiter = 0#32 →
      deleted fun u => u.mem = s.mem ∧ u.sets = s.sets.filter (fun t => t.hdl ≠ h) ∧ freed u) ∧
    (s.names1 4 h = true → s.set h = some q → q.waiter = o.hdl → o.hdl ≠ 0#32 → o.hdl ≠ w.hdl → s.waves = [o] → o.st = .waiting →
      o.due = false → o.halted = false → o.pair = none → s.l1 = [] → q.hdl = h → q.reg ≠ [] → (q.reg.map (·.1)).Nodup →
      (∀ e ∈ q.reg, e.1 < 8) → ∀ a acq, o.await = .waitSet h a acq → ∃ bro, bro < 256 ∧
        (∀ i < 8, bro.testBit i = true ↔ ∃ m, (i, m) ∈ q.reg) ∧
        deleted fun u => u.sets = s.sets.filter (fun t => t.hdl ≠ h) ∧ freed u ∧
          u.waiters = s.waiters.filter (fun v => v.party ≠ .member h) ∧
          u.waves = [past 8 (toUniform a
            (BitVec.ofNat 64 (s.clock.get (hDie h) % 2 ^ 32 * 2 ^ 32 + bro * 2 ^ 16 + lowestBit bro))
            { o with
              cc := ccOf false true (o.cc.getLsbD 3) (o.cc.getLsbD 2) (o.cc.getLsbD 1) false,
              st := .resident, await := .nothing, since := s.clock.get o.die })]) ∧
    (s.names1 3 h = true → s.port h = some p → s.waves = [o] → o.hdl ≠ 0#32 → o.hdl ≠ w.hdl → o.pair = none →
      o.halted = false → o.due = false → o.st = .waiting → s.mxAlias = [] → (∀ m ∈ p.msgs, m.grants = []) →
      (∀ a acq n, w.await ≠ .message h a acq n) →
      let arrived := s.pairKey p.proc p.hdl
      let consumed := arrived + 8
      deleted fun u => u.ports = s.ports.filter (fun t => t.hdl ≠ h) ∧ freed u ∧ without u ∧
        u.names = s.names.filter (fun e => e.2.2 ≠ s.portName h) ∧
        ((∃ a acq n, o.await = .message h a acq n) → u.waves = [past 8 { o with
          cc := ccOf true true (o.cc.getLsbD 3) (o.cc.getLsbD 2) (o.cc.getLsbD 1) (o.cc.getLsbD 0),
          st := .resident, await := .nothing, since := s.clock.get o.die }]) ∧
        ((∀ a acq n, o.await ≠ .message h a acq n) → u.waves = [o]) ∧
        (waited arrived ∨ waited consumed → u.ctrStatus arrived = .faulted ∧ u.ctrStatus consumed = .faulted ∧
          u.waiters = s.waiters.filter fun v => v.key ≠ arrived ∧ v.key ≠ consumed ∨
            s.ctrStatus v.key = .faulted) ∧
        (¬ waited arrived → ¬ waited consumed → u.cst = s.cst ∧ u.waiters = s.waiters) ∧
        (let at_ := reservedBase (hDie h) + 0x10000000 + 16 * p.cwUnit
         (∀ i < 16, p.cwUnit ≠ 0 → u.rawByte (at_ + i) = 0#8) ∧
           ∀ k, p.cwUnit = 0 ∨ k < at_ ∨ at_ + 16 ≤ k → u.rawByte k = s.rawByte k)) ∧
    (s.names1 6 h = true → s.code h = some c → w.codever = h → w.hdl ≠ 0#32 →
      deleted fun u => u.mem = s.mem ∧ u.codes = s.codes.map fun d => if d.hdl = h then { d with withdrawn := true } else d) ∧
    (s.names1 1 h = true → w.priv = true → w.proc = h → hType w.hdl = 2 →
      ∃ u, exec (.odel b) s = .next u ∧ u.wave = Wave.blank ∧ ∀ p ∈ u.procs, p.hdl ≠ h) ∧
    (s.names1 1 h = true → w.priv = true → w.proc ≠ h → w.await = .nothing →
      (∀ v ∈ s.waves, v.hdl ≠ w.hdl ∧ (v.proc = h → hType v.hdl = 2 ∧ v.pair = none)) →
      (∀ p ∈ s.ports, p.proc = h → hType p.hdl = 3) → (∀ p ∈ s.sets, p.proc = h → hType p.hdl = 4) →
      (∀ p ∈ s.timers, p.proc = h → hType p.hdl = 5) → (∀ c ∈ s.codes, c.proc = h → hType c.hdl = 6) →
      deleted fun u => u.procs.map (·.hdl) = (s.procs.map (·.hdl)).filter (· ≠ h) ∧ freed u ∧
        (∀ v ∈ u.waves, v.proc ≠ h) ∧ (∀ g ∈ u.grids, g.proc ≠ h) ∧ (∀ p ∈ u.ports, p.proc ≠ h) ∧
        (∀ q ∈ u.sets, q.proc ≠ h) ∧ (∀ t ∈ u.timers, t.proc ≠ h) ∧ (∀ c ∈ u.codes, c.proc = h → c.withdrawn = true) ∧
        (∀ e ∈ u.pendBreaks, e.proc ≠ h) ∧ ∀ e ∈ u.leaves, e.1 ≠ h)

/-- R220, R144, R326: EXIT retires the wave; a wave with an exit counter in its team's scratchpad adds 1 to it. R172, R137,
R349: a queued wave of a team without a grant goes to the first core of an empty cluster, partition 0, slot 0, for its
refill; R128, R369: a refill done lets it go on, a broken image kills it. R173, R174: what is evicted waits and is parked as
it waits; what is pre-empted is resident, of a lower priority than a head that has stood for 20 µs, and is queued again.
R149, R172: 100 µs in a list move an entry to the tail of the next. -/
def Obligations.PlacementEvictionAgeing : Prop :=
  ∀ (s : State) (o : Wave) (t : Team) (q : Queued),
    let w := s.wave
    let die := s.inp.die
    let c := s.inp.n
    w.hdl ≠ 0#32 → w.pair = none → s.l1 = [] → s.mmas = [] →
    Ends .exit s (fun u => u.wave = Wave.blank ∧ u.waves = s.waves ∧
      (w.xctr = 0#64 → (∃ v ∈ s.waves, v.team = w.team) → u.mem = s.mem) ∧
      (s.team w.team = some t → t.uid = w.team → w.xctr.toNat / 2 ^ 22 = 0x80 * 2 ^ 34 → w.xctr.toNat % 8 = 0 → s.poison = [] →
        s.mxAlias = [] →
        w.xctr.toNat % 2 ^ 22 + 8 ≤ t.units * 16384 → (∃ v ∈ s.waves, v.team = w.team) →
        let key := 2 ^ 70 + t.uid * 2 ^ 22 + w.xctr.toNat % 2 ^ 22
        u.ctrValue key = s.ctrValue key + 1#64)) ∧
    (w.refilling = true → w.await = .nothing → s.inp.ok = true → s.poison = [] →
      let now := s.clock.get w.die
      exec (.contextRefillDone w.hdl) s = .next (withWave s
        { w with refilling := false, stampA := now, stampB := now, runA := 0, runB := 0 })) ∧
    (w.refilling = true → s.inp.ok = false →
      Ends (.contextRefillDone w.hdl) s fun u => u.wave = Wave.blank ∧ u.waves = s.waves) ∧
    (s.runq = [q] → q.wave = o.hdl → o.hdl ≠ 0#32 → q.die = o.die → q.cluster = o.cluster → q.prio < 8 → o.die = die →
      o.cluster = c → s.findWave o.hdl = some o → o.halted = false → o.pair = none → s.team o.team = some t →
      t.saved = false → t.units = 0 → t.tags = 0 → q.spilled = false → s.gridRoom die (coreKey die c 0 % 48) t.grid = true →
      s.clusterRetired die c = false → o.vblk ≤ 512 → o.ntiles ≤ 8 →
      (∀ v ∈ s.allWaves, v.st ≠ .resident ∧ v.st ≠ .waiting ∧ v.st ≠ .created) →
      Ends .wavePlacement s fun u => u.runq = [] ∧ (.contextRefillDone o.hdl, {}) ∈ u.work ∧ ∃ v,
        u.findWave o.hdl = some v ∧ v.st = .resident ∧ v.refilling = true ∧ v.cluster = c ∧ v.core = 0 ∧ v.part = 0 ∧
        v.slot = 0 ∧ v.curPri = o.basePri ∧ v.pc = o.pc ∧ v.s = o.s ∧ v.v = o.v ∧ v.k = o.k ∧ v.cc = o.cc) ∧
    (s.evictionChoice die c = some o → s.findWave o.hdl = some o → o.hdl ≠ 0#32 → o.pair = none →
      o.st = .waiting ∧ (∃ v ∈ s.heads die c, s.placeWave v = none) ∧
      Ends .eviction s fun u => u.mem = s.mem ∧ u.findWave o.hdl = some
        { o with st := .parked, slots := 0#8, refilling := false, since := s.clock.get o.die }) ∧
    (s.preemptionChoice die c = some o → s.findWave o.hdl = some o → o.hdl ≠ 0#32 → o.pair = none → o.halted = false → s.teamSaved o = false →
      o.st = .resident ∧
      (∃ r ∈ s.runq, ∃ (v : Wave) (since : Nat), r.wave = v.hdl ∧ r.head = some since ∧ since + 20000 ≤ s.clock.get v.die ∧ o.basePri < r.prio) ∧
      Ends .preemption s fun u => u.mem = s.mem ∧
        (∃ r ∈ u.runq, r.wave = o.hdl ∧ r.prio = o.basePri ∧ r.die = o.die ∧ r.cluster = o.cluster) ∧
        ∃ v, u.findWave o.hdl = some v ∧ v.st = .runnable ∧ v.curPri = o.basePri ∧ v.slots = 0#8 ∧ v.pc = o.pc ∧
          v.s = o.s ∧ v.v = o.v ∧ v.k = o.k ∧ v.x = o.x ∧ v.tile = o.tile ∧ v.cc = o.cc ∧ v.mode = o.mode) ∧
    (s.runq = [q] → q.spilled = false → q.prio < 7 → q.since + 100000 ≤ s.clock.get q.die → s.findWave q.wave = some o →
      Ends .priorityAgeing s fun u => u.findWave q.wave = some { o with curPri := q.prio + 1 } ∧
        u.runq = [{ q with prio := q.prio + 1, since := s.clock.get q.die, head := some (s.clock.get q.die) }])

/-- R341, R343, R328: a placed team of one wave that is not paired joins the teams of its die under the next index of its
grid, with its units and tag entries, and its wave begins at the kernel with the argument block in s0. R86, R87, R173, R88:
a saved team's waves stay parked and its scratchpad's bytes stay; a reloaded one stands on its new core and its woken waves
run. R377: equal signatures let both sides go on with new ones; unequal ones kill both. -/
def Obligations.TeamsAndPairs : Prop :=
  ∀ (s : State) (g : Grid) (m : Team) (o : Wave) (p q : PairSide) (h : Handle) (c code x y z u0 g0 : Nat),
    let die := s.inp.die
    let w := s.wave
    s.l1 = [] →
    (s.placementChoice die = some (g, c) → g.next = some (code, x, y, z) → g.kernel.paired = false → g.kernel.waves = 1 →
      s.newHandle 2 g.die = some h →
      Ends .teamPlacement s fun u =>
        (∃ n : Team, u.teams = s.teams ++ [n] ∧ n.uid = s.uid ∧ n.grid = g.uid ∧ n.proc = g.proc ∧ (n.ix, n.iy, n.iz) = (x, y, z) ∧
          n.nwaves = 1 ∧ n.wave0 = h ∧ n.die = g.die ∧ n.core = c ∧ n.units = (g.kernel.sp + 16383) / 16384 ∧
          n.tags = g.kernel.tags ∧ n.cset = g.cset) ∧
        (∃ n : Wave, u.waves = s.waves ++ [n] ∧ n.hdl = h ∧ n.team = s.uid ∧ n.proc = g.proc ∧ n.widx = 0 ∧ n.st = .resident ∧
          n.pc = g.kernel.addr ∧ n.getS 0 = g.args ∧ (∀ i, i ≠ 0 → n.getS i = 0#64) ∧ n.v = [] ∧ n.x = [] ∧ n.tile = [] ∧
          n.priv = g.priv ∧ n.codever = g.codever ∧ n.die = g.die ∧ n.cluster = c % 48 / 8 ∧ n.core = c % 8 ∧
          n.vblk = (if g.kernel.pw = 0 then g.kernel.cv else g.kernel.pv)) ∧
        ∀ n ∈ u.grids, n.uid = g.uid →
          ∃ r ∈ s.grids, r.uid = g.uid ∧ n.placed = r.placed + 1 ∧ n.code = code + 1 ∧ n.lastCore = some c) ∧
    (s.saveChoice die = some m → m.twin = 0 → (∀ v ∈ s.allWaves, v.st ≠ .runnable ∧ (v.team = m.uid → v.st = .parked)) →
      Ends .teamSave s fun u => u.wave = w ∧ u.waves = s.waves ∧ u.mem = s.mem ∧ u.cst = s.cst ∧ u.tags = s.tags ∧
        u.teams = s.teams.map (fun t =>
          if t.uid = m.uid then { t with saved := true, placedAt := s.clock.get t.die, busy := 0, stall := 0 } else t) ∧
        ∀ r ∈ u.runq, ∀ v ∈ s.allWaves, v.team = m.uid → r.wave ≠ v.hdl) ∧
    (s.reloadChoice die = some (m, c) → m.twin = 0 → s.freeUnits m.die c m.units = some u0 → s.freeTags m.die c m.tags = some g0 →
      s.allWaves.filter (fun v => decide (v.team = m.uid)) = [o] → s.findWave o.hdl = some o → o.hdl ≠ 0#32 →
      o.st = .parked → o.halted = false → o.due = true →
      Ends .teamReload s fun u => u.mem = s.mem ∧ u.cst = s.cst ∧ u.tags = s.tags ∧
        u.teams = s.teams.map (fun t => if t.uid = m.uid then
          { t with saved := false, core := c, unit0 := u0, tag0 := g0, placedAt := s.clock.get t.die } else t) ∧
        u.findWave o.hdl = some { o with
          cluster := c / 8, core := c % 8, st := .runnable, await := o.await.kept, due := false, curPri := o.basePri,
          since := s.clock.get o.die } ∧ ∃ r ∈ u.runq, r.wave = o.hdl) ∧
    (s.inp.h = w.hdl → w.hdl ≠ 0#32 → o.hdl ≠ 0#32 → o.hdl ≠ w.hdl → s.waves = [o] → w.pair = some p → p.partner = o.hdl →
      o.pair = some q → p.side1 = false → p.atPoint = true → q.atPoint = true → p.go = false → q.go = false →
      (p.sig = q.sig → p.sigs = q.sigs → p.point = .block → q.point = .block → p.held = [] → s.inp.ok = true →
        let anew : PairSide → PairSide := fun r =>
          { r with
          sigs := [], held := r.held.drop r.cut, ended := r.held.length - r.cut, cut := 0, atPoint := false, go := false }
        exec .pairComparison s = .next { s with
          wave := { w with pair := some (anew p) }, waves := [{ o with pair := some (anew q) }] }) ∧
      (p.sigs ≠ q.sigs ∨ (p.sig ≠ q.sig ∧ p.point ≠ .block) → Ends .pairComparison s fun u => u.wave = Wave.blank ∧ u.waves = []))

/-- R27: leases that have ended leave the caches. R26: the host's answer to the page for which a wave waits: one that grants the
access is cached with the lease of the wave's mapping, and the accesses to the page are sent on; one that does not leaves them
to the page request; an error refuses them; the cache keeps neither. R26, R39, R402: the response to the page request of a
parked wave, one of at most 512: on success it asks again, else what was unfinished is refused. R33: an invalidation recalls
nothing and completes when no lease that led to its pages is left. R30, R31, R29: a downgrade request's refusals, its acceptance
with the latest lease of its range, and its completion 2 ns after that, which adds to its counter. The model's choices: what
is cached of an answer and when an invalidation completes (log entry 27), and the order of the downgrade's statuses 1, 6, 3, 2
and who counts as privileged (log entry 34). -/
def Obligations.TranslationEvents : Prop :=
  ∀ (s u v : State) (die page seq : Nat) (e : TlbEntry) (b : List Byte) (m : Landed) (d : Downgrade) (key : Nat)
    (r wr wants : Bool),
    let w := s.wave
    let now := s.clock.get s.inp.die
    let host := pteFrame e.pte + (65536 * page - e.base)
    let others := s.atc.filter fun o => !(decide (o.die = die) && decide (o.proc = w.proc) && decide (o.page = host / 65536))
    let told : (Hit → Asked) → List Asked := fun f => w.asked.map fun a => match a with
      | .may h => if h.target = 1 ∧ h.sent = false ∧ h.va.toNat / 65536 = page then f h else a
      | .no _ => a
    let refusal : Cause → Hit → Asked := fun c h => .no ⟨h.pos, h.va, c⟩
    let said : Option Cause → Option (DWord × Cause) := fun c =>
      if w.asked = [] then c.map fun c => (BitVec.ofNat 64 (65536 * page), c) else w.told
    let wakes : WaveState → List AtcEntry → List Asked → Option (DWord × Cause) → State → Prop := fun st atc asked told t =>
      let after' : Wave := { w with
        st := st, await := .nothing, since := t.wave.since, due := t.wave.due, curPri := t.wave.curPri, asked := asked, told := told }
      t.atc = atc ∧ t.wave = after' ∧ t.mem = s.mem ∧ t.waves = s.waves
    let named := s.inp.h = w.hdl ∧ w.hdl ≠ 0#32 ∧ w.due = false ∧ w.halted = false ∧ s.atc.length < 16384 ∧
      s.tlbHit die w.proc (65536 * page) = some e ∧ pteTarget e.pte = 1
    exec .leaseExpiry s = .next { s with
      tlb := s.tlb.filter (fun t => s.clock.get t.die < t.expiry),
      atc := s.atc.filter (fun e => s.clock.get e.die < e.expiry) } ∧
    (named → w.await = .ats die page wants → w.st = .waiting →
      (s.inp.ats = .granted r wr →
        ((if wants = true then wr else r) = true → Ends .atsCompletion s
          (wakes .resident (⟨die, w.proc, host / 65536, r, wr, e.expiry⟩ :: others)
            (told fun h => .may { h with key := hostKey h.key }) (said none))) ∧
        ((if wants = true then wr else r) = false → Ends .atsCompletion s
          (wakes .resident s.atc (told (refusal .hostpending)) (said (some .hostpending))))) ∧
      (s.inp.ats = .error → Ends .atsCompletion s
        (wakes .resident s.atc (told (refusal .hostrefused)) (said (some .hostrefused))))) ∧
    (named → w.await = .pri die page seq → (512 ≤ s.requestsBefore die seq → exec .priResponse s = .next s) ∧
      (s.requestsBefore die seq < 512 → w.st = .parked → s.teamSaved w = false →
        (s.inp.ok = true → Ends .priResponse s (wakes .runnable others [] w.told)) ∧
        (s.inp.ok = false → w.unfKind = .fetch → Ends .priResponse s
          (wakes .runnable s.atc w.asked (some (BitVec.ofNat 64 (65536 * page), .hostrefused)))) ∧
        (s.inp.ok = false → w.unfKind ≠ .fetch → Ends .priResponse s
          (wakes .runnable s.atc (w.asked.map fun a => match a with
            | .no f => if f.cause = .hostpending then .no { f with cause := .hostrefused } else a
            | .may _ => a) w.told)))) ∧
    (s.invals = [] → 0 < s.inp.size →
      let first := s.inp.pa / 65536
      let n := (s.inp.size + 65535) / 65536
      ∃ ends, now ≤ ends ∧
        (∀ l ∈ s.horizons, ∀ p, l.host = some p → p < first + n → first < p + l.pages → l.expiry + 2 ≤ ends) ∧
        exec .atsInvalidation s = .next { s with invals := [(s.inp.die, first, n, ends)] }) ∧
    (s.inp.size = 0 → s.l1 = [] → (∀ i ∈ s.invals, i.2.2.2 ≤ s.clock.get i.1) →
      exec .atsInvalidation s = .next { s with invals := [] }) ∧
    (s.takeRole s.inp.die .downgrade = some (u, b, m) →
      let proc : Handle := BitVec.ofNat 32 (natAt b 16 4)
      let va := natAt b 24 8
      let len := natAt b 32 8
      let privileged := m.cls < 2 ∧ (m.sender = 0#32 ∨ m.spriv = true)
      let formed := natAt b 20 4 = 0 ∧ natAt b 48 8 < 2 ^ 63 ∧ natAt b 56 8 = 0
      let range := va % 65536 = 0 ∧ len % 65536 = 0 ∧ 0 < len ∧ len ≤ 2 ^ 40
      let refuses : Nat → State → Prop := fun status t => exec .downgradeMessage s = .next (t.answer s.inp.die b status)
      (¬ formed → refuses 1 u) ∧ (formed → ¬ privileged → refuses 6 u) ∧
      (formed → privileged → u.proc proc = none → refuses 3 u) ∧
      (formed → privileged → (u.proc proc).isSome = true → ¬ range → refuses 2 u) ∧
      (formed → privileged → (u.proc proc).isSome = true → range →
        (u.downgradeKey s.inp.die proc (natAt b 40 8) = (v, none) → refuses 2 v) ∧
        (u.downgradeKey s.inp.die proc (natAt b 40 8) = (v, some key) → ∃ d : Downgrade, exec .downgradeMessage s = .next { v with
          uid := v.uid + 1, downgrades := v.downgrades ++ [d] } ∧ d.uid = v.uid ∧ d.proc = proc ∧ d.va = va ∧ d.len = len ∧
          d.key = key ∧ d.delta.toNat = natAt b 48 8 ∧ d.die = s.inp.die ∧
          ∀ l ∈ v.horizons, l.proc = proc → l.page < (va + len) / 65536 → va / 65536 < l.page + l.pages →
            l.expiry ≤ d.horizon))) ∧
    (s.downgrades.find? (fun o => decide (o.uid = d.uid)) = some d →
      (s.clock.get d.die < d.horizon + 2 → exec (.downgradeCompletion d.uid) s = .next s) ∧
      (d.horizon + 2 ≤ s.clock.get d.die → s.l1 = [] → s.ports = [] → s.poison = [] → s.mxAlias = [] → d.reply = 0#64 →
        Ends (.downgradeCompletion d.uid) s fun t => t.downgrades = s.downgrades.filter (fun o => o.uid ≠ d.uid) ∧
          t.ctrValue d.key = s.ctrValue d.key + d.delta ∧ t.wave = w ∧ t.waves = s.waves ∧
          ∀ k, k < d.key ∨ d.key + 8 ≤ k → t.rawByte k = s.rawByte k))

/-- R209, R208, R207: a write to a code frame gives the page a frame of the free-frame list that holds the same bytes, and the
code an open version that names it in the place of the old one; without the quota or an index for that version nothing is
written. R204, R207, R208: the loader takes an object that passes, with frames of the free-frame list, and refuses any other.
R339: what the HKU answers to a launch by message. The model's choices: the loader takes its frames from the front of the
free-frame list (log entry 13), a loaded version is sealed (log entry 36), and the order of the root port's statuses (log
entry 34). -/
def Obligations.CodeEvents : Prop :=
  ∀ (s u v : State) (addr f nf r : Nat) (rest : List Nat) (pr : Proc) (c : CodeVer) (p : DWord) (h : Handle)
    (o : CodeObject) (b img : List Byte) (m : Landed),
    let die := s.inp.die
    let proc := s.inp.h
    let va := s.inp.pa
    let quota := ∃ q, s.proc c.proc = some q ∧ (s.codes.filter (·.proc = c.proc)).length < q.quota.getD 4 0
    (s.walk proc va = .ok (3, addr, p) → pteW p = true → pteTarget p = 0 → pteFrame p = f → s.holdsCode f 65536 = true →
      s.proc proc = some pr → pr.frames = nf :: rest → s.versionWritten proc va f = some c → c.sealed = true →
      (¬ quota ∨ s.newHandle 6 (hDie c.hdl) = none → exec .codeCopyOnWrite s = .next s) ∧
      (quota → s.newHandle 6 (hDie c.hdl) = some h →
        (∃ v ∈ s.allWaves, v.codever = c.hdl) → (f + 65536 ≤ nf ∨ nf + 65536 ≤ f) → (addr = 0 ∨ addr + 8 ≤ nf ∨ nf + 65536 ≤ addr) →
        Ends .codeCopyOnWrite s fun t => t.wave = s.wave ∧ (∀ i < 65536, t.rawByte (nf + i) = s.rawByte (f + i)) ∧
          (∀ k, (k < nf ∨ nf + 65536 ≤ k) → (addr = 0 ∨ k < addr ∨ addr + 8 ≤ k) → t.rawByte k = s.rawByte k) ∧
          (∀ q ∈ t.procs, q.hdl = proc → q.frames = rest) ∧
          let opened : CodeVer := { c with
            hdl := h, frames := c.entered va f nf, sealed := false, withdrawn := false, drained := false, own := [nf] }
          t.codes = s.codes.flatMap fun d => if d.hdl = c.hdl then [{ d with current := false }, opened] else [d])) ∧
    (s.inp.obj = some o → s.proc proc = some pr → s.relocated proc o = none → exec .codeObjectLoad s = .next s) ∧
    (s.inp.obj = some o → s.proc proc = some pr → s.newHandle 6 die = some h → s.relocated proc o = some img →
      let n := (img.length + 65535) / 65536
      let passes := s.inp.ok = true ∧ s.objectOk proc o img = true ∧ n ≤ pr.frames.length ∧ o.base.toNat % 65536 = 0 ∧
        s.mayCreate proc 6 die 1 0 = true
      (passes → Ends .codeObjectLoad s fun t => t.wave = s.wave ∧
        t.codes = s.codes ++ [{
          hdl := h, proc := proc, base := o.base, frames := pr.frames.take n, stepping := o.stepping,
          kernels := o.kernels, templates := o.templates, groups := o.groups, symbols := o.definitions img, writable := o.writable,
          sealed := true, current := true, withdrawn := false, ready := 0, drained := true, own := [] }] ∧
        ∀ q ∈ t.procs, q.hdl = proc → ∃ q' ∈ s.procs, q'.hdl = proc ∧ q.frames = q'.frames.drop n) ∧
      (¬ passes → exec .codeObjectLoad s = .next s)) ∧
    (s.takeRole die .root = some (u, b, m) →
      let formed := natAt b 20 4 = 0 ∧ natAt b 32 16 = 0 ∧ (natAt b 13 1 / 32 % 2 = 1 ∨ natAt b 48 16 = 0)
      let proc : Handle := BitVec.ofNat 32 (natAt b 16 4)
      let answers : Nat → State → Prop := fun status t => exec .rootPortLaunch s = .next (t.answer die b status)
      let by' : Bool → Prop := fun priv =>
        u.launch die proc 0#32 priv (natAt b 24 8) = (v, r) → answers ([0, 1, 2, 6, 2, 5, 3].getD r 3) v
      (¬ formed → answers 1 u) ∧
      (formed → u.proc proc = none → answers 3 u) ∧
      (formed → u.proc proc = some pr → pr.hdl = proc →
        (2 ≤ m.cls → answers 6 u) ∧
        (m.cls < 2 → m.sender = 0#32 → by' true) ∧
        (m.cls < 2 → m.sender ≠ 0#32 → m.sproc = proc → by' m.spriv) ∧
        (m.cls < 2 → m.sender ≠ 0#32 → m.sproc ≠ proc → m.spriv = true → pr.parent = m.sproc → by' true) ∧
        (m.cls < 2 → m.sender ≠ 0#32 → m.sproc ≠ proc → (m.spriv = false ∨ pr.parent ≠ m.sproc) → answers 6 u)))

/-- R364: a fault reply to a wave that awaits none is refused, as is a malformed one; action 1 kills the wave, action 0 lets
a trapped wave go on at the PC of the reply, or at its default. R228, R229, R230: a reply to a wave in SVC is refused when it is
malformed or its results cannot be read; action 1 kills the wave, and action 0 writes each lane that made the call its four
registers and F and lets the wave go on. R38, R356, R228, R177: what a port could not take is written when it fits and stays
pending otherwise; a wave whose fault port is gone is killed. R91: a break is performed when its path is up. The model's choices:
the order of the statuses 3, 1, 2, 4 (log entry 34), and that a wave whose pending fault's port is gone dies as one without a
fault port does (log entry 35). -/
def Obligations.KernelReplies : Prop :=
  ∀ (s u y : State) (b l : List Byte) (m : Landed) (v : Wave) (d : DWord) (q : Pending) (p : Port) (k : PendBreak)
    (c : BitVec 8) (lanes : Word) (e : Cause),
    let die := s.inp.die
    let w := s.wave
    let npc := BitVec.ofNat 64 (natAt b 24 8)
    let act := natAt b 20 1
    let h := s.inp.h
    let answers : Nat → State → Prop := fun status t => exec .faultReply s = .next (t.answer die b status)
    let grows : State → Handle → Nat → Prop := fun t h n =>
      ∀ r ∈ t.ports, r.hdl = h → ∃ r' ∈ s.ports, r'.hdl = h ∧ r.msgs.length = r'.msgs.length + n
    let fits : Nat → Prop := fun n => p.broken = false ∧ p.msgs.length + p.held + n ≤ 2 ^ p.dlog
    (s.peekRole die .service = some b → (s.replied b).any (·.inService) = false →
      s.takeRole die .service = some (u, b, m) →
      (u.replied b = none → answers 3 u) ∧
      (u.replied b = some v → v.awaitsReply = false → answers 3 u) ∧
      (u.replied b = some v → v.awaitsReply = true →
        let formed := natAt b 21 3 = 0 ∧ (v.await = .faultReply → npc = 0#64)
        (¬ formed → answers 1 u) ∧
        (formed → npc.toNat % 4 ≠ 0 → answers 2 u) ∧
        (formed → npc.toNat % 4 = 0 → 2 ≤ act → answers 4 u) ∧
        (formed → npc.toNat % 4 = 0 → act = 1 → answers 0 (u.kill v.hdl)) ∧
        (formed → npc.toNat % 4 = 0 → act = 0 → v.await = .trapReply d → u.findWave v.hdl = some v → v.halted = false →
          u.teamSaved v = false → Ends .faultReply s fun t => ∃ o, t.findWave v.hdl = some o ∧ o.st = .runnable ∧
            o.pc = (if npc = 0#64 then d else npc) ∧ o.s = v.s ∧ o.k = v.k ∧ o.v = v.v ∧ o.x = v.x ∧ o.tile = v.tile ∧
            o.cc = v.cc ∧ o.mode = v.mode))) ∧
    ((s.replied b = none ∨ ∃ v, s.replied b = some v ∧ v.inService = false) → s.peekRole die .service = some b →
      exec .svcReply s = .next s) ∧
    (s.peekRole die .service = some b → s.replied b = some v → v.inService = true → v.await = .svcReply c lanes →
      s.takeRole die .service = some (u, b, m) →
      let replies : Nat → State → Prop := fun status t => exec .svcReply s = .next (t.answer die b status)
      let formed := natAt b 21 1 < 2 ∧ natAt b 22 2 = 0 ∧ natAt b 32 32 = 0
      let res := natAt b 24 8
      let image := u.readImage v.die v.proc v.priv res (16 * (lanesOf lanes).length)
      (¬ formed → replies 1 u) ∧ (formed → natAt b 20 1 = 1 → replies 0 (u.kill v.hdl)) ∧ (formed → 2 ≤ natAt b 20 1 → replies 4 u) ∧
      (formed → natAt b 20 1 = 0 → res ≠ 0 → image = (y, .error e) → replies 2 y) ∧
      (formed → natAt b 20 1 = 0 → (if res = 0 then y = u ∧ l = [] else image = (y, .ok l)) → y.findWave v.hdl = some v →
        v.halted = false → y.teamSaved v = false → Ends .svcReply s fun t => ∃ o, t.findWave v.hdl = some o ∧
          o.st = .runnable ∧ o.pc = v.pc ∧ o.s = v.s ∧ o.k = v.k ∧ o.x = v.x ∧ o.tile = v.tile ∧ o.mode = v.mode ∧
          o.cc = ccOf (decide (natAt b 21 1 = 1)) (v.cc.getLsbD 4) (v.cc.getLsbD 3) (v.cc.getLsbD 2) (v.cc.getLsbD 1)
            (v.cc.getLsbD 0) ∧
          ∀ r i, i < 32 → o.getV r i = if res ≠ 0 ∧ lanes.getLsbD i = true ∧ c.toNat ≤ r ∧ r < c.toNat + 4 then
              BitVec.ofNat 32 (natAt l (16 * onesBelow i lanes.toNat + 4 * (r - c.toNat)) 4)
            else v.getV r i)) ∧
    (s.pendFaults = [q] → q.port = h →
      (s.port h = none → q.wave = w.hdl → w.hdl ≠ 0#32 → w.awaitsReply = true → w.pair = none →
        Ends .pendingFaultSend s fun t => t.wave = Wave.blank ∧ t.waves = s.waves) ∧
      (s.port h = some p → fits q.slots.length →
        Ends .pendingFaultSend s fun t => t.pendFaults = [] ∧ t.wave = w ∧ grows t h q.slots.length) ∧
      (s.port h = some p → ¬ fits q.slots.length → exec .pendingFaultSend s = .next s)) ∧
    (s.pendSvc = [q] → q.port = h → s.port h = some p →
      (fits q.slots.length → Ends .svcBatchPendingWrite s fun t => t.pendSvc = [] ∧ t.wave = w ∧ grows t h q.slots.length) ∧
      (¬ fits q.slots.length → exec .svcBatchPendingWrite s = .next s)) ∧
    (s.pendReplies = [q] → q.slots = [b] →
      let pkg := q.name.toNat / 2 ^ 28 % 128
      (pkg = s.pkg → s.portOfName q.name = some p →
        (fits 1 → Ends (.kernelReplyRetry q.uid) s fun t => t.pendReplies = [] ∧ t.wave = w ∧ grows t p.hdl 1) ∧
        (¬ fits 1 → exec (.kernelReplyRetry q.uid) s = .next { s with
          uid := s.uid + 1, pendReplies := [⟨q.die, p.hdl, q.name, [b], 0#32, s.uid⟩] })) ∧
      (pkg = s.pkg → s.portOfName q.name = none → exec (.kernelReplyRetry q.uid) s = .next { s with pendReplies := [] }) ∧
      (pkg ≠ s.pkg → (∀ f ∈ s.farPorts, f.1 ≠ q.name) →
        exec (.kernelReplyRetry q.uid) s = .next { s with pendReplies := [] })) ∧
    (∀ n, (∀ q ∈ s.pendReplies, q.uid ≠ n) → exec (.kernelReplyRetry n) s = .next s) ∧
    (s.pendBreaks = [k] →
      (s.pathUp 0 k.pkg = true ∨ s.pathUp 1 k.pkg = true → s.ctrStatus k.key = .ok → s.mxAlias = [] →
        Ends .pendingBreakPerform s fun t => t.pendBreaks = [] ∧ t.ctrStatus k.key = k.st ∧ t.mem = s.mem ∧ t.wave = w) ∧
      (s.pathUp 0 k.pkg = false → s.pathUp 1 k.pkg = false → exec .pendingBreakPerform s = .next s))

/-- R58: activations of a row count; each time the count reaches 1,024 is an alert, counted by its slice, which closes the
bank for 320 ns from the end of a window that is open. R64, R66, R65: a corrected value reaches storage; a patrol read scrubs
what it can correct and poisons what it cannot, whose four cells are FAULTED. R118, R120, R373: an integer reduction at its
home; one whose check failed twice poisons its sector, and the wave runs on. -/
def Obligations.StorageEvents : Prop :=
  ∀ (s : State) (c : Scrub) (op : AtomOp) (ty : EType) (x : DWord) (key : Nat),
    let a := s.inp.pa
    let q := a / 32
    let die := a / 2 ^ 39 % 2
    let now := s.clock.get die
    let n := Sparse.get 0 s.acts (rowKey a) + s.inp.size
    let alerts := 2 ^ 23 * die + 0x10000 + 8 * sliceOf a
    (isDram a = true → n < 1024 →
      exec .rowActivationAlert s = .next { s with acts := Sparse.put 0 s.acts (rowKey a) n }) ∧
    (isDram a = true → 1024 ≤ n → exec .rowActivationAlert s = .next { s with
      acts := Sparse.put 0 s.acts (rowKey a) (n % 1024),
      backoff := Sparse.put 0 s.backoff (bankKey a) (max now (Sparse.get 0 s.backoff (bankKey a)) + 320 * (n / 1024)),
      mwin := (upto (n / 1024)).foldl (fun m _ => Sparse.put 0#64 m alerts (Sparse.get 0#64 m alerts + 1#64)) s.mwin }) ∧
    exec .periodicRefresh s = .next { s with acts := Sparse.put 0 s.acts (rowKey a) 0 } ∧
    (Sparse.get 0 s.backoff (bankKey a) ≤ now →
      exec .backoffWindowEnd s = .next { s with backoff := Sparse.put 0 s.backoff (bankKey a) 0 }) ∧
    (now < Sparse.get 0 s.backoff (bankKey a) → exec .backoffWindowEnd s = .next s) ∧
    (s.scrubs.find? (fun e => decide (e.sector = q)) = some c → c.bytes.length = 32 →
      Ends .scrubWriteback s fun t => t.wave = s.wave ∧ (∀ e ∈ t.scrubs, e.sector ≠ q) ∧
        (∀ i < 32, t.rawByte (32 * q + i) = c.bytes.getD i 0#8) ∧
        ∀ k, (k < 32 * q ∨ 32 * q + 32 ≤ k) → t.rawByte k = s.rawByte k) ∧
    ((∀ e ∈ s.scrubs, e.sector ≠ q) → exec .scrubWriteback s = .next s) ∧
    (s.inp.found = .clean ∨ Sparse.get false s.poison q = true → exec .patrolScrub s = .next s) ∧
    (isDram a = true → Sparse.get false s.poison q = false →
      (s.inp.found = .correctable → Ends .patrolScrub s fun t => t.wave = s.wave ∧ t.poison = s.poison ∧
        (∃ e ∈ t.scrubs, e.sector = q) ∧ t.eseq.get die = s.eseq.get die + 1) ∧
      (s.inp.found = .uncorrectable → s.mxAlias = [] → Ends .patrolScrub s fun t => t.wave = s.wave ∧ t.mem = s.mem ∧
        t.poisoned a = true ∧ ∀ i < 4, t.ctrStatus (32 * q + 8 * i) = .faulted)) ∧
    ((ty = .i32 ∨ ty = .n32 ∨ ty = .i64 ∨ ty = .n64) → s.inp.ok = true → s.inp.found ≠ .correctable → s.upset = none → s.l1 = [] → s.poison = [] →
      s.mxAlias = [] →
      let z := ty.bitsOf / 8
      let old := s.rawNat key z
      let v := x.toNat
      op ≠ .fadd → isDirectory key = false → Ends (.homeReduction key op ty [x]) s fun t => t.wave = s.wave ∧
        t.rawNat key z = (match op with
          | .add => old + v
          | .min => if ty.toInt old ≤ ty.toInt v then old else v
          | .max => if ty.toInt old ≤ ty.toInt v then v else old
          | .and => old &&& v
          | .or => old ||| v
          | .xor => old ^^^ v
          | .fadd => 0) % 2 ^ (8 * z) ∧
        ∀ k, (k < key ∨ key + z ≤ k) → t.rawByte k = s.rawByte k) ∧
    (s.inp.ok = false → Ends (.homeReduction key op ty [x]) s fun t => t.wave = s.wave ∧ t.poisoned key = true)

/-- R105, R325: a slot clears when what it was set for completes. R167: a wait set whose one registered member has fired
reports it and its wave goes on. R178: a journal record whose counter has been reached is completed, its time first. R164:
a grant whose leases have ended is mapped in the receiver's window, or, of another package, its frame goes to the sender's
list, after it has set out in 16 datagrams where it crosses Ethernet (log entry 46); then its message may land. -/
def Obligations.CompletionEvents : Prop :=
  ∀ (s : State) (slot : BitVec 3) (t : WaitSet) (dst : BitVec 8) (m : SetMember) (i die seq : Nat) (f : Flight) (g : Grant)
    (p : Port),
    let w := s.wave
    let cleared := withWave s { w with slots := w.slots &&& ~~~(BitVec.ofNat 8 (2 ^ slot.toNat)) }
    let now := s.clock.get (hDie t.hdl)
    let k := 0x8000000000 * die + 0x5568000000 + 0x14000000 + 64 * ((seq - 1) % 16384)
    let moved : DWord → List Flight := fun dst => [{ f with grants := [{ g with dst := dst, done := true }] }]
    (w.hdl ≠ 0#32 → exec (.objectRequestReply w.hdl slot) s = .next cleared ∧
      (w.ready = false → exec (.accessCompletion w.hdl slot) s = .next cleared) ∧
      Ends (.accessCompletion w.hdl slot) s fun t => onlyStalled cleared t ∧ t.mem = s.mem ∧
        t.teams.map (fun m => { m with stall := 0 }) = s.teams.map fun m => { m with stall := 0 }) ∧
    (s.set t.hdl = some t → t.waiter = w.hdl → w.hdl ≠ 0#32 → w.await = .waitSet t.hdl dst false → w.due = false →
      w.st = .waiting → w.halted = false → w.pair = none → s.waiters = [] → t.gone = [] → t.reg = [(i, m)] → i < 8 →
      s.poison = [] → s.engRecords = [] → s.ctrStatus m.key = .ok →
      ((s.ctrValue m.key).toNat + 2 ^ 64 - m.thr.toNat) % 2 ^ 64 < 2 ^ 63 →
      let v := BitVec.ofNat 64 (now % 2 ^ 32 * 2 ^ 32 + 2 ^ i * 2 ^ 8 + i)
      let seen := past 8 (toUniform dst v
        { w with cc := ccOf false false (w.cc.getLsbD 3) (w.cc.getLsbD 2) (w.cc.getLsbD 1) true })
      exec (.waitSetEvaluation t.hdl) s = .next { s with
        wave := { seen with st := .resident, await := .nothing, since := s.clock.get w.die },
        sets := s.sets.map fun q => if q.hdl = t.hdl then { q with waiter := 0#32, reg := [], gone := [] } else q }) ∧
    (s.rawNat k 8 = seq → (s.rawByte (k + 56)).toNat < 2 → (∀ e ∈ s.waiters, e.party ≠ .journal die seq) →
      Ends (.journalCompletion die seq) s fun u => u.wave = w ∧ u.rawByte (k + 56) = 2#8 ∧
        u.rawNat (k + 40) 8 = s.clock.get die % 2 ^ 64 ∧
        ∀ j, (j < k + 40 ∨ k + 48 ≤ j) → j ≠ k + 56 → u.rawByte j = s.rawByte j) ∧
    (s.flights = [f] → f.grants = [g] → g.done = false → g.horizon + 2 ≤ s.clock.get f.senderDie → s.l1 = [] →
      (f.pkg = s.pkg → s.port f.port = some p → p.slotsUsed = [] → 0 < p.gslots →
        let leaf := BitVec.ofNat 64 (pteFrame g.pte + 0xC3 + (if pteW g.pte then 8 else 0) + (if pteR g.pte then 4 else 0))
        exec (.grantMapping f.uid) s = .next { s.mapLeaf p.proc p.gwin.toNat leaf with
          ports := s.ports.map (fun q => if q.hdl = f.port then { q with slotsUsed := q.slotsUsed ++ [0] } else q),
          flights := moved p.gwin, work := s.work ++ [(.messageLanding f.uid, {})] }) ∧
      (f.pkg ≠ s.pkg → f.cls = 3 → Ends (.grantCopy f.uid) s fun t => t.flights = moved g.dst ∧ t.wave = w ∧
        ∃ l : List Datagram, t.unacked = s.unacked ++ l ∧ l.length = 16 ∧ ∀ d ∈ l, d.flight = f.uid ∧ d.kind = 2 ∧ d.len = 4096) ∧
      (f.pkg ≠ s.pkg → f.cls ≠ 3 → exec (.grantCopy f.uid) s = .next { s with
          procs := s.procs.map (fun q => if q.hdl = g.sproc then { q with frames := q.frames ++ [pteFrame g.pte] } else q),
          flights := moved g.dst, work := s.work ++ [(.messageLanding f.uid, {})] })) ∧
    (s.flights = [f] → f.grants = [g] → s.clock.get f.senderDie < g.horizon + 2 →
      exec (.grantMapping f.uid) s = .next s ∧ exec (.grantCopy f.uid) s = .next s)

/-- R83, R84, R85, R59, R124, R403, R407, R409, R404: what the host writes and reads: through a BAR that has a base, with the
link up, an aperture add is performed at the counter of an enabled window and else dropped and counted, and the aperture, the
command window and the MSI-X table are read; through any other BAR nothing is done; windows, alias entries and host waiter
entries change as their rules say; an entry that fires writes its report, sends its vector and disarms; CXL.mem reads and
writes DRAM outside the windows; a command-window write reaches its unit; the link's state; a function reset clears the MSI-X
table and the BARs, disarms the host waiters, here one or none, and invalidates every cached translation. The model's choices:
on which die a dropped add is counted, and that a link that goes down clears the translation cache and a function reset
leaves the link's state (log entry 38); that a BAR has no base after a reset (log entry 46). -/
def Obligations.HostEvents : Prop :=
  ∀ (s : State) (value : DWord) (st : CtrStatus) (wd : Bool),
    let die := s.inp.die
    let a := s.inp.pa
    let z := s.inp.size
    let d := s.inp.val.setWidth 64
    let bs := s.inp.bytes
    let up := s.hostDown.get die = false
    let down := s.hostDown.get die = true
    let writes : Nat → List Byte → State → Prop := fun k l t => t.wave = s.wave ∧
      ∀ j, t.rawByte j = if k ≤ j ∧ j < k + l.length then l.getD (j - k) 0#8 else s.rawByte j
    let homeDie := if isDram a = true then a / 2 ^ 39 % 2 else die
    let drops := 2 ^ 23 * homeDie + 0x130
    let n16 := die * 16 + s.inp.n % 16
    let win := Sparse.get 0#128 s.window n16
    let first := s.inp.val.toNat % 2 ^ 36
    let last := s.inp.val.toNat / 2 ^ 64 % 2 ^ 36
    let legal := inDram die (first * 65536) 65536 = true ∧ inDram die (last * 65536) 65536 = true ∧ first ≤ last
    let checkedWin : BitVec 128 :=
      BitVec.ofNat 128 (last * 2 ^ 64 + first) ||| (if legal then BitVec.ofNat 128 (2 ^ 127) else 0#128)
    let n64 := die * 64 + s.inp.n % 64
    let al := Sparse.get 0#256 s.mxAlias n64
    let en : BitVec 256 := BitVec.ofNat 256 (2 ^ 255)
    let stored : BitVec 256 := (s.inp.val &&& BitVec.ofNat 256 aliasMask) ||| (al &&& BitVec.ofNat 256 ((2 ^ 32 - 1) * 2 ^ 192))
    let setsAlias : BitVec 256 → Prop := fun e =>
      exec .aliasEntryWrite s = .next { s with mxAlias := Sparse.put 0#256 s.mxAlias n64 e }
    let nw := s.inp.n % 4096
    let ent := Sparse.get 0#256 s.hostw (die * 4096 + nw)
    let me := Party.host die nw
    let asked : BitVec 256 := (s.inp.val &&& BitVec.ofNat 256 hostMask) |||
      ((if s.inp.val.getLsbD 1 then ent &&& ~~~2#256 else ent) &&& 0xE#256)
    let fits := s.windowed die (hwCtr asked) = true ∧ hwCtr asked % 8 = 0 ∧ hwReport asked % 16 = 0
    let found := s.ctrRead (hwCtr asked)
    let fires := found.2 ≠ .ok ∨ (found.1.toNat + 2 ^ 64 - (hwThresh asked).toNat) % 2 ^ 64 < 2 ^ 63
    let put : BitVec 256 → Sparse (BitVec 256) := fun e => Sparse.put 0#256 s.hostw (die * 4096 + nw) e
    let performed := z = 8 ∧ a % 8 = 0 ∧ d.toNat < 2 ^ 63 ∧ isDram a = true ∧ s.windowed (a / 2 ^ 39 % 2) a = true
    let open' : Nat → Prop := fun n => up ∧ Sparse.get 0#64 s.bars (3 * die + n) ≠ 0#64
    let via := s.inp.via
    let units := 0x8000000000 * die + 0x5568000000 + 0x10000000
    let reads : List Byte → Prop := fun l => exec .apertureRead s = .next { s with readBack := l }
    (down → exec .hostHdmWrite s = .next s ∧ exec .hostHdmRead s = .next s) ∧
    (¬ open' 0 → exec .commandWindowWrite s = .next s ∧ (via = .window → exec .apertureRead s = .next s)) ∧
    (¬ open' 1 → exec .apertureAdd s = .next s ∧ (via = .aperture → exec .apertureRead s = .next s)) ∧
    (¬ open' 2 → via = .registers → exec .apertureRead s = .next s) ∧
    (open' 0 → via = .window → (a + z ≤ 0x4000000 → s.mxAlias = [] → reads (Sparse.getList 0#8 s.mem (units + a) z)) ∧
      (0x4000000 < a + z → exec .apertureRead s = .next s)) ∧
    (open' 2 → via = .registers → 0xF00000 ≤ a → a + z ≤ 0xF08000 →
      reads ((upto z).map fun j => Sparse.get 0#8 s.msixTable (32768 * die + (a + j - 0xF00000)))) ∧
    (open' 2 → via = .registers → 0xF80000 ≤ a → a + z ≤ 0xF80100 → reads (List.replicate z 0#8)) ∧
    (open' 1 → ¬ performed → exec .apertureAdd s =
      .next { s with mwin := Sparse.put 0#64 s.mwin drops (Sparse.get 0#64 s.mwin drops + 1#64) }) ∧
    (open' 1 → performed → s.poison = [] → s.mxAlias = [] → s.ports = [] → Ends .apertureAdd s fun t => t.wave = s.wave ∧
      t.ctrValue a = s.ctrValue a + d ∧ ∀ k, (k < a ∨ a + 8 ≤ k) → t.rawByte k = s.rawByte k) ∧
    (open' 1 → via = .aperture → z ≠ 8 → reads (List.replicate z 0xFF#8)) ∧
    (open' 1 → via = .aperture → z = 8 → isDram a = true → a % 8 = 0 → s.poison = [] → ∃ l, reads l ∧
      l.length = 8 ∧ natOfBytes l = (s.ctrValue a).toNat) ∧
    (win.getLsbD 127 = true → exec .apertureWindowEnable s = .next s) ∧
    (win.getLsbD 127 = false → exec .apertureWindowEnable s = .next { s with
      window := Sparse.put 0#128 s.window n16 checkedWin }) ∧
    (win.getLsbD 127 = true → s.hostw = [] → s.waiters = [] → exec .apertureWindowDisable s = .next { s with
      window := Sparse.put 0#128 s.window n16 (win &&& ~~~(BitVec.ofNat 128 (2 ^ 127))) }) ∧
    (al.getLsbD 255 = true → s.inp.val.getLsbD 255 = true → setsAlias al) ∧
    (al.getLsbD 255 = true → s.inp.val.getLsbD 255 = false → setsAlias (al &&& ~~~en)) ∧
    (al.getLsbD 255 = false → (s.inp.val.getLsbD 255 = false ∨ s.aliasOk die (s.inp.n % 64) stored = true) →
      setsAlias stored) ∧
    (al.getLsbD 255 = false → s.inp.val.getLsbD 255 = true → s.aliasOk die (s.inp.n % 64) stored = false →
      setsAlias (stored &&& ~~~en)) ∧
    (ent.getLsbD 0 = false → ¬ fits → exec .hostWaiterArm s = .next s) ∧
    (ent.getLsbD 0 = false → fits → ¬ fires → exec .hostWaiterArm s = .next { s with
      hostw := put (asked ||| 1#256), waiters := s.waiters ++ [⟨hwCtr asked, hwThresh asked, me⟩] }) ∧
    (ent.getLsbD 0 = false → fits → fires → exec .hostWaiterArm s = .next { s with
      hostw := put (asked ||| 1#256), work := s.work ++ [(.hostWaiterFire die nw found.1 found.2 false, {})] }) ∧
    (ent.getLsbD 0 = true → Ends .hostWaiterDisarm s fun t => t.hostw = put (ent &&& ~~~1#256) ∧ t.mem = s.mem ∧
      t.waiters = s.waiters.filter (fun e => decide (e.party ≠ me)) ∧ t.wave = s.wave) ∧
    (ent.getLsbD 0 = true → exec .hostWaiterFiredClear s = .next { s with hostw := put (ent &&& ~~~2#256) }) ∧
    (ent.getLsbD 0 = true → (∀ e ∈ s.waiters, e.party ≠ me) →
      (up → Ends (.hostWaiterFire die nw value st wd) s fun t =>
        t.msix = s.msix ++ [(die, hwVector ent)] ∧
        t.hostw = put ((ent &&& ~~~0xF#256) ||| BitVec.ofNat 256 (4 * st.code + 2)) ∧
        ∃ l, l.length = 16 ∧ natAt l 0 8 = value.toNat ∧ natAt l 8 2 = (die * 4096 + nw) % 65536 ∧
          natAt l 10 1 = st.code + (if wd then 4 else 0) ∧ natAt l 11 1 = 0 ∧ natAt l 12 4 = s.clock.get die % 2 ^ 32 ∧
          writes (hostKey (hwReport ent)) l t) ∧
      (down → exec (.hostWaiterFire die nw value st wd) s = .next { s with
        hostw := put ((ent &&& ~~~0xF#256) ||| BitVec.ofNat 256 (4 * st.code + 2)) })) ∧
    (up → inHdm die a bs.length = true → s.mxAlias = [] →
      ((∀ i < bs.length, s.windowed die (a + i) = false) → Ends .hostHdmWrite s (writes a bs)) ∧
      ((∀ i < bs.length, s.windowed die (a + i) = true) → bs ≠ [] →
        Ends .hostHdmWrite s fun t => t.mem = s.mem ∧ t.wave = s.wave)) ∧
    (up → inHdm die a z = true → s.mxAlias = [] → s.poison = [] →
      exec .hostHdmRead s = .next { s with readBack := Sparse.getList 0#8 s.mem a z }) ∧
    (open' 0 → 0x40000 ≤ a → a + bs.length ≤ 0x4000000 → s.mxAlias = [] → Ends .commandWindowWrite s
      (writes (units + a) bs)) ∧
    (a < 0x40000 ∨ 0x4000000 < a + bs.length → exec .commandWindowWrite s = .next s) ∧
    exec .hostLinkDown s = .next { s with
      hostDown := s.hostDown.set die true, atc := s.atc.filter (fun e => decide (e.die ≠ die)) } ∧
    exec .hostLinkUp s = .next { s with hostDown := s.hostDown.set die false } ∧
    (s.hostw = [] ∨ (ent.getLsbD 0 = true ∧ s.hostw = [(die * 4096 + nw, ent)]) → Ends .functionLevelReset s fun t =>
      t.wave = s.wave ∧ t.waves = s.waves ∧ t.mem = s.mem ∧ t.atc = s.atc ∧ t.hostDown = s.hostDown ∧
      t.msixTable = Sparse.clear s.msixTable (32768 * die) (32768 * die + 32768) ∧
      t.bars = Sparse.clear s.bars (3 * die) (3 * die + 3) ∧
      t.hostw = (if s.hostw = [] then [] else put (ent &&& ~~~1#256)) ∧
      t.waiters = (if s.hostw = [] then s.waiters else s.waiters.filter fun e => decide (e.party ≠ me)) ∧
      ∃ ends : Nat, t.invals = s.invals ++ [(die, 0, 2 ^ 48, ends)] ∧ s.clock.get die ≤ ends ∧
        ∀ l ∈ s.horizons, ∀ p, l.host = some p → p < 2 ^ 48 → 0 < p + l.pages → l.expiry + 2 ≤ ends)

/-- R34, R411, R159, R413, R414: the registers of the domain. R412, R76, R91: a link that fails or returns; a local waiter whose
peer home is cut off is woken with FAULTED, breaks that waited for a path are tried. R414, R413, R363: a port that loses its
Ethernet path or has it back, a message that no port has been able to send for 60 µs, a datagram that waits 8 µs for its
acknowledgement. R34: what another package reads, writes and adds to in an exported frame, and in none other, and which frames
it exports. The model's choices: the layouts of a route entry, of 12 bits, and of a scale-out entry, of 256 (log entry 14), and
what comes from another package and its paths (log entry 40). -/
def Obligations.DomainEvents : Prop :=
  ∀ (s : State) (v : BitVec 256) (die pkg fr z n : Nat) (e : Waiter) (f : Flight) (bs : List Byte) (d : DWord),
    let i := s.inp
    let l := (i.die, i.n)
    let a := i.pa
    let idle := s.engs = [] ∧ s.waiters = []
    let exported : Nat → Prop := fun n => isDram a = true ∧ a / 65536 ∈ s.exports ∧ a % 65536 + n ≤ 65536
    let failed : State := { s with linksDown := s.linksDown ++ [l] }
    exec (.registerWrite .pkgNumber v z) s = .next { s with pkg := v.toNat % 128 } ∧
    exec (.registerWrite (.scaleOut die pkg) v z) s =
      .next { s with scaleOut := Sparse.put 0#256 s.scaleOut (die % 2 * 128 + pkg % 128) v } ∧
    exec (.registerWrite .datagramPort v z) s = .next { s with datagramPort := v.toNat % 65536 } ∧
    (idle → s.pendBreaks = [] → exec (.registerWrite (.route die pkg) v z) s =
      .next { s with route := Sparse.put 0 s.route (die % 2 * 128 + pkg % 128) (v.toNat % 4096) }) ∧
    (v ≠ 0#256 → isDram (65536 * fr) = true → fr ∉ s.exports →
      exec (.registerWrite (.exportFrame fr) v z) s = .next { s with exports := s.exports ++ [fr] }) ∧
    exec (.registerWrite (.exportFrame fr) 0#256 z) s = .next { s with exports := s.exports.filter (fun x => x ≠ fr) } ∧
    (l ∈ s.linksDown → exec .oczerLinkFailure s = .next s) ∧
    (l ∉ s.linksDown → s.engs = [] → s.pendBreaks = [] → s.sets = [] → s.waiters = [e] → isPeerKey e.key = true →
      failed.pathUp e.party.die (peerOfKey e.key) = false → exec .oczerLinkFailure s = .next { failed with
        waiters := [], work := s.work ++ [e.party.event (s.ctrValue e.key) .faulted] }) ∧
    (l ∉ s.linksDown → idle → s.pendBreaks = [] → exec .oczerLinkFailure s = .next failed) ∧
    (idle → exec .oczerLinkRecovery s = .next { s with
      linksDown := s.linksDown.filter (fun x => x ≠ l),
      work := s.work ++ (if s.pendBreaks = [] then [] else [(.pendingBreakPerform, {})]) }) ∧
    (idle → s.pendBreaks = [] →
      let here : EthLoss → Prop := fun x => x.die = i.die ∧ x.port = i.m % 3 ∧ x.pkg = i.n
      (i.size = 1 → ∃ l, exec .ethernetLinkFailure s = .next { s with ethDown := l } ∧
        ∀ x, x ∈ l ↔ x ∈ s.ethDown ∧ ¬ here x) ∧
      (i.size ≠ 1 → (∀ x ∈ s.ethDown, ¬ here x) → exec .ethernetLinkFailure s =
        .next { s with ethDown := s.ethDown ++ [⟨i.die, i.m % 3, i.n, s.clock.get i.die⟩] }) ∧
      (i.size ≠ 1 → (∃ x ∈ s.ethDown, here x) → exec .ethernetLinkFailure s = .next s)) ∧
    (s.flights = [f] → f.uid = i.n → f.pkg ≠ s.pkg → f.cls = 3 →
      let lost := (∀ p < 3, ∃ x ∈ s.ethDown, x.die = f.senderDie ∧ x.pkg = f.pkg ∧ x.port = p) ∧
        ∀ x ∈ s.ethDown, x.die = f.senderDie → x.pkg = f.pkg → x.since + 60000 ≤ s.clock.get f.senderDie
      (¬ lost → exec .d3PathTimeout s = .next s) ∧
      (lost → f.senderDie < 2 → Ends .d3PathTimeout s fun t => t.flights = [] ∧ (∀ x ∈ t.unacked, x.flight ≠ f.uid) ∧
          t.eseq.get f.senderDie = s.eseq.get f.senderDie + 1 ∧ t.wave = s.wave)) ∧
    exec .retransmissionTimerExpiry s = .next { s with unacked := s.unacked.map fun x =>
      if x.die = i.die ∧ x.pkg = i.n ∧ x.peer = i.m ∧ x.sent + 8000 ≤ s.clock.get i.die then
        { x with sent := s.clock.get i.die } else x } ∧
    (i.peer = .load n → (¬ exported n → exec .peerDomainAccess s = .next { s with readBack := [] }) ∧
      (exported n → s.poison = [] → s.mxAlias = [] →
        exec .peerDomainAccess s = .next { s with readBack := Sparse.getList 0#8 s.mem a n })) ∧
    (i.peer = .exports n → exec .peerDomainAccess s = .next { s with
      peerExports := s.peerExports.filter (fun x => x ≠ (i.n, n)) ++ [(i.n, n)] }) ∧
    (i.peer = .unexports n → exec .peerDomainAccess s = .next { s with
      peerExports := s.peerExports.filter fun x => x ≠ (i.n, n) }) ∧
    (i.peer = .store bs → (¬ exported bs.length → exec .peerDomainAccess s = .next s) ∧
      (exported bs.length → s.mxAlias = [] → Ends .peerDomainAccess s fun t => t.wave = s.wave ∧
        ∀ k, t.rawByte k = if a ≤ k ∧ k < a + bs.length then bs.getD (k - a) 0#8 else s.rawByte k)) ∧
    (i.peer = .counter (.add d) → (¬ (exported 8 ∧ a % 8 = 0) → exec .peerDomainAccess s = .next s) ∧
      (exported 8 → a % 8 = 0 → s.poison = [] → s.mxAlias = [] → Ends .peerDomainAccess s fun t => t.wave = s.wave ∧
        t.ctrValue a = s.ctrValue a + d ∧ ∀ k, (k < a ∨ a + 8 ≤ k) → t.rawByte k = s.rawByte k))

/-- R417, R418, R419, R415, R424: what a media engine does with the oldest message of its port: another kind's is left to
its event, one that may not name its process writes nothing, a malformed or unsupported job ends, a sound one starts, a decode
with its stream. R419, R421, R423, R315: a job's end leaves the engine idle, adds to the job's counter, or breaks it after a
stream error or an abort, and the next message is taken. R416, R420: an engine makes the next row of its picture when every
reference row that it needs is released, and reports it under the hook; else it waits, and a broken counter aborts the job.
R421, R422, R423: how a job ends that is aborted, whose stream is in error, or whose rows are all made. The model's choices (log
entry 20): status 2 comes before status 1, a malformed message before a descriptor that cannot be read, what the standards
compute is an opaque function of what the engine reads, and what an abandoned job has consumed is a free value. -/
def Obligations.MediaEvents : Prop :=
  ∀ (s u v : State) (b l st : List Byte) (rows : List (List Byte)) (m : Landed) (j : MediaJob) (key n k cause : Nat) (thr : DWord) (c : Cause)
    (needs : List (Nat × Nat)),
    let e := s.inp.n
    let die := e / 4
    let inp := s.inp
    let job := mediaJob e b m
    let full := { job with image := l }
    let next : State → State := fun t => { t with work := t.work ++ [(.mediaDecode, { n := e })] }
    let ends : Instr → State → MediaJob → Nat → Prop := fun i t j status => exec i s = .next (t.endJob j (mediaPlain status 0))
    let idle := ∀ j ∈ s.media, j.e ≠ e
    let mayName := (u.proc job.proc).isSome = true ∧ m.cls < 2 ∧ (m.sender = 0#32 ∨ m.sproc = job.proc)
    let sound := natAt b 17 3 = 0 ∧ natAt b 48 16 = 0 ∧ natAt b 40 8 < 2 ^ 63 ∧ mediaCtrOk (BitVec.ofNat 64 (natAt b 32 8)) = true
    let given : State → MediaJob → Nat → Nat → (State → Prop) → Prop := fun t j status cause p => ∃ used, used ≤ j.num 24 8 ∧
      p (({ t with fresh := t.fresh + 1 } : State).endJob j ⟨status, cause, false, used, 0, 0⟩)
    let drops : Instr → State → MediaJob → Nat → Nat → Prop := fun i t j status cause =>
      given t j status cause fun z => exec i s = .next z
    let starts : Instr → State → MediaJob → Prop := fun i t j => exec i s = .next { t with media := t.media ++ [j] }
    let takes : Instr → Prop := fun i =>
      (¬ mayName → exec i s = .next (next u)) ∧
      (mayName → u.readImage die job.proc false (natAt b 24 8) 128 = (v, .error c) →
        (¬ sound ∨ 2 ≤ job.op → ends i v job 2) ∧
        (sound → job.op < 2 → exec i s = .next (v.endJob job (mediaPlain 4 c.code)))) ∧
      (mayName → u.readImage die job.proc false (natAt b 24 8) 128 = (v, .ok l) → v.poison = [] →
        (¬ sound ∨ 2 ≤ job.op ∨ full.malformed = true → ends i v full 2) ∧
        (sound → job.op < 2 → full.malformed = false → full.unsupported = true → ends i v full 1) ∧
        (sound → job.op = 1 → full.malformed = false → full.unsupported = false → full.refs = 0 →
          let t : State := { v with fresh := v.fresh + 1 }
          let made := { full with choice := v.fresh }
          (full.conform = false ∨ Config.codecKeeps l v.fresh = true → starts i t made) ∧
          (full.conform = true → Config.codecKeeps l v.fresh = false → ends i t made 1)) ∧
        (sound → job.op = 0 → full.malformed = false → full.unsupported = false → full.refs = 0 →
          (∀ z : State, v.readImage die job.proc false (full.num 16 8) (full.num 24 8) = (z, .error c) → drops i z full 4 c.code) ∧
          ∀ z : State, v.readImage die job.proc false (full.num 16 8) (full.num 24 8) = (z, .ok st) → z.poison = [] →
            (Config.codecSupports l st = true → starts i z { full with stream := st }) ∧
            (Config.codecSupports l st = false → ends i z { full with stream := st } 1)))
    let owes : Instr → Prop := fun i => exec .mediaDecode s = .next { s with work := s.work ++ [(i, { n := e })] }
    let running := s.media.find? (fun j => decide (j.e = e)) = some j
    let free := j.waiting = none
    let setTo : State → MediaJob → State := fun t j' => { t with media := t.media.map fun k => if k.e = j.e then j' else k }
    let writes : State → List (List Byte) → State → Option Nat → Prop := fun t refs z r =>
      t.mediaFill j (j.num 32 8) (Config.codecSample j.image j.stream j.choice refs j.made) (j.written j.made) = (z, r)
    let makes : State → List (List Byte) → Prop := fun t refs =>
      (∀ z : State, writes t refs z none →
        (j.hook = false → exec .mediaRowReport s = .next (setTo z { j with made := j.made + 1 })) ∧
        (j.hook = true → exec .mediaRowReport s =
          .next ((setTo z { j with made := j.made + 1, rows := j.rows + 1 }).mediaAdd j j.rowc 1#64))) ∧
      ∀ (z : State) (cause : Nat), writes t refs z (some cause) → drops .mediaRowReport z j 4 cause
    (s.mediaHead e = none → exec .mediaDecode s = .next s) ∧
    (s.mediaHead e = some 1 → owes .mediaEncode) ∧ (s.mediaHead e = some 2 → owes .mediaReset) ∧
    (s.mediaHead e ≠ some 1 → exec .mediaEncode s = .next s) ∧ (s.mediaHead e ≠ some 2 → exec .mediaReset s = .next s) ∧
    (¬ idle → s.mediaHead e ≠ some 1 → s.mediaHead e ≠ some 2 → exec .mediaDecode s = .next s) ∧
    (¬ idle → exec .mediaEncode s = .next s) ∧
    (idle → s.takeRole die (.media e) = some (u, b, m) →
      (s.mediaHead e = some n → n ≠ 1 → n ≠ 2 → takes .mediaDecode) ∧ (s.mediaHead e = some 1 → takes .mediaEncode)) ∧
    (s.mediaHead e = some 2 → s.takeRole die (.media e) = some (u, b, m) →
      let counted : State → State := fun t => t.count die (0x20000 + 8 * (e % 4))
      let adds : State → State := fun t =>
        next (t.mediaAdd job (BitVec.ofNat 64 (natAt b 32 8)) (BitVec.ofNat 64 (natAt b 40 8)))
      let resets := sound ∧ natAt b 24 8 = 0 ∧ (m.sender = 0#32 ∨ m.spriv = true)
      (¬ mayName → exec .mediaReset s = .next (next u)) ∧
      (mayName → ¬ resets → exec .mediaReset s = .next (adds u)) ∧
      (mayName → resets → (∀ j ∈ u.media, j.e ≠ e) → exec .mediaReset s = .next (adds (counted u))) ∧
      (mayName → resets → u.media.find? (fun j => decide (j.e = e)) = some j →
        given u j 5 0 fun z => exec .mediaReset s = .next (adds (counted z)))) ∧
    (j.image = [] → j.ctr.toNat / 2 ^ 60 = 9 → s.refKey j.proc j.ctr = some key → s.poison = [] →
      (∀ status, status ≠ 3 → status ≠ 6 → let t := s.endJob j (mediaPlain status 0)
        t.ctrValue key = s.ctrValue key + j.delta ∧ (∀ i ∈ t.media, i.e ≠ j.e) ∧ (.mediaDecode, { n := j.e }) ∈ t.work) ∧
      (∀ status, status = 3 ∨ status = 6 → j.hook = false → s.ctrStatus key = .ok → let t := s.endJob j (mediaPlain status 0)
        t.ctrStatus key = .faulted ∧ t.mem = s.mem ∧ (∀ i ∈ t.media, i.e ≠ j.e) ∧ ∃ r ∈ t.engRecords, r.key = key ∧ r.cause = 14)) ∧
    (running → free → j.total ≤ j.made → exec .mediaRowReport s = .next s) ∧
    (running → free → j.made < j.total → j.refs = 0 → makes s []) ∧
    (running → free → j.made < j.total → j.needs = (n, k) :: needs →
      s.refWait j n k = (u, .ok (some (key, thr))) →
      let seen := u.ctrRead key
      let hit := (seen.1.toNat + 2 ^ 64 - thr.toNat) % 2 ^ 64 < 2 ^ 63
      (seen.2 ≠ .ok → drops .mediaRowReport u j 6 0) ∧
      (seen.2 = .ok → ¬ hit → exec .mediaRowReport s = .next { setTo u { j with waiting := some key } with
        waiters := u.waiters ++ [⟨key, thr, .media j.e⟩] }) ∧
      (seen.2 = .ok → hit → needs = [] → u.refRows j [(n, k)] = (v, .ok rows) → makes v rows)) ∧
    (running → j.waiting = some key →
      ((∃ w ∈ s.waiters, w.party = .media e) → exec .mediaRelcWake s = .next s) ∧
      ((∀ w ∈ s.waiters, w.party ≠ .media e) →
        (inp.ok = false ∨ (s.ctrRead key).2 ≠ .ok → drops .mediaRelcWake s j 6 0) ∧
        (inp.ok = true → (s.ctrRead key).2 = .ok →
          exec .mediaRelcWake s = exec .mediaRowReport (setTo s { j with waiting := none })))) ∧
    (running → free → exec .mediaRelcWake s = .next s) ∧
    (idle → exec .mediaJobComplete s = .next (if inp.m = 6 then s.count die (0x20000 + 8 * (e % 4)) else s)) ∧
    (running → inp.m = 6 → drops .mediaJobComplete s j 6 0) ∧
    (running → ¬ free → inp.m ≠ 6 → exec .mediaJobComplete s = .next s) ∧
    (running → free → inp.m ≠ 6 → j.op = 1 →
      (j.made < j.total → exec .mediaJobComplete s = .next s) ∧
      (j.total ≤ j.made → let out := (Config.codecStream j.image j.choice).take (j.num 24 8)
        (s.mediaWrite j (j.num 16 8) out = (u, some cause) → drops .mediaJobComplete u j 4 cause) ∧
        (s.mediaWrite j (j.num 16 8) out = (u, none) → exec .mediaJobComplete s =
          .next (u.endJob j ⟨0, 0, Config.codecShown j.image j.stream j.choice, out.length, 0, 0⟩)))) ∧
    (running → free → inp.m ≠ 6 → j.op = 0 → j.conform = false →
      let used := min (Config.codecUsed j.image j.stream) (j.num 24 8)
      (∀ bit, Config.codecError j.image j.stream = some bit → exec .mediaJobComplete s = .next (s.endJob j ⟨3, 0, false, used, bit, 0⟩)) ∧
      (Config.codecError j.image j.stream = none →
        (j.made < j.total → exec .mediaJobComplete s = .next s) ∧
        (j.total ≤ j.made → j.num 80 8 = 0 → exec .mediaJobComplete s = .next (s.endJob j
          ⟨0, 0, Config.codecShown j.image j.stream j.choice, used, (Config.codecBreach j.image j.stream).getD 0,
            ((Config.codecGrain j.image j.stream).getD 0#32).toNat⟩))))

/-- R425, R436: readiness cells in their order, with the frame and window 15 over it from the first report on, and the HKU's
process. R428: rails, and a cluster's retirement. R429: a field test's first and second mismatch; only a kernel of the set in
use is run. R430: an image or a set of test kernels that passes, signed by the keys that the fuses know, is staged and, when
activated, runs and raises the minimum. R431: the responder's replies. R433, R434: the cap's bounds, and a trip, after which
the machine stops until a reset. R154: what a reset leaves. The model's choices: how images are staged and activated (log
entry 42), the fault of a machine that has no power (log entry 44), what the replies of R431 carry, in part free values (log
entry 41), and what a reset keeps, the model's own plan and counters among it (log entry 9). -/
def Obligations.ManagementEvents : Prop :=
  ∀ (s u : State) (img : FwImage) (ph : Handle),
    let inp := s.inp
    let die := inp.die
    let n := inp.n
    let base := 0x8000000000 * die + 0x5568000000 + 0x14200000
    let cell : Nat → Nat := fun i => base + 8 * i
    let up : Nat → Prop := fun i => s.ctrValue (cell i) = 1#64
    let okay := s.ctrStatus (cell n) = .ok
    let entry := 2 ^ 23 * die + 0x200 + 8 * n
    let railOf := (Sparse.get 0#64 s.mwin entry).toNat / 2 ^ 16 % 2 ^ 8
    let live := (Sparse.get 0#64 s.mwin entry).getLsbD 24 = false
    let sets : Nat → State := fun rail =>
      { s with mwin := Sparse.put 0#64 s.mwin entry (BitVec.ofNat 64 (inp.size % 2 ^ 16 + rail % 2 ^ 8 * 2 ^ 16)) }
    let frame := base / 65536
    let opened : State := if Sparse.get 0#64 s.mwin (2 ^ 23 * die) ≠ 0#64 then s else { s with
      mwin := Sparse.put 0#64 s.mwin (2 ^ 23 * die) 1#64,
      window := Sparse.put 0#128 s.window (die * 16 + 15) (BitVec.ofNat 128 (2 ^ 127 + frame * 2 ^ 64 + frame)) }
    let crc := crc64 inp.bytes
    let passed := crc = inp.val.toNat % 2 ^ 64
    let again := Sparse.get false s.retest (6 * die + n)
    let sound := img.digestOk = true ∧ img.rsaOk = true ∧ img.rsaKey = s.fuseRsa ∧ img.slhOk = true ∧ img.slhKey = s.fuseSlh ∧
      s.fwMin ≤ img.version
    let sends : Instr → SpdmReply → Prop := fun i r => exec i s = .next { s with spdm := s.spdm ++ [r] }
    let tells : Instr → (DWord → SpdmReply) → Prop := fun i f =>
      ∃ v, exec i s = .next { s with spdm := s.spdm ++ [f v], fresh := s.fresh + 1 }
    (19 ≤ n ∨ up n ∨ ¬ okay → exec .readinessReport s = .next opened) ∧
    (n < 19 → ¬ up n → okay → inp.ok = false → s.mxAlias = [] → Ends .readinessReport s fun t =>
      t.ctrStatus (cell n) = .faulted ∧ t.mem = s.mem ∧ t.wave = s.wave ∧ t.window = opened.window ∧ t.mwin = opened.mwin) ∧
    (0 < n → n < 19 → ¬ up n → okay → inp.ok = true → s.poison = [] → s.mxAlias = [] →
      (up 0 → (n = 1 ∨ up 1) → Ends .readinessReport s fun t => t.ctrValue (cell n) = s.ctrValue (cell n) + 1#64 ∧
        t.wave = s.wave ∧ ∀ k, (k < cell n ∨ cell n + 8 ≤ k) → t.rawByte k = s.rawByte k) ∧
      (¬ up 0 ∨ (n ≠ 1 ∧ ¬ up 1) → exec .readinessReport s = .next opened)) ∧
    (n = 0 → die < 2 → ¬ up 0 → okay → inp.ok = true → inp.bytes = [] → s.newHandle 1 die = some ph →
      Ends .readinessReport s fun t => t.waves = s.waves ∧ (∃ p ∈ t.procs, p.hdl = ph ∧ p.parent = 0#32 ∧
        p.quota = List.replicate 5 (2 ^ 20 - 1)) ∧ t.window = opened.window) ∧
    (n < 6 → live → (15 ≤ inp.size → exec .slackMonitor s = .next (sets railOf)) ∧
      (inp.size < 15 → railOf < 10 → exec .slackMonitor s = .next (sets (railOf + 1))) ∧
      (inp.size < 15 → 10 ≤ railOf → exec .slackMonitor s = exec .clusterRetirement (sets railOf))) ∧
    (6 ≤ n ∨ ¬ live → exec .slackMonitor s = .next s ∧ exec .clusterRetirement s = .next s ∧ exec .fieldTestResult s = .next s) ∧
    (n < 6 → live → s.teams = [] → (∀ w ∈ s.allWaves, w.die ≠ die ∨ w.cluster ≠ n) → s.ctrStatus (cell (2 + n)) = .ok →
      s.mxAlias = [] →
      (let gone : State → Prop := fun t => t.clusterRetired die n = true ∧ t.ctrStatus (cell (2 + n)) = .faulted
       (Ends .clusterRetirement s fun t => gone t ∧ t.eseq.get die = s.eseq.get die + 1) ∧
       (inp.m ≠ 1 → ¬ passed → again = true → Ends .fieldTestResult s fun t => gone t ∧
         t.eseq.get die = s.eseq.get die + 2 ∧ Sparse.get false t.retest (6 * die + n) = false))) ∧
    (n < 6 → live → inp.m ≠ 1 → passed ∨ (again = false ∧ inp.pa ∉ s.testKernels) →
      Ends .fieldTestResult s fun t => t.wave = s.wave ∧ t.waves = s.waves ∧ t.grids = s.grids ∧ t.work = s.work ∧
        t.eseq.get die = s.eseq.get die + 1 ∧ (Sparse.get false t.retest (6 * die + n) = true ↔ ¬ passed)) ∧
    (n < 6 → live → inp.m = 1 → inp.pa ∉ s.testKernels → exec .fieldTestResult s = .next s) ∧
    (n < 6 → live → inp.m = 1 → inp.pa ∈ s.testKernels → (∃ p, s.proc inp.h = some p ∧ p.parent = 0#32) →
      s.launch die inp.h 0#32 true inp.pa = (u, 0) → Ends .fieldTestResult s fun t => t.waves = u.waves ∧ t.mem = u.mem ∧
        t.grids.map (·.uid) = u.grids.map (·.uid) ∧
        ∀ g ∈ t.grids, (∀ o ∈ s.grids, o.uid ≠ g.uid) → g.test = true ∧ g.kernel.prio = 7) ∧
    (inp.img = some img → (¬ sound → exec .firmwareImageUpdate s = .next s) ∧
      (sound → img.activate = false → exec .firmwareImageUpdate s = .next (if img.tests
        then { s with testStaged := some (img.version, img.kernels) } else { s with fwStaged := some img.version })) ∧
      (sound → img.activate = true → exec .firmwareImageUpdate s = .next (if img.tests
        then { s with testVersion := img.version, testKernels := img.kernels, fwMin := max s.fwMin img.version, testStaged := none }
        else { s with fwVersion := img.version, fwMin := max s.fwMin img.version, fwStaged := none }))) ∧
    (inp.img = none → s.fwStaged = none → s.testStaged = none → exec .firmwareImageUpdate s = .next s) ∧
    sends .spdmGetVersion (.version 1 3) ∧ sends .spdmGetCapabilities .capabilities ∧
    sends .spdmNegotiateAlgorithms (.algorithms .ecdsaP384 .sha384) ∧
    tells .spdmGetDigests .digests ∧ tells .spdmGetCertificate .certificate ∧ tells .spdmChallenge .challengeAuth ∧
    tells .spdmGetMeasurements (.measurements s.blocks s.retiredClusters) ∧ s.blocks.length = 4 ∧
    (∀ i, i ∈ s.retiredClusters ↔ i < 12 ∧
      (Sparse.get 0#64 s.mwin (2 ^ 23 * (i / 6) + 0x200 + 8 * (i % 6))).getLsbD 24 = true) ∧ tells .spdmKeyExchange .keyExchange ∧
    tells .spdmFinish .finish ∧
    (1200 ≤ n ∧ n ≤ 2400 → exec .powerCapWrite s = .next { s with powerCap := n }) ∧
    (n < 1200 ∨ 2400 < n → exec .powerCapWrite s = .next s) ∧
    exec .thermalTrip s = .next { s with tripped := true, hostDown := ⟨true, true⟩ } ∧
    (s.tripped = true → s.resets = false → step s = .fault .poweredOff) ∧
    Ends .deviceReset s fun t => t.clock = ⟨0, 0⟩ ∧ t.wave = Wave.blank ∧ t.waves = [] ∧ t.mem = [] ∧ t.cst = [] ∧
      t.poison = [] ∧ t.l1 = [] ∧ t.tags = [] ∧ t.gens = [] ∧ t.procs = [] ∧ t.teams = [] ∧ t.grids = [] ∧ t.ports = [] ∧
      t.sets = [] ∧ t.timers = [] ∧ t.codes = [] ∧ t.tlb = [] ∧ t.atc = [] ∧ t.names = [] ∧ t.engs = [] ∧ t.mmas = [] ∧
      t.media = [] ∧ t.mxAlias = [] ∧ t.window = [] ∧ t.hostw = [] ∧ t.pasid = [] ∧ t.mwin = [] ∧ t.exports = [] ∧
      t.bars = [] ∧ t.ethDown = [] ∧ t.fuseRsa = s.fuseRsa ∧ t.fuseSlh = s.fuseSlh ∧ t.tripped = false ∧ t.fwStaged = none ∧ t.testStaged = none ∧ t.agenda = s.agenda ∧
      (s.fwStaged = none → t.fwVersion = s.fwVersion ∧ (s.testStaged = none → t.fwMin = s.fwMin ∧ t.testKernels = s.testKernels))

/-- R179 to R192: words that the spec writes out, one or more of each family, decode to the instruction they stand for;
R194, R195: words that it calls reserved decode to none, and an unassigned opcode is UNDEF_OP's. -/
def Obligations.DecodedWords : Prop :=
  let none' : Slots := ⟨false, 0#3, 0#8⟩
  let reads : Word → Word → Instr → Prop := fun w x i => decode w x = .ok i
  let rejects : Word → Word → Prop := fun w x => decode w x = .error .illRsvd
  reads 0x00000000#32 0#32 .nop ∧ reads 0x01FFFFF9#32 0#32 (.br 0xFFFFF9#24) ∧
  reads 0x02020000#32 3#32 (.bcc .lt 3#32) ∧ reads 0x10060404#32 0#32 (.sadd 6#8 4#8 4#8) ∧
  reads 0x1E040001#32 0x80000000#32 (.sliZ 4#8 0x80000000#32) ∧ reads 0x22000102#32 1#32 (.setmPart 1#6 1#32) ∧
  reads 0x23080100#32 0#32 (.getmCc 8#8) ∧ reads 0x35075000#32 0#32 (.kpop 7#8 0x50#8) ∧
  reads 0x40140203#32 0#32 (.vadd 20#8 2#8 3#8) ∧ reads 0x70050406#32 0#32 (.vfadd 5#8 4#8 6#8) ∧
  reads 0x92060200#32 0xD0#32 (.vred .add 5#3 true 6#8 2#8) ∧ reads 0x95000E0F#32 0#32 (.regrp 14#8 15#8) ∧
  reads 0xA0040102#32 0x00040800#32 (.ld 4#8 1#8 2#8 ⟨0#10, 0#2, .b32, .none, .wave, ⟨true, 0#3, 0#8⟩⟩) ∧
  reads 0xA6410400#32 0#32 (.xlat 1#4 4#8) ∧
  reads 0xB8040206#32 0x00040000#32 (.atomAddRet 4#8 2#8 6#8 ⟨0#10, 0#2, .b32, .none, .wave, none'⟩) ∧
  reads 0xC00640F0#32 0x08071000#32 (.cadd 6#8 0x40#8 0xF0#8 ⟨32#10, 0#2, .b64, .rel, .team, none'⟩) ∧
  reads 0xC8106006#32 0x00080900#32 (.tld 0x10#8 0x60#8 6#8 ⟨0#10, 0#2, .b128, .none, .wave, ⟨true, 1#3, 0#8⟩⟩) ∧
  reads 0xCD581011#32 8#32 (.mma 0x58#8 0x10#8 0x11#8 8#6 false false false) ∧
  reads 0xE1080502#32 0x900#32 (.xcpm 8#8 5#8 2#8 ⟨true, 1#3, 0#8⟩) ∧ reads 0xF5000300#32 0#32 (.odel 3#8) ∧
  rejects 0x700504FF#32 0#32 ∧ rejects 0xA0040102#32 0x000A0000#32 ∧ rejects 0xA0040102#32 0x00041000#32 ∧
  rejects 0xA9010100#32 0#32 ∧ reads 0xFFFFFFFF#32 0#32 (.unassignedOpcode 0xFFFFFFFF#32)

/-- R179, R183 to R192: decoding an encoded well-formed instruction gives it back, every field at every value that it
admits; and words of an assigned opcode that decode are the encoding of what they decode to, so no two instructions share
a word. -/
def Obligations.EncodingRoundTrip : Prop :=
  (∀ (i : Instr) (w x : Word), i.wf = true → encodePair i = some (w, x) →
    decode w x = .ok i ∧ (encode i).length = if isLong (opOf w) then 2 else 1) ∧
  ∀ (i : Instr) (w x : Word), assigned (opOf w) = true → (isLong (opOf w) = false → x = 0#32) → decode w x = .ok i →
    i.wf = true ∧ encodePair i = some (w, x)

/-- R179, R5, R194, R195: a step at a wave's turn, with no interrupt due and nothing that holds its instruction, runs the instruction that the words at its PC
decode to, on the state after the fetch and with the issue noted; reserved words trap ILL_RSVD, and a word whose opcode is
not assigned, or barred, is the instruction that traps UNDEF_OP. -/
def Obligations.StepRunsDecoded : Prop :=
  ∀ (s u u' : State) (rest : List Turn) (h : Handle) (key key' : Nat) (w x : Word) (i : Instr),
    s.tripped = false → s.agenda = .issue h :: rest →
    let start : State := { s with agenda := rest, clock := advanceClock s.clock Config.tick Config.tick }
    let now := start.turnTo h
    let fetched : State := { u with iword := w, iext := 0#32 }
    let runs : Instr → State → Prop := fun i v => step s = exec i (v.noteIssue (slotB v.opcode))
    now.wave.hdl = h → now.wave.ready = true → now.wave.interruptDue = false →
    now.held now.wave = false → now.fetchKey now.wave.pc.toNat = (u, .ok key) → u.poisoned key = false → w.toNat = u.rawNat key 4 →
    ((assigned (opOf w) && u.allowed now.wave.pc.toNat key (opOf w)) = false → runs (.unassignedOpcode w) fetched) ∧
    ((assigned (opOf w) && u.allowed now.wave.pc.toNat key (opOf w)) = true →
      (isLong (opOf w) = false →
        (decode w 0#32 = .ok i → runs i fetched) ∧
        (decode w 0#32 = .error .illRsvd → step s = .next (fetched.trap .illRsvd))) ∧
      (isLong (opOf w) = true → fetched.fetchKey (now.wave.pc + 4#64).toNat = (u', .ok key') → u'.poisoned key' = false →
        x.toNat = u'.rawNat key' 4 →
        (decode w x = .ok i → runs i { u' with iext := x }) ∧
        (decode w x = .error .illRsvd → step s = .next (({ u' with iext := x } : State).trap .illRsvd))))

/-- R435, R2: every step keeps the clock counters of the two dies within 2 ns of each other, and takes neither back, but
that a reset sets both to 0. Every step keeps the one form in which the model lists memory (log entry 2): addresses strictly
rising, and no byte listed that reads as an unlisted one. -/
def Obligations.ClocksKept : Prop :=
  ∀ s t : State, step s = .next t →
    (ClocksAgree s → ClocksAgree t ∧ (t.clock = ⟨0, 0⟩ ∨ (s.clock.c0 ≤ t.clock.c0 ∧ s.clock.c1 ≤ t.clock.c1))) ∧
    (MemoryCanonical s → MemoryCanonical t)

/-- R154, R404, R405, R411, R413, R425: after a reset the tables of the device registers read 0, no generation is above 1, no
cell reports and datagrams go to UDP port 52,003. The model's choices, log entries 2, 9 and 11: memory reads 0, both clocks are 0, no wave exists, the cap is
2,400 W. The state meets the invariants of the other statements. -/
def Obligations.ResetState : Prop :=
  let s := State.reset
  ClocksAgree s ∧ MemoryCanonical s ∧ s.wave = Wave.blank ∧ s.waves = [] ∧ s.procs = [] ∧
  (∀ k, s.rawByte k = 0#8) ∧ (∀ k, s.ctrValue k = 0#64 ∧ s.ctrStatus k = .ok) ∧ (∀ k, Sparse.get 1 s.gens k = 1) ∧
  (∀ d o, 0x200000 ≤ o → s.regWord d o = 0#64) ∧
  s.hostDown = ⟨false, false⟩ ∧ s.powerCap = 2400 ∧ s.datagramPort = 52003 ∧ s.clock = ⟨0, 0⟩ ∧ s.tripped = false

/-- R222, R223, R270, R271, R275: SETM with a legal new mode, SETM.CC, GETM and its cc form, FENCE in its three forms and
FENCEX, of a wave of no pair whose L1 holds no sector in error, and SPRESZ of a privileged wave, whatever it asks, each
complete: the wave stands behind the instruction with its vector, mask, translation and tile registers as they were, but
for a mask register that is the destination, and no other wave changes. -/
def Obligations.ModeFenceAndPoolFormsComplete : Prop :=
  ∀ (s : State) (a b : BitVec 8) (mask : BitVec 6) (lit : Word) (sc : Scope) (p c : BitVec 3),
    let w := s.wave
    let legal : Word → Prop := fun m => m.toNat / 8 % 32 ≤ 14 ∧ m.toNat / 256 % 8 ≤ 5 ∧ m.toNat / 8192 % 8 = 0
    let completes : Nat → Bool → Instr → Prop := fun n dst i => ∃ t, exec i s = .next t ∧
      t.wave.pc = w.pc + BitVec.ofNat 64 n ∧ t.wave.v = w.v ∧ t.wave.x = w.x ∧ t.wave.tile = w.tile ∧ t.waves = s.waves ∧
      (dst = false ∨ a.toNat < 0x50 → t.wave.k = w.k) ∧ (dst = false ∨ 0x50 ≤ a.toNat → t.wave.s = w.s)
    (Unstruck s → legal lit → completes 8 false (.setm lit)) ∧
    (Unstruck s → legal ((s.readU b).setWidth 32) → completes 8 false (.setmSrc b)) ∧
    (Unstruck s → legal ((w.mode &&& ~~~(modeMask mask)) ||| (lit &&& modeMask mask)) →
      completes 8 false (.setmPart mask lit)) ∧
    (Unstruck s → completes 8 false (.setmCc b) ∧ completes 4 true (.getm a) ∧ completes 4 true (.getmCc a)) ∧
    (w.pair = none → (∀ e ∈ s.l1, e.core = w.coreNo → e.bad = false) →
      ∀ i ∈ [.fenceAcq sc, .fenceRel sc, .fenceFull sc, .fencex p c], completes 4 false i) ∧
    (w.priv = true → completes 4 true (.spresz a b))

/-- R272, R273, R274, R278, R279, R280: every form of ATOM and ATOMU of a width that its operation takes under the element
type, STAG, STAGSET and STAGINV on entries of the team's table, CPOLL, and CWAIT in its two forms at a counter that is
reached or broken, each complete where their accesses are reached: the slot is set, the wave stands behind the
instruction, or at its continuation, and no byte of memory outside the cells named changes. -/
def Obligations.AtomicTagAndWaitFormsComplete : Prop :=
  ∀ (s u : State) (a base b c : BitVec 8) (x : MemExt) (o : OrdExt) (t : Team) (hits : List Hit) (h : Hit),
    let w := s.wave
    let n := if x.width = .b64 then 2 else 1
    let z := x.width.bytes
    let integer := x.width = .b32 ∧ (w.etype = .i32 ∨ w.etype = .n32) ∨ x.width = .b64 ∧ (w.etype = .i64 ∨ w.etype = .n64)
    let float := x.width = .b16 ∧ (w.etype = .f16 ∨ w.etype = .bf16) ∨ x.width = .b32 ∧ w.etype = .f32 ∨
      x.width = .b64 ∧ w.etype = .f64
    let laneForms : AtomOp → List Instr := fun op => match op with
      | .add => [.atomAdd a base c x, .atomAddRet a base c x] | .fadd => [.atomFadd a base c x, .atomFaddRet a base c x]
      | .min => [.atomMin a base c x, .atomMinRet a base c x] | .max => [.atomMax a base c x, .atomMaxRet a base c x]
      | .and => [.atomAnd a base c x, .atomAndRet a base c x] | .or => [.atomOr a base c x, .atomOrRet a base c x]
      | .xor => [.atomXor a base c x, .atomXorRet a base c x]
    let uniForms : AtomOp → List Instr := fun op => match op with
      | .add => [.atomuAdd a base x, .atomuAddRet a base x] | .fadd => [.atomuFadd a base x, .atomuFaddRet a base x]
      | .min => [.atomuMin a base x, .atomuMinRet a base x] | .max => [.atomuMax a base x, .atomuMaxRet a base x]
      | .and => [.atomuAnd a base x, .atomuAndRet a base x] | .or => [.atomuOr a base x, .atomuOrRet a base x]
      | .xor => [.atomuXor a base x, .atomuXorRet a base x]
    let completes : List Hit → DWord → Slots → Instr → Prop := fun cells pc y i => ∃ e, exec i s = .next e ∧
      e.wave.pc = pc ∧ e.wave.slots = slotsSet y u.wave.slots ∧ e.wave.x = u.wave.x ∧ e.wave.tile = u.wave.tile ∧
      e.wave.mode = u.wave.mode ∧ e.waves = u.waves ∧ ∀ k, (∀ g ∈ cells, ¬ covers g z k) → e.rawByte k = u.rawByte k
    let after' : DWord := u.wave.pc + 8#64
    (NoMmas s → Plain u → u.poison = [] → u.wave.etype = w.etype → ∀ op, (if op = .fadd then float else integer) →
      (inBudget w n a → srcFits w (if MBase.wide base then 2 else 1) c → (hits.map (·.pos)).Nodup →
        Reaches (afterWait s x.slots) (atomForm false op base c x) (fun _ => false) u hits →
        ∀ i ∈ laneForms op, completes hits after' x.slots i) ∧
      (Reaches (afterWait s x.slots) (atomForm true op base 0#8 x) (fun _ => false) u [h] →
        ∀ i ∈ uniForms op, completes [h] after' x.slots i)) ∧
    (u = withWave s { w with slots := w.slots &&& ~~~o.slots.wait } → WorksIn s w.lanes → s.team w.team = some t →
      (dstFits w 1 a → srcFits w 2 b → completes [] after' o.slots (.stag a b o)) ∧
      (dstFits w 1 a → srcFits w 2 b → srcFits w 1 c → 0 < t.tags →
        completes [] after' o.slots (.stagset a b c o)) ∧
      (srcFits w 1 b → (∀ i ∈ w.lanes, laneOf w b 1 i = 0xFFFFFFFF ∨ laneOf w b 1 i < t.tags) →
        completes [] after' o.slots (.staginv b o))) ∧
    (Plain u → u.poison = [] → u.engRecords = [] →
      let isOver := ((u.ctrValue h.key).toNat + 2 ^ 64 - (s.readU a).toNat) % 2 ^ 64 < 2 ^ 63 ∨ u.ctrStatus h.key ≠ .ok
      (Reaches (afterWait s x.slots) (ctrForm true .ctrRead base c x false) (fun _ => false) u [h] →
        completes [] after' x.slots (.cpoll a base c x) ∧ (isOver → completes [] after' x.slots (.cwait a base c x))) ∧
      ((s.readU c).toNat % 4 = 0 → Reaches (afterWait s x.slots) (ctrForm true .ctrRead base 0#8 x false) (fun _ => false) u [h] →
        isOver → completes [] (s.readU c) x.slots (.cwaitCont a base c x)))
end

