-- ==== Sys2Proof/Laws/Decode.lean ====
section
/-! SUPPORT. Encodings read back: the codes of every enumeration, the fields of a base word, and the extension words. -/

namespace Sys2Proof

/-! ### Codes -/

@[simp] theorem Scope.ofCode_toCode (x : Scope) : Scope.ofCode x.toCode = x := by cases x <;> rfl
@[simp] theorem Order.ofCode_toCode (x : Order) : Order.ofCode x.toCode = x := by cases x <;> rfl
@[simp] theorem Width.ofCode_toCode (x : Width) : Width.ofCode x.toCode = some x := by cases x <;> rfl
@[simp] theorem Cond.ofCode_toCode (x : Cond) : Cond.ofCode x.toCode = some x := by cases x <;> rfl
@[simp] theorem ICond.ofCode_toCode (x : ICond) : ICond.ofCode x.toCode = some x := by cases x <;> rfl
@[simp] theorem FCond.ofCode_toCode (x : FCond) : FCond.ofCode x.toCode = some x := by cases x <;> rfl
@[simp] theorem ShflKind.ofCode_toCode (x : ShflKind) : ShflKind.ofCode x.toCode = some x := by cases x <;> rfl
@[simp] theorem RedOp.ofCode_toCode (x : RedOp) : RedOp.ofCode x.toCode = some x := by cases x <;> rfl
@[simp] theorem EType.ofCode_toCode (x : EType) : EType.ofCode x.toCode = some x := by cases x <;> rfl
@[simp] theorem PackFmt.ofCode_toCode (x : PackFmt) : PackFmt.ofCode x.toCode = some x := by cases x <;> rfl
@[simp] theorem TcvtFmt.ofCode_toCode (x : TcvtFmt) : TcvtFmt.ofCode x.toCode = some x := by cases x <;> rfl
@[simp] theorem TRnd.ofCode_toCode (x : TRnd) : TRnd.ofCode x.toCode = x := by cases x <;> rfl

@[simp] theorem kField_kCode (k : BitVec 3) : kField (kCode k) = some k := by revert k; decide
@[simp] theorem xField_xCode (x : BitVec 4) : xField (xCode x) = some x := by revert x; decide
@[simp] theorem bit_getLsbD (b : Bool) : (bit b).getLsbD 0 = b := by cases b <;> rfl

/-! ### Fields of words laid side by side -/

/-- A field that lies wholly in the low part. -/
theorem extract_append_low {n m : Nat} (a : BitVec n) (b : BitVec m) (i k : Nat) (h : i + k ≤ m) :
    (a ++ b).extractLsb' i k = b.extractLsb' i k := by
  ext j hj
  simp only [BitVec.getElem_extractLsb', BitVec.getLsbD_append]
  rw [if_pos (by omega)]

/-- A field that lies wholly in the high part. -/
theorem extract_append_high {n m : Nat} (a : BitVec n) (b : BitVec m) (i k : Nat) (h : m ≤ i) :
    (a ++ b).extractLsb' i k = a.extractLsb' (i - m) k := by
  ext j hj
  simp only [BitVec.getElem_extractLsb', BitVec.getLsbD_append]
  rw [if_neg (by omega), show i + j - m = i - m + j by omega]

theorem extract_self {n : Nat} (a : BitVec n) : a.extractLsb' 0 n = a := by
  ext j hj
  simp

theorem getLsbD_append_low {n m : Nat} (a : BitVec n) (b : BitVec m) (i : Nat) (h : i < m) :
    (a ++ b).getLsbD i = b.getLsbD i := by
  rw [BitVec.getLsbD_append, if_pos h]

theorem getLsbD_append_high {n m : Nat} (a : BitVec n) (b : BitVec m) (i : Nat) (h : m ≤ i) :
    (a ++ b).getLsbD i = a.getLsbD (i - m) := by
  rw [BitVec.getLsbD_append, if_neg (by omega)]

section Base

variable (op a b c : BitVec 8)

@[simp] theorem opOf_base : opOf (base op a b c) = op := by
  simp only [opOf, base]
  rw [extract_append_high _ _ _ _ (by decide)]
  exact extract_self op

@[simp] theorem fieldA_base : fieldA (base op a b c) = a := by
  simp only [fieldA, base]
  rw [extract_append_low _ _ _ _ (by decide), extract_append_high _ _ _ _ (by decide)]
  exact extract_self a

@[simp] theorem fieldB_base : fieldB (base op a b c) = b := by
  simp only [fieldB, base]
  rw [extract_append_low _ _ _ _ (by decide), extract_append_low _ _ _ _ (by decide),
    extract_append_high _ _ _ _ (by decide)]
  exact extract_self b

@[simp] theorem fieldC_base : fieldC (base op a b c) = c := by
  simp only [fieldC, base]
  rw [extract_append_low _ _ _ _ (by decide), extract_append_low _ _ _ _ (by decide),
    extract_append_low _ _ _ _ (by decide)]
  exact extract_self c

@[simp] theorem opOf_baseWB (o : BitVec 24) : opOf (baseWB op o) = op := by
  simp only [opOf, baseWB]
  rw [extract_append_high _ _ _ _ (by decide)]
  exact extract_self op

@[simp] theorem offWB_baseWB (o : BitVec 24) : offWB (baseWB op o) = o := by
  simp only [offWB, baseWB]
  rw [extract_append_low _ _ _ _ (by decide)]
  exact extract_self o

/-- A base word is its four fields. -/
theorem base_fields (w : Word) : base (opOf w) (fieldA w) (fieldB w) (fieldC w) = w := by
  simp only [base, opOf, fieldA, fieldB, fieldC]
  ext i hi
  have e : ∀ j, j = i → w.getLsbD j = w[i] := fun j hj => by subst hj; exact BitVec.getLsbD_eq_getElem hi
  simp only [BitVec.getElem_append, BitVec.getElem_extractLsb']
  repeat' split
  all_goals exact e _ (by omega)

end Base

/-! ### Extension words (R190, R274) -/

/-- Slot controls in the low 12 bits of any word. -/
@[simp] theorem Slots.decode_encode (h : BitVec 20) (x : Slots) : Slots.decode (h ++ x.encode) = x := by
  obtain ⟨set, slot, wait⟩ := x
  simp (disch := decide) only [Slots.decode, Slots.encode, extract_append_low, extract_append_high, getLsbD_append_low,
    getLsbD_append_high]
  simp only [Nat.reduceAdd, Nat.reduceSub, extract_self, bit_getLsbD]

@[simp] theorem MemExt.decode_encode (x : MemExt) : MemExt.decode x.encode = some x := by
  obtain ⟨imm, policy, width, order, scope, ⟨set, slot, wait⟩⟩ := x
  simp (disch := decide) only [MemExt.decode, MemExt.encode, Slots.decode, Slots.encode, extract_append_low,
    extract_append_high, getLsbD_append_low, getLsbD_append_high]
  simp only [Nat.reduceAdd, Nat.reduceSub, extract_self, bit_getLsbD, Width.ofCode_toCode, Order.ofCode_toCode, Scope.ofCode_toCode,
    Option.map_some]

@[simp] theorem OrdExt.decode_encode (x : OrdExt) : OrdExt.decode x.encode = some x := by
  obtain ⟨order, scope, ⟨set, slot, wait⟩⟩ := x
  simp (disch := decide) only [OrdExt.decode, OrdExt.encode, Slots.decode, Slots.encode, extract_append_low,
    extract_append_high, getLsbD_append_low, getLsbD_append_high]
  simp only [Nat.reduceAdd, Nat.reduceSub, extract_self, bit_getLsbD, Order.ofCode_toCode, Scope.ofCode_toCode, ↓reduceIte]

end Sys2Proof
end

