-- ==== Sys2Proof/Laws/Sparse.lean ====
section
/-! SUPPORT. Laws of finite maps: a read after a write, and the canonical form, which every operation keeps. -/

namespace Sys2Proof.Machine.Sparse

variable {α : Type}

theorem get_erase_same (d : α) (m : Sparse α) (k : Nat) : get d (erase m k) k = d := by
  induction m with
  | nil => rfl
  | cons e t ih =>
    obtain ⟨a, v⟩ := e
    by_cases h : a = k
    · simp only [erase, if_pos h, ih]
    · simp only [erase, if_neg h, get, ih]

theorem get_erase_other (d : α) (m : Sparse α) (k j : Nat) (h : j ≠ k) : get d (erase m k) j = get d m j := by
  induction m with
  | nil => rfl
  | cons e t ih =>
    obtain ⟨a, v⟩ := e
    by_cases ha : a = k
    · have : a ≠ j := fun e => h (e.symm.trans ha)
      simp only [erase, if_pos ha, ih, get, if_neg this]
    · simp only [erase, if_neg ha, get, ih]

theorem get_insert_other (d : α) (m : Sparse α) (k j : Nat) (v : α) (h : j ≠ k) :
    get d (insert m k v) j = get d m j := by
  induction m with
  | nil => simp only [insert, get, if_neg (Ne.symm h)]
  | cons e t ih =>
    obtain ⟨a, w⟩ := e
    by_cases ha : k < a
    · simp only [insert, if_pos ha]
      rw [get, if_neg (Ne.symm h)]
    · simp only [insert, if_neg ha, get, ih]

theorem get_insert_same (d : α) (m : Sparse α) (k : Nat) (v : α) (h : ∀ e ∈ m, e.1 ≠ k) :
    get d (insert m k v) k = v := by
  induction m with
  | nil => simp only [insert, get, ↓reduceIte]
  | cons e t ih =>
    obtain ⟨a, w⟩ := e
    by_cases ha : k < a
    · simp only [insert, if_pos ha, get, ↓reduceIte]
    · have hne : a ≠ k := h (a, w) (by simp)
      have ih' := ih fun e he => h e (by simp [he])
      simp only [insert, if_neg ha, get, if_neg hne, ih']

theorem mem_erase {m : Sparse α} {k : Nat} {e : Nat × α} (he : e ∈ erase m k) : e ∈ m ∧ e.1 ≠ k := by
  induction m with
  | nil => simp [erase] at he
  | cons c t ih =>
    obtain ⟨a, w⟩ := c
    by_cases ha : a = k
    · simp only [erase, if_pos ha] at he
      exact ⟨List.mem_cons_of_mem _ (ih he).1, (ih he).2⟩
    · simp only [erase, if_neg ha, List.mem_cons] at he
      rcases he with rfl | he
      · exact ⟨List.mem_cons_self, ha⟩
      · exact ⟨List.mem_cons_of_mem _ (ih he).1, (ih he).2⟩

variable [DecidableEq α]

theorem get_put_same (d : α) (m : Sparse α) (k : Nat) (v : α) : get d (put d m k v) k = v := by
  by_cases h : v = d
  · subst h; simp only [put, ↓reduceIte, get_erase_same]
  · simp only [put, if_neg h]
    exact get_insert_same d _ k v fun e he => (mem_erase he).2

theorem get_put_other (d : α) (m : Sparse α) (k j : Nat) (v : α) (h : j ≠ k) :
    get d (put d m k v) j = get d m j := by
  by_cases hv : v = d
  · simp only [put, if_pos hv, get_erase_other d m k j h]
  · simp only [put, if_neg hv]
    rw [get_insert_other d _ k j v h, get_erase_other d m k j h]

theorem get_put (d : α) (m : Sparse α) (k j : Nat) (v : α) :
    get d (put d m k v) j = if j = k then v else get d m j := by
  by_cases h : j = k
  · subst h; simp only [get_put_same, ↓reduceIte]
  · simp only [get_put_other d m k j v h, if_neg h]

theorem wfFrom_weaken (d : α) {lo lo' : Nat} (h : lo' ≤ lo) {m : Sparse α} (hm : wfFrom d lo m = true) :
    wfFrom d lo' m = true := by
  cases m with
  | nil => rfl
  | cons e t =>
    simp only [wfFrom, Bool.and_eq_true, decide_eq_true_eq] at hm ⊢
    exact ⟨⟨Nat.le_trans h hm.1.1, hm.1.2⟩, hm.2⟩

theorem wfFrom_erase (d : α) (m : Sparse α) (k : Nat) : ∀ lo, wfFrom d lo m = true → wfFrom d lo (erase m k) = true := by
  induction m with
  | nil => intro lo _; rfl
  | cons e t ih =>
    intro lo h
    obtain ⟨a, v⟩ := e
    simp only [wfFrom, Bool.and_eq_true, decide_eq_true_eq] at h
    by_cases ha : a = k
    · simp only [erase, if_pos ha]
      exact ih lo (wfFrom_weaken d (by omega) h.2)
    · simp only [erase, if_neg ha, wfFrom, Bool.and_eq_true, decide_eq_true_eq]
      exact ⟨h.1, ih _ h.2⟩

theorem wfFrom_insert (d : α) (m : Sparse α) (k : Nat) (v : α) (hv : v ≠ d) :
    ∀ lo, lo ≤ k → (∀ e ∈ m, e.1 ≠ k) → wfFrom d lo m = true → wfFrom d lo (insert m k v) = true := by
  induction m with
  | nil =>
    intro lo hk _ _
    simp [insert, wfFrom, hk, hv]
  | cons e t ih =>
    intro lo hk hne h
    obtain ⟨a, w⟩ := e
    have hak : a ≠ k := hne (a, w) (by simp)
    simp only [wfFrom, Bool.and_eq_true, decide_eq_true_eq] at h
    by_cases ha : k < a
    · simp only [insert, if_pos ha, wfFrom, Bool.and_eq_true, decide_eq_true_eq]
      refine ⟨⟨hk, by simp [hv]⟩, ⟨ha, h.1.2⟩, h.2⟩
    · simp only [insert, if_neg ha, wfFrom, Bool.and_eq_true, decide_eq_true_eq]
      exact ⟨h.1, ih (a + 1) (by omega) (fun e he => hne e (by simp [he])) h.2⟩

theorem wf_put (d : α) (m : Sparse α) (k : Nat) (v : α) (h : wf d m = true) : wf d (put d m k v) = true := by
  by_cases hv : v = d
  · simp only [put, if_pos hv]
    exact wfFrom_erase d m k 0 h
  · simp only [put, if_neg hv]
    exact wfFrom_insert d _ k v hv 0 (Nat.zero_le k) (fun e he => (mem_erase he).2) (wfFrom_erase d m k 0 h)

theorem wfFrom_clear (d : α) (m : Sparse α) (a b : Nat) :
    ∀ lo, wfFrom d lo m = true → wfFrom d lo (clear m a b) = true := by
  induction m with
  | nil => intro lo _; rfl
  | cons e t ih =>
    intro lo h
    obtain ⟨k, v⟩ := e
    simp only [wfFrom, Bool.and_eq_true, decide_eq_true_eq] at h
    by_cases hk : a ≤ k ∧ k < b
    · simp only [clear, if_pos hk]
      exact ih lo (wfFrom_weaken d (by omega) h.2)
    · simp only [clear, if_neg hk, wfFrom, Bool.and_eq_true, decide_eq_true_eq]
      exact ⟨h.1, ih _ h.2⟩

theorem wf_clear (d : α) (m : Sparse α) (a b : Nat) (h : wf d m = true) : wf d (clear m a b) = true :=
  wfFrom_clear d m a b 0 h

omit [DecidableEq α] in
theorem get_clear (d : α) (m : Sparse α) (a b k : Nat) :
    get d (clear m a b) k = if a ≤ k ∧ k < b then d else get d m k := by
  induction m with
  | nil => simp [clear, get]
  | cons e t ih =>
    obtain ⟨j, v⟩ := e
    by_cases hj : a ≤ j ∧ j < b
    · simp only [clear, if_pos hj, ih, get]
      by_cases hk : a ≤ k ∧ k < b
      · simp only [if_pos hk]
      · have : j ≠ k := fun e => hk (e ▸ hj)
        simp only [if_neg hk, if_neg this]
    · simp only [clear, if_neg hj, get, ih]
      by_cases hk : j = k
      · subst hk; simp [hj]
      · simp only [if_neg hk]

theorem wf_putList (d : α) (l : List α) : ∀ (m : Sparse α) (k : Nat), wf d m = true → wf d (putList d m k l) = true := by
  induction l with
  | nil => intro m k h; exact h
  | cons v t ih => intro m k h; exact ih _ _ (wf_put d m k v h)

theorem get_putList (d : α) (l : List α) : ∀ (m : Sparse α) (k j : Nat),
    get d (putList d m k l) j = if k ≤ j ∧ j < k + l.length then l.getD (j - k) d else get d m j := by
  induction l with
  | nil => intro m k j; simp only [putList, List.length_nil, Nat.add_zero]; rw [if_neg (by omega)]
  | cons v t ih =>
    intro m k j
    simp only [putList, ih, List.length_cons]
    by_cases h1 : k + 1 ≤ j ∧ j < k + 1 + t.length
    · rw [if_pos h1, if_pos (by omega)]
      obtain ⟨n, rfl⟩ : ∃ n, j = k + 1 + n := ⟨j - (k + 1), by omega⟩
      have e1 : k + 1 + n - (k + 1) = n := by omega
      have e2 : k + 1 + n - k = n + 1 := by omega
      rw [e1, e2]; simp
    · rw [if_neg h1, get_put]
      by_cases h2 : j = k
      · subst h2; simp
      · rw [if_neg h2, if_neg (by omega)]

omit [DecidableEq α] in
theorem length_getList (d : α) (m : Sparse α) (k n : Nat) : (getList d m k n).length = n := by
  induction n generalizing k with
  | zero => rfl
  | succ n ih => simp only [getList, List.length_cons, ih]

omit [DecidableEq α] in
theorem getD_getList (d : α) (m : Sparse α) (k n i : Nat) (h : i < n) :
    (getList d m k n).getD i d = get d m (k + i) := by
  induction n generalizing k i with
  | zero => omega
  | succ n ih =>
    cases i with
    | zero => rfl
    | succ i =>
      have := ih (k + 1) i (by omega)
      simp only [getList, List.getD_cons_succ, this]
      congr 1; omega

theorem get_of_lt_wfFrom (d : α) (m : Sparse α) : ∀ (lo k : Nat), k < lo → wfFrom d lo m = true → get d m k = d := by
  induction m with
  | nil => intros; rfl
  | cons e t ih =>
    intro lo k hk h
    obtain ⟨a, v⟩ := e
    simp only [wfFrom, Bool.and_eq_true, decide_eq_true_eq] at h
    have : a ≠ k := by omega
    simp only [get, if_neg this]
    exact ih (a + 1) k (by omega) h.2

/-- Two maps in canonical form that read the same everywhere are the same. -/
theorem eq_of_get (d : α) (m : Sparse α) : ∀ (n : Sparse α) (lo : Nat), wfFrom d lo m = true → wfFrom d lo n = true →
    (∀ k, get d m k = get d n k) → m = n := by
  induction m with
  | nil =>
    intro n lo _ hn h
    cases n with
    | nil => rfl
    | cons e t =>
      obtain ⟨a, v⟩ := e
      simp only [wfFrom, Bool.and_eq_true, decide_eq_true_eq] at hn
      have := h a
      simp only [get, ↓reduceIte] at this
      simp [← this] at hn
  | cons e t ih =>
    intro n lo hm hn h
    obtain ⟨a, v⟩ := e
    simp only [wfFrom, Bool.and_eq_true, decide_eq_true_eq] at hm
    cases n with
    | nil =>
      have := h a
      simp only [get, ↓reduceIte] at this
      simp [this] at hm
    | cons e' t' =>
      obtain ⟨b, w⟩ := e'
      simp only [wfFrom, Bool.and_eq_true, decide_eq_true_eq] at hn
      have hab : a = b := by
        rcases Nat.lt_trichotomy a b with hlt | he | hlt
        · have h1 := h a
          have h2 : get d t' a = d := get_of_lt_wfFrom d t' (b + 1) a (by omega) hn.2
          have hba : b ≠ a := by omega
          simp only [get, ↓reduceIte, if_neg hba, h2] at h1
          simp [h1] at hm
        · exact he
        · have h1 := h b
          have h2 : get d t b = d := get_of_lt_wfFrom d t (a + 1) b (by omega) hm.2
          have hba : a ≠ b := by omega
          simp only [get, ↓reduceIte, if_neg hba, h2] at h1
          simp [← h1] at hn
      subst hab
      have hv : v = w := by have := h a; simpa only [get, ↓reduceIte] using this
      subst hv
      have ht : t = t' := ih t' (a + 1) hm.2 hn.2 fun k => by
        by_cases hk : a = k
        · subst hk
          rw [get_of_lt_wfFrom d t (a + 1) a (by omega) hm.2, get_of_lt_wfFrom d t' (a + 1) a (by omega) hn.2]
        · have := h k
          simpa only [get, if_neg hk] using this
      rw [ht]

end Sys2Proof.Machine.Sparse
end

