-- ==== Sys2Proof/Laws/Memory.lean ====
section
/-! SUPPORT. Memory: what each operation on it reads back, what it leaves alone, and that every one keeps the canonical
form. These are all the operations that write `mem`; the reset state lists nothing. -/

namespace Sys2Proof.Machine

@[simp] theorem State.dropScrubs_mem (s : State) (key n : Nat) : (s.dropScrubs key n).mem = s.mem := by
  unfold State.dropScrubs
  split <;> rfl

@[simp] theorem State.setPoison_mem (s : State) (q : Nat) (b : Bool) : (s.setPoison q b).mem = s.mem := rfl

@[simp] theorem State.poisonSector_mem (s : State) (q : Nat) : (s.poisonSector q).mem = s.mem := rfl

@[simp] theorem State.cleanse_mem (s : State) (key n : Nat) : (s.cleanse key n).mem = s.mem := by
  unfold State.cleanse
  split
  · rfl
  · generalize sectorsOf key n = l
    have keeps : ∀ t : State, (l.foldl
        (fun t q => if key ≤ 32 * q ∧ 32 * q + 32 ≤ key + n then t.setPoison q false else t) t).mem = t.mem := by
      induction l with
      | nil => intro t; rfl
      | cons q l ih =>
        intro t
        simp only [List.foldl_cons]
        rw [ih]
        split <;> rfl
    exact keeps s

@[simp] theorem State.putBytes_mem (s : State) (key : Nat) (bs : List Byte) :
    (s.putBytes key bs).mem = Sparse.putList Memory.unlisted s.mem key bs := by
  simp [State.putBytes]

/-- A write is read back, and every other byte reads as before. -/
theorem State.putBytes_byte (s : State) (key j : Nat) (bs : List Byte) :
    (s.putBytes key bs).rawByte j =
      if key ≤ j ∧ j < key + bs.length then bs.getD (j - key) 0#8 else s.rawByte j := by
  simp only [State.rawByte, State.putBytes_mem, Sparse.get_putList]
  rfl

theorem State.putBytes_wf (s : State) (key : Nat) (bs : List Byte) (h : Memory.wf s.mem = true) :
    Memory.wf (s.putBytes key bs).mem = true := by
  rw [State.putBytes_mem]
  exact Sparse.wf_putList _ bs _ key h

theorem State.putDWord_wf (s : State) (key : Nat) (v : DWord) (h : Memory.wf s.mem = true) :
    Memory.wf (s.putDWord key v).mem = true := s.putBytes_wf key _ h

/-- A write that no alias window discards is the plain write (R62, R65). -/
theorem State.writeBytes_plain (s : State) (key : Nat) (bs : List Byte) (h : s.aliasAt key = none) :
    s.writeBytes key bs = (s.putBytes key bs).cleanse key bs.length := by
  simp only [State.writeBytes, h]

/-- A write through an alias window changes no byte of storage (R62). -/
theorem State.writeBytes_alias (s : State) (key : Nat) (bs : List Byte) (p : Nat × BitVec 256)
    (h : s.aliasAt key = some p) : (s.writeBytes key bs).mem = s.mem := by
  obtain ⟨n, e⟩ := p
  simp only [State.writeBytes, h]

theorem State.writeBytes_wf (s : State) (key : Nat) (bs : List Byte) (h : Memory.wf s.mem = true) :
    Memory.wf (s.writeBytes key bs).mem = true := by
  cases ha : s.aliasAt key with
  | none => rw [s.writeBytes_plain key bs ha, State.cleanse_mem]; exact s.putBytes_wf key bs h
  | some p => rw [s.writeBytes_alias key bs p ha]; exact h

theorem State.writeBytes_byte (s : State) (key j : Nat) (bs : List Byte) (h : s.aliasAt key = none) :
    (s.writeBytes key bs).rawByte j =
      if key ≤ j ∧ j < key + bs.length then bs.getD (j - key) 0#8 else s.rawByte j := by
  have e : (s.writeBytes key bs).mem = (s.putBytes key bs).mem := by
    rw [s.writeBytes_plain key bs h, State.cleanse_mem]
  have b := s.putBytes_byte key j bs
  unfold State.rawByte at b ⊢
  rw [e]
  exact b

/-- Cells put one by one keep the canonical form. -/
theorem Sparse.wf_foldl_put {α β : Type} [DecidableEq α] (d : α) (k : β → Nat) (v : β → α) (l : List β) :
    ∀ m : Sparse α, wf d m = true → wf d (l.foldl (fun m c => put d m (k c) (v c)) m) = true := by
  induction l with
  | nil => intro m h; exact h
  | cons c l ih => intro m h; exact ih _ (wf_put d m _ _ h)

/-- The map that a copy of a range leaves, cell by cell from the first, each on top of those after it. -/
theorem State.copyRange_mem (s : State) (src dst n : Nat) : (s.copyRange src dst n).mem =
    (s.mem.filter fun c => decide (src ≤ c.1) && decide (c.1 < src + n)).foldr
      (fun c m => Sparse.put Memory.unlisted m (dst + (c.1 - src)) c.2) (Sparse.clear s.mem dst (dst + n)) := by
  simp only [State.copyRange, List.foldl_reverse]

theorem State.copyRange_wf (s : State) (src dst n : Nat) (h : Memory.wf s.mem = true) :
    Memory.wf (s.copyRange src dst n).mem = true :=
  Sparse.wf_foldl_put Memory.unlisted (fun c : Host.Cell => dst + (c.1 - src)) (fun c : Host.Cell => c.2) _ _
    (Sparse.wf_clear _ s.mem _ _ h)

/-- Every byte of the place copied to reads as the byte copied to it. -/
theorem State.copyRange_byte (s : State) (src dst n i : Nat) (h : i < n) :
    (s.copyRange src dst n).rawByte (dst + i) = s.rawByte (src + i) := by
  have copied : ∀ (l : List Host.Cell) (m : Memory), Sparse.get Memory.unlisted m (dst + i) = Memory.unlisted →
      Sparse.get Memory.unlisted
        ((l.filter fun c => decide (src ≤ c.1) && decide (c.1 < src + n)).foldr
          (fun c m => Sparse.put Memory.unlisted m (dst + (c.1 - src)) c.2) m) (dst + i) =
        Sparse.get Memory.unlisted l (src + i) := by
    intro l m hm
    induction l with
    | nil => exact hm
    | cons c l ih =>
      obtain ⟨a, v⟩ := c
      simp only [Sparse.get]
      by_cases hp : src ≤ a ∧ a < src + n
      · rw [List.filter_cons_of_pos (by simpa using hp), List.foldr_cons, Sparse.get_put, ih]
        have : (dst + i = dst + (a - src)) = (a = src + i) := by apply propext; constructor <;> omega
        simp only [this]
      · rw [List.filter_cons_of_neg (by simpa using hp), ih, if_neg (by omega)]
  simp only [State.rawByte, State.copyRange_mem]
  exact copied _ _ (by rw [Sparse.get_clear, if_pos (by omega)])

/-- A copy changes only the bytes it writes. -/
theorem State.copyRange_other (s : State) (src dst n j : Nat) (h : j < dst ∨ dst + n ≤ j) :
    (s.copyRange src dst n).rawByte j = s.rawByte j := by
  have outside : ∀ (l : List Host.Cell) (m : Memory), (∀ c ∈ l, src ≤ c.1 ∧ c.1 < src + n) →
      Sparse.get Memory.unlisted (l.foldr (fun c m => Sparse.put Memory.unlisted m (dst + (c.1 - src)) c.2) m) j =
        Sparse.get Memory.unlisted m j := by
    intro l m
    induction l with
    | nil => intro _; rfl
    | cons c l ih =>
      intro hl
      have hc := hl c (by simp)
      rw [List.foldr_cons, Sparse.get_put_other, ih fun e he => hl e (by simp [he])]
      omega
  have cells : ∀ c ∈ s.mem.filter (fun c => decide (src ≤ c.1) && decide (c.1 < src + n)),
      src ≤ c.1 ∧ c.1 < src + n := by
    intro c hc
    simpa using (List.mem_filter.1 hc).2
  simp only [State.rawByte, State.copyRange_mem]
  rw [outside _ _ cells, Sparse.get_clear, if_neg (by omega)]

theorem State.zeroRange_wf (s : State) (key n : Nat) (h : Memory.wf s.mem = true) :
    Memory.wf (s.zeroRange key n).mem = true := Sparse.wf_clear _ s.mem _ _ h

/-- A range zeroed reads 0, and every other byte reads as before. -/
theorem State.zeroRange_byte (s : State) (key n j : Nat) :
    (s.zeroRange key n).rawByte j = if key ≤ j ∧ j < key + n then 0#8 else s.rawByte j := by
  simp only [State.rawByte, State.zeroRange, Sparse.get_clear]
  rfl

theorem State.withFetchWord_wf (s : State) (nbits w : Nat) (h : Memory.wf s.mem = true) :
    Memory.wf (s.withFetchWord nbits w).mem = true := Sparse.wf_putList _ _ _ _ h

theorem State.reset_wf : Memory.wf State.reset.mem = true := rfl

/-- Memories in canonical form that read alike are equal. -/
theorem Memory.eq_of_reads (m n : Memory) (hm : Memory.wf m = true) (hn : Memory.wf n = true)
    (h : ∀ k, Sparse.get Memory.unlisted m k = Sparse.get Memory.unlisted n k) : m = n :=
  Sparse.eq_of_get _ m n 0 hm hn h

end Sys2Proof.Machine
end

