-- ==== Sys2Proof/Laws/State.lean ====
section
/-! SUPPORT. What the named updates of the state leave alone: one lemma for each field and each update, true by `rfl`. -/

namespace Sys2Proof.Machine


/-! ### `State.onWave` -/

@[simp] theorem State.onWave_clock (s : State) (f : Wave → Wave) :
    (s.onWave f).clock = s.clock := rfl
@[simp] theorem State.onWave_waves (s : State) (f : Wave → Wave) :
    (s.onWave f).waves = s.waves := rfl
@[simp] theorem State.onWave_iword (s : State) (f : Wave → Wave) :
    (s.onWave f).iword = s.iword := rfl
@[simp] theorem State.onWave_iext (s : State) (f : Wave → Wave) :
    (s.onWave f).iext = s.iext := rfl
@[simp] theorem State.onWave_mem (s : State) (f : Wave → Wave) :
    (s.onWave f).mem = s.mem := rfl
@[simp] theorem State.onWave_cst (s : State) (f : Wave → Wave) :
    (s.onWave f).cst = s.cst := rfl
@[simp] theorem State.onWave_poison (s : State) (f : Wave → Wave) :
    (s.onWave f).poison = s.poison := rfl
@[simp] theorem State.onWave_rewritten (s : State) (f : Wave → Wave) :
    (s.onWave f).rewritten = s.rewritten := rfl
@[simp] theorem State.onWave_waiters (s : State) (f : Wave → Wave) :
    (s.onWave f).waiters = s.waiters := rfl
@[simp] theorem State.onWave_scrubs (s : State) (f : Wave → Wave) :
    (s.onWave f).scrubs = s.scrubs := rfl
@[simp] theorem State.onWave_acts (s : State) (f : Wave → Wave) :
    (s.onWave f).acts = s.acts := rfl
@[simp] theorem State.onWave_backoff (s : State) (f : Wave → Wave) :
    (s.onWave f).backoff = s.backoff := rfl
@[simp] theorem State.onWave_l1 (s : State) (f : Wave → Wave) :
    (s.onWave f).l1 = s.l1 := rfl
@[simp] theorem State.onWave_ways (s : State) (f : Wave → Wave) :
    (s.onWave f).ways = s.ways := rfl
@[simp] theorem State.onWave_tags (s : State) (f : Wave → Wave) :
    (s.onWave f).tags = s.tags := rfl
@[simp] theorem State.onWave_gens (s : State) (f : Wave → Wave) :
    (s.onWave f).gens = s.gens := rfl
@[simp] theorem State.onWave_procs (s : State) (f : Wave → Wave) :
    (s.onWave f).procs = s.procs := rfl
@[simp] theorem State.onWave_teams (s : State) (f : Wave → Wave) :
    (s.onWave f).teams = s.teams := rfl
@[simp] theorem State.onWave_grids (s : State) (f : Wave → Wave) :
    (s.onWave f).grids = s.grids := rfl
@[simp] theorem State.onWave_ports (s : State) (f : Wave → Wave) :
    (s.onWave f).ports = s.ports := rfl
@[simp] theorem State.onWave_sets (s : State) (f : Wave → Wave) :
    (s.onWave f).sets = s.sets := rfl
@[simp] theorem State.onWave_timers (s : State) (f : Wave → Wave) :
    (s.onWave f).timers = s.timers := rfl
@[simp] theorem State.onWave_codes (s : State) (f : Wave → Wave) :
    (s.onWave f).codes = s.codes := rfl
@[simp] theorem State.onWave_runq (s : State) (f : Wave → Wave) :
    (s.onWave f).runq = s.runq := rfl
@[simp] theorem State.onWave_lastWin (s : State) (f : Wave → Wave) :
    (s.onWave f).lastWin = s.lastWin := rfl
@[simp] theorem State.onWave_tlb (s : State) (f : Wave → Wave) :
    (s.onWave f).tlb = s.tlb := rfl
@[simp] theorem State.onWave_atc (s : State) (f : Wave → Wave) :
    (s.onWave f).atc = s.atc := rfl
@[simp] theorem State.onWave_horizons (s : State) (f : Wave → Wave) :
    (s.onWave f).horizons = s.horizons := rfl
@[simp] theorem State.onWave_leaves (s : State) (f : Wave → Wave) :
    (s.onWave f).leaves = s.leaves := rfl
@[simp] theorem State.onWave_downgrades (s : State) (f : Wave → Wave) :
    (s.onWave f).downgrades = s.downgrades := rfl
@[simp] theorem State.onWave_invals (s : State) (f : Wave → Wave) :
    (s.onWave f).invals = s.invals := rfl
@[simp] theorem State.onWave_flights (s : State) (f : Wave → Wave) :
    (s.onWave f).flights = s.flights := rfl
@[simp] theorem State.onWave_pendFaults (s : State) (f : Wave → Wave) :
    (s.onWave f).pendFaults = s.pendFaults := rfl
@[simp] theorem State.onWave_pendSvc (s : State) (f : Wave → Wave) :
    (s.onWave f).pendSvc = s.pendSvc := rfl
@[simp] theorem State.onWave_pendReplies (s : State) (f : Wave → Wave) :
    (s.onWave f).pendReplies = s.pendReplies := rfl
@[simp] theorem State.onWave_pendBreaks (s : State) (f : Wave → Wave) :
    (s.onWave f).pendBreaks = s.pendBreaks := rfl
@[simp] theorem State.onWave_spent (s : State) (f : Wave → Wave) :
    (s.onWave f).spent = s.spent := rfl
@[simp] theorem State.onWave_spentAt (s : State) (f : Wave → Wave) :
    (s.onWave f).spentAt = s.spentAt := rfl
@[simp] theorem State.onWave_names (s : State) (f : Wave → Wave) :
    (s.onWave f).names = s.names := rfl
@[simp] theorem State.onWave_farNames (s : State) (f : Wave → Wave) :
    (s.onWave f).farNames = s.farNames := rfl
@[simp] theorem State.onWave_farPorts (s : State) (f : Wave → Wave) :
    (s.onWave f).farPorts = s.farPorts := rfl
@[simp] theorem State.onWave_engs (s : State) (f : Wave → Wave) :
    (s.onWave f).engs = s.engs := rfl
@[simp] theorem State.onWave_engRecords (s : State) (f : Wave → Wave) :
    (s.onWave f).engRecords = s.engRecords := rfl
@[simp] theorem State.onWave_mmas (s : State) (f : Wave → Wave) :
    (s.onWave f).mmas = s.mmas := rfl
@[simp] theorem State.onWave_media (s : State) (f : Wave → Wave) :
    (s.onWave f).media = s.media := rfl
@[simp] theorem State.onWave_mxAlias (s : State) (f : Wave → Wave) :
    (s.onWave f).mxAlias = s.mxAlias := rfl
@[simp] theorem State.onWave_window (s : State) (f : Wave → Wave) :
    (s.onWave f).window = s.window := rfl
@[simp] theorem State.onWave_hostw (s : State) (f : Wave → Wave) :
    (s.onWave f).hostw = s.hostw := rfl
@[simp] theorem State.onWave_pasid (s : State) (f : Wave → Wave) :
    (s.onWave f).pasid = s.pasid := rfl
@[simp] theorem State.onWave_resinj (s : State) (f : Wave → Wave) :
    (s.onWave f).resinj = s.resinj := rfl
@[simp] theorem State.onWave_resinjBy (s : State) (f : Wave → Wave) :
    (s.onWave f).resinjBy = s.resinjBy := rfl
@[simp] theorem State.onWave_mwin (s : State) (f : Wave → Wave) :
    (s.onWave f).mwin = s.mwin := rfl
@[simp] theorem State.onWave_msixTable (s : State) (f : Wave → Wave) :
    (s.onWave f).msixTable = s.msixTable := rfl
@[simp] theorem State.onWave_bars (s : State) (f : Wave → Wave) :
    (s.onWave f).bars = s.bars := rfl
@[simp] theorem State.onWave_exports (s : State) (f : Wave → Wave) :
    (s.onWave f).exports = s.exports := rfl
@[simp] theorem State.onWave_peerExports (s : State) (f : Wave → Wave) :
    (s.onWave f).peerExports = s.peerExports := rfl
@[simp] theorem State.onWave_pkg (s : State) (f : Wave → Wave) :
    (s.onWave f).pkg = s.pkg := rfl
@[simp] theorem State.onWave_route (s : State) (f : Wave → Wave) :
    (s.onWave f).route = s.route := rfl
@[simp] theorem State.onWave_scaleOut (s : State) (f : Wave → Wave) :
    (s.onWave f).scaleOut = s.scaleOut := rfl
@[simp] theorem State.onWave_jseq (s : State) (f : Wave → Wave) :
    (s.onWave f).jseq = s.jseq := rfl
@[simp] theorem State.onWave_eseq (s : State) (f : Wave → Wave) :
    (s.onWave f).eseq = s.eseq := rfl
@[simp] theorem State.onWave_gridSeq (s : State) (f : Wave → Wave) :
    (s.onWave f).gridSeq = s.gridSeq := rfl
@[simp] theorem State.onWave_hostDown (s : State) (f : Wave → Wave) :
    (s.onWave f).hostDown = s.hostDown := rfl
@[simp] theorem State.onWave_linksDown (s : State) (f : Wave → Wave) :
    (s.onWave f).linksDown = s.linksDown := rfl
@[simp] theorem State.onWave_ethDown (s : State) (f : Wave → Wave) :
    (s.onWave f).ethDown = s.ethDown := rfl
@[simp] theorem State.onWave_etherSeq (s : State) (f : Wave → Wave) :
    (s.onWave f).etherSeq = s.etherSeq := rfl
@[simp] theorem State.onWave_etherIn (s : State) (f : Wave → Wave) :
    (s.onWave f).etherIn = s.etherIn := rfl
@[simp] theorem State.onWave_unacked (s : State) (f : Wave → Wave) :
    (s.onWave f).unacked = s.unacked := rfl
@[simp] theorem State.onWave_datagramPort (s : State) (f : Wave → Wave) :
    (s.onWave f).datagramPort = s.datagramPort := rfl
@[simp] theorem State.onWave_msix (s : State) (f : Wave → Wave) :
    (s.onWave f).msix = s.msix := rfl
@[simp] theorem State.onWave_readBack (s : State) (f : Wave → Wave) :
    (s.onWave f).readBack = s.readBack := rfl
@[simp] theorem State.onWave_fwVersion (s : State) (f : Wave → Wave) :
    (s.onWave f).fwVersion = s.fwVersion := rfl
@[simp] theorem State.onWave_fwMin (s : State) (f : Wave → Wave) :
    (s.onWave f).fwMin = s.fwMin := rfl
@[simp] theorem State.onWave_fwStaged (s : State) (f : Wave → Wave) :
    (s.onWave f).fwStaged = s.fwStaged := rfl
@[simp] theorem State.onWave_testVersion (s : State) (f : Wave → Wave) :
    (s.onWave f).testVersion = s.testVersion := rfl
@[simp] theorem State.onWave_testKernels (s : State) (f : Wave → Wave) :
    (s.onWave f).testKernels = s.testKernels := rfl
@[simp] theorem State.onWave_testStaged (s : State) (f : Wave → Wave) :
    (s.onWave f).testStaged = s.testStaged := rfl
@[simp] theorem State.onWave_fuseRsa (s : State) (f : Wave → Wave) :
    (s.onWave f).fuseRsa = s.fuseRsa := rfl
@[simp] theorem State.onWave_fuseSlh (s : State) (f : Wave → Wave) :
    (s.onWave f).fuseSlh = s.fuseSlh := rfl
@[simp] theorem State.onWave_retest (s : State) (f : Wave → Wave) :
    (s.onWave f).retest = s.retest := rfl
@[simp] theorem State.onWave_spdm (s : State) (f : Wave → Wave) :
    (s.onWave f).spdm = s.spdm := rfl
@[simp] theorem State.onWave_powerCap (s : State) (f : Wave → Wave) :
    (s.onWave f).powerCap = s.powerCap := rfl
@[simp] theorem State.onWave_tripped (s : State) (f : Wave → Wave) :
    (s.onWave f).tripped = s.tripped := rfl
@[simp] theorem State.onWave_agenda (s : State) (f : Wave → Wave) :
    (s.onWave f).agenda = s.agenda := rfl
@[simp] theorem State.onWave_upset (s : State) (f : Wave → Wave) :
    (s.onWave f).upset = s.upset := rfl
@[simp] theorem State.onWave_work (s : State) (f : Wave → Wave) :
    (s.onWave f).work = s.work := rfl
@[simp] theorem State.onWave_inp (s : State) (f : Wave → Wave) :
    (s.onWave f).inp = s.inp := rfl
@[simp] theorem State.onWave_idxHint (s : State) (f : Wave → Wave) :
    (s.onWave f).idxHint = s.idxHint := rfl
@[simp] theorem State.onWave_fresh (s : State) (f : Wave → Wave) :
    (s.onWave f).fresh = s.fresh := rfl
@[simp] theorem State.onWave_uid (s : State) (f : Wave → Wave) :
    (s.onWave f).uid = s.uid := rfl
@[simp] theorem State.onWave_wave (s : State) (f : Wave → Wave) : (s.onWave f).wave = f s.wave := rfl
@[simp] theorem State.onWave_onWave (s : State) (f g : Wave → Wave) : (s.onWave f).onWave g = s.onWave fun w => g (f w) := rfl
theorem State.next_eq (s : State) (n : Nat) : s.next n = s.onWave (·.advance n) := rfl
@[simp] theorem State.onWave_next (s : State) (f : Wave → Wave) (n : Nat) : (s.onWave f).next n = s.onWave fun w => (f w).advance n := rfl
@[simp] theorem State.next_wave (s : State) (n : Nat) : (s.next n).wave = s.wave.advance n := rfl
@[simp] theorem State.next_mem (s : State) (n : Nat) : (s.next n).mem = s.mem := rfl
@[simp] theorem State.waitSlots_mem (s : State) (x : Slots) : (s.waitSlots x).mem = s.mem := rfl
@[simp] theorem State.jump_mem (s : State) (pc : DWord) : (s.jump pc).mem = s.mem := rfl
@[simp] theorem State.setSlot_mem (s : State) (x : Slots) : (s.setSlot x).mem = s.mem := by
  unfold State.setSlot; split <;> rfl

/-! ### `State.oweIn` -/

@[simp] theorem State.oweIn_clock (s : State) (i : Instr) (inp : Input) :
    (s.oweIn i inp).clock = s.clock := rfl
@[simp] theorem State.oweIn_wave (s : State) (i : Instr) (inp : Input) :
    (s.oweIn i inp).wave = s.wave := rfl
@[simp] theorem State.oweIn_waves (s : State) (i : Instr) (inp : Input) :
    (s.oweIn i inp).waves = s.waves := rfl
@[simp] theorem State.oweIn_iword (s : State) (i : Instr) (inp : Input) :
    (s.oweIn i inp).iword = s.iword := rfl
@[simp] theorem State.oweIn_iext (s : State) (i : Instr) (inp : Input) :
    (s.oweIn i inp).iext = s.iext := rfl
@[simp] theorem State.oweIn_mem (s : State) (i : Instr) (inp : Input) :
    (s.oweIn i inp).mem = s.mem := rfl
@[simp] theorem State.oweIn_cst (s : State) (i : Instr) (inp : Input) :
    (s.oweIn i inp).cst = s.cst := rfl
@[simp] theorem State.oweIn_poison (s : State) (i : Instr) (inp : Input) :
    (s.oweIn i inp).poison = s.poison := rfl
@[simp] theorem State.oweIn_rewritten (s : State) (i : Instr) (inp : Input) :
    (s.oweIn i inp).rewritten = s.rewritten := rfl
@[simp] theorem State.oweIn_waiters (s : State) (i : Instr) (inp : Input) :
    (s.oweIn i inp).waiters = s.waiters := rfl
@[simp] theorem State.oweIn_scrubs (s : State) (i : Instr) (inp : Input) :
    (s.oweIn i inp).scrubs = s.scrubs := rfl
@[simp] theorem State.oweIn_acts (s : State) (i : Instr) (inp : Input) :
    (s.oweIn i inp).acts = s.acts := rfl
@[simp] theorem State.oweIn_backoff (s : State) (i : Instr) (inp : Input) :
    (s.oweIn i inp).backoff = s.backoff := rfl
@[simp] theorem State.oweIn_l1 (s : State) (i : Instr) (inp : Input) :
    (s.oweIn i inp).l1 = s.l1 := rfl
@[simp] theorem State.oweIn_ways (s : State) (i : Instr) (inp : Input) :
    (s.oweIn i inp).ways = s.ways := rfl
@[simp] theorem State.oweIn_tags (s : State) (i : Instr) (inp : Input) :
    (s.oweIn i inp).tags = s.tags := rfl
@[simp] theorem State.oweIn_gens (s : State) (i : Instr) (inp : Input) :
    (s.oweIn i inp).gens = s.gens := rfl
@[simp] theorem State.oweIn_procs (s : State) (i : Instr) (inp : Input) :
    (s.oweIn i inp).procs = s.procs := rfl
@[simp] theorem State.oweIn_teams (s : State) (i : Instr) (inp : Input) :
    (s.oweIn i inp).teams = s.teams := rfl
@[simp] theorem State.oweIn_grids (s : State) (i : Instr) (inp : Input) :
    (s.oweIn i inp).grids = s.grids := rfl
@[simp] theorem State.oweIn_ports (s : State) (i : Instr) (inp : Input) :
    (s.oweIn i inp).ports = s.ports := rfl
@[simp] theorem State.oweIn_sets (s : State) (i : Instr) (inp : Input) :
    (s.oweIn i inp).sets = s.sets := rfl
@[simp] theorem State.oweIn_timers (s : State) (i : Instr) (inp : Input) :
    (s.oweIn i inp).timers = s.timers := rfl
@[simp] theorem State.oweIn_codes (s : State) (i : Instr) (inp : Input) :
    (s.oweIn i inp).codes = s.codes := rfl
@[simp] theorem State.oweIn_runq (s : State) (i : Instr) (inp : Input) :
    (s.oweIn i inp).runq = s.runq := rfl
@[simp] theorem State.oweIn_lastWin (s : State) (i : Instr) (inp : Input) :
    (s.oweIn i inp).lastWin = s.lastWin := rfl
@[simp] theorem State.oweIn_tlb (s : State) (i : Instr) (inp : Input) :
    (s.oweIn i inp).tlb = s.tlb := rfl
@[simp] theorem State.oweIn_atc (s : State) (i : Instr) (inp : Input) :
    (s.oweIn i inp).atc = s.atc := rfl
@[simp] theorem State.oweIn_horizons (s : State) (i : Instr) (inp : Input) :
    (s.oweIn i inp).horizons = s.horizons := rfl
@[simp] theorem State.oweIn_leaves (s : State) (i : Instr) (inp : Input) :
    (s.oweIn i inp).leaves = s.leaves := rfl
@[simp] theorem State.oweIn_downgrades (s : State) (i : Instr) (inp : Input) :
    (s.oweIn i inp).downgrades = s.downgrades := rfl
@[simp] theorem State.oweIn_invals (s : State) (i : Instr) (inp : Input) :
    (s.oweIn i inp).invals = s.invals := rfl
@[simp] theorem State.oweIn_flights (s : State) (i : Instr) (inp : Input) :
    (s.oweIn i inp).flights = s.flights := rfl
@[simp] theorem State.oweIn_pendFaults (s : State) (i : Instr) (inp : Input) :
    (s.oweIn i inp).pendFaults = s.pendFaults := rfl
@[simp] theorem State.oweIn_pendSvc (s : State) (i : Instr) (inp : Input) :
    (s.oweIn i inp).pendSvc = s.pendSvc := rfl
@[simp] theorem State.oweIn_pendReplies (s : State) (i : Instr) (inp : Input) :
    (s.oweIn i inp).pendReplies = s.pendReplies := rfl
@[simp] theorem State.oweIn_pendBreaks (s : State) (i : Instr) (inp : Input) :
    (s.oweIn i inp).pendBreaks = s.pendBreaks := rfl
@[simp] theorem State.oweIn_spent (s : State) (i : Instr) (inp : Input) :
    (s.oweIn i inp).spent = s.spent := rfl
@[simp] theorem State.oweIn_spentAt (s : State) (i : Instr) (inp : Input) :
    (s.oweIn i inp).spentAt = s.spentAt := rfl
@[simp] theorem State.oweIn_names (s : State) (i : Instr) (inp : Input) :
    (s.oweIn i inp).names = s.names := rfl
@[simp] theorem State.oweIn_farNames (s : State) (i : Instr) (inp : Input) :
    (s.oweIn i inp).farNames = s.farNames := rfl
@[simp] theorem State.oweIn_farPorts (s : State) (i : Instr) (inp : Input) :
    (s.oweIn i inp).farPorts = s.farPorts := rfl
@[simp] theorem State.oweIn_engs (s : State) (i : Instr) (inp : Input) :
    (s.oweIn i inp).engs = s.engs := rfl
@[simp] theorem State.oweIn_engRecords (s : State) (i : Instr) (inp : Input) :
    (s.oweIn i inp).engRecords = s.engRecords := rfl
@[simp] theorem State.oweIn_mmas (s : State) (i : Instr) (inp : Input) :
    (s.oweIn i inp).mmas = s.mmas := rfl
@[simp] theorem State.oweIn_media (s : State) (i : Instr) (inp : Input) :
    (s.oweIn i inp).media = s.media := rfl
@[simp] theorem State.oweIn_mxAlias (s : State) (i : Instr) (inp : Input) :
    (s.oweIn i inp).mxAlias = s.mxAlias := rfl
@[simp] theorem State.oweIn_window (s : State) (i : Instr) (inp : Input) :
    (s.oweIn i inp).window = s.window := rfl
@[simp] theorem State.oweIn_hostw (s : State) (i : Instr) (inp : Input) :
    (s.oweIn i inp).hostw = s.hostw := rfl
@[simp] theorem State.oweIn_pasid (s : State) (i : Instr) (inp : Input) :
    (s.oweIn i inp).pasid = s.pasid := rfl
@[simp] theorem State.oweIn_resinj (s : State) (i : Instr) (inp : Input) :
    (s.oweIn i inp).resinj = s.resinj := rfl
@[simp] theorem State.oweIn_resinjBy (s : State) (i : Instr) (inp : Input) :
    (s.oweIn i inp).resinjBy = s.resinjBy := rfl
@[simp] theorem State.oweIn_mwin (s : State) (i : Instr) (inp : Input) :
    (s.oweIn i inp).mwin = s.mwin := rfl
@[simp] theorem State.oweIn_msixTable (s : State) (i : Instr) (inp : Input) :
    (s.oweIn i inp).msixTable = s.msixTable := rfl
@[simp] theorem State.oweIn_bars (s : State) (i : Instr) (inp : Input) :
    (s.oweIn i inp).bars = s.bars := rfl
@[simp] theorem State.oweIn_exports (s : State) (i : Instr) (inp : Input) :
    (s.oweIn i inp).exports = s.exports := rfl
@[simp] theorem State.oweIn_peerExports (s : State) (i : Instr) (inp : Input) :
    (s.oweIn i inp).peerExports = s.peerExports := rfl
@[simp] theorem State.oweIn_pkg (s : State) (i : Instr) (inp : Input) :
    (s.oweIn i inp).pkg = s.pkg := rfl
@[simp] theorem State.oweIn_route (s : State) (i : Instr) (inp : Input) :
    (s.oweIn i inp).route = s.route := rfl
@[simp] theorem State.oweIn_scaleOut (s : State) (i : Instr) (inp : Input) :
    (s.oweIn i inp).scaleOut = s.scaleOut := rfl
@[simp] theorem State.oweIn_jseq (s : State) (i : Instr) (inp : Input) :
    (s.oweIn i inp).jseq = s.jseq := rfl
@[simp] theorem State.oweIn_eseq (s : State) (i : Instr) (inp : Input) :
    (s.oweIn i inp).eseq = s.eseq := rfl
@[simp] theorem State.oweIn_gridSeq (s : State) (i : Instr) (inp : Input) :
    (s.oweIn i inp).gridSeq = s.gridSeq := rfl
@[simp] theorem State.oweIn_hostDown (s : State) (i : Instr) (inp : Input) :
    (s.oweIn i inp).hostDown = s.hostDown := rfl
@[simp] theorem State.oweIn_linksDown (s : State) (i : Instr) (inp : Input) :
    (s.oweIn i inp).linksDown = s.linksDown := rfl
@[simp] theorem State.oweIn_ethDown (s : State) (i : Instr) (inp : Input) :
    (s.oweIn i inp).ethDown = s.ethDown := rfl
@[simp] theorem State.oweIn_etherSeq (s : State) (i : Instr) (inp : Input) :
    (s.oweIn i inp).etherSeq = s.etherSeq := rfl
@[simp] theorem State.oweIn_etherIn (s : State) (i : Instr) (inp : Input) :
    (s.oweIn i inp).etherIn = s.etherIn := rfl
@[simp] theorem State.oweIn_unacked (s : State) (i : Instr) (inp : Input) :
    (s.oweIn i inp).unacked = s.unacked := rfl
@[simp] theorem State.oweIn_datagramPort (s : State) (i : Instr) (inp : Input) :
    (s.oweIn i inp).datagramPort = s.datagramPort := rfl
@[simp] theorem State.oweIn_msix (s : State) (i : Instr) (inp : Input) :
    (s.oweIn i inp).msix = s.msix := rfl
@[simp] theorem State.oweIn_readBack (s : State) (i : Instr) (inp : Input) :
    (s.oweIn i inp).readBack = s.readBack := rfl
@[simp] theorem State.oweIn_fwVersion (s : State) (i : Instr) (inp : Input) :
    (s.oweIn i inp).fwVersion = s.fwVersion := rfl
@[simp] theorem State.oweIn_fwMin (s : State) (i : Instr) (inp : Input) :
    (s.oweIn i inp).fwMin = s.fwMin := rfl
@[simp] theorem State.oweIn_fwStaged (s : State) (i : Instr) (inp : Input) :
    (s.oweIn i inp).fwStaged = s.fwStaged := rfl
@[simp] theorem State.oweIn_testVersion (s : State) (i : Instr) (inp : Input) :
    (s.oweIn i inp).testVersion = s.testVersion := rfl
@[simp] theorem State.oweIn_testKernels (s : State) (i : Instr) (inp : Input) :
    (s.oweIn i inp).testKernels = s.testKernels := rfl
@[simp] theorem State.oweIn_testStaged (s : State) (i : Instr) (inp : Input) :
    (s.oweIn i inp).testStaged = s.testStaged := rfl
@[simp] theorem State.oweIn_fuseRsa (s : State) (i : Instr) (inp : Input) :
    (s.oweIn i inp).fuseRsa = s.fuseRsa := rfl
@[simp] theorem State.oweIn_fuseSlh (s : State) (i : Instr) (inp : Input) :
    (s.oweIn i inp).fuseSlh = s.fuseSlh := rfl
@[simp] theorem State.oweIn_retest (s : State) (i : Instr) (inp : Input) :
    (s.oweIn i inp).retest = s.retest := rfl
@[simp] theorem State.oweIn_spdm (s : State) (i : Instr) (inp : Input) :
    (s.oweIn i inp).spdm = s.spdm := rfl
@[simp] theorem State.oweIn_powerCap (s : State) (i : Instr) (inp : Input) :
    (s.oweIn i inp).powerCap = s.powerCap := rfl
@[simp] theorem State.oweIn_tripped (s : State) (i : Instr) (inp : Input) :
    (s.oweIn i inp).tripped = s.tripped := rfl
@[simp] theorem State.oweIn_agenda (s : State) (i : Instr) (inp : Input) :
    (s.oweIn i inp).agenda = s.agenda := rfl
@[simp] theorem State.oweIn_upset (s : State) (i : Instr) (inp : Input) :
    (s.oweIn i inp).upset = s.upset := rfl
@[simp] theorem State.oweIn_inp (s : State) (i : Instr) (inp : Input) :
    (s.oweIn i inp).inp = s.inp := rfl
@[simp] theorem State.oweIn_idxHint (s : State) (i : Instr) (inp : Input) :
    (s.oweIn i inp).idxHint = s.idxHint := rfl
@[simp] theorem State.oweIn_fresh (s : State) (i : Instr) (inp : Input) :
    (s.oweIn i inp).fresh = s.fresh := rfl
@[simp] theorem State.oweIn_uid (s : State) (i : Instr) (inp : Input) :
    (s.oweIn i inp).uid = s.uid := rfl
@[simp] theorem State.oweIn_work (s : State) (i : Instr) (inp : Input) : (s.oweIn i inp).work = s.work ++ [(i, inp)] := rfl
theorem State.owe_eq (s : State) (i : Instr) : s.owe i = s.oweIn i {} := rfl

/-! ### `Wave.setS` -/

@[simp] theorem Wave.setS_hdl (w : Wave) (i : Nat) (v : DWord) :
    (w.setS i v).hdl = w.hdl := rfl
@[simp] theorem Wave.setS_proc (w : Wave) (i : Nat) (v : DWord) :
    (w.setS i v).proc = w.proc := rfl
@[simp] theorem Wave.setS_team (w : Wave) (i : Nat) (v : DWord) :
    (w.setS i v).team = w.team := rfl
@[simp] theorem Wave.setS_widx (w : Wave) (i : Nat) (v : DWord) :
    (w.setS i v).widx = w.widx := rfl
@[simp] theorem Wave.setS_consumer (w : Wave) (i : Nat) (v : DWord) :
    (w.setS i v).consumer = w.consumer := rfl
@[simp] theorem Wave.setS_priv (w : Wave) (i : Nat) (v : DWord) :
    (w.setS i v).priv = w.priv := rfl
@[simp] theorem Wave.setS_vblk (w : Wave) (i : Nat) (v : DWord) :
    (w.setS i v).vblk = w.vblk := rfl
@[simp] theorem Wave.setS_ntiles (w : Wave) (i : Nat) (v : DWord) :
    (w.setS i v).ntiles = w.ntiles := rfl
@[simp] theorem Wave.setS_basePri (w : Wave) (i : Nat) (v : DWord) :
    (w.setS i v).basePri = w.basePri := rfl
@[simp] theorem Wave.setS_curPri (w : Wave) (i : Nat) (v : DWord) :
    (w.setS i v).curPri = w.curPri := rfl
@[simp] theorem Wave.setS_codever (w : Wave) (i : Nat) (v : DWord) :
    (w.setS i v).codever = w.codever := rfl
@[simp] theorem Wave.setS_xctr (w : Wave) (i : Nat) (v : DWord) :
    (w.setS i v).xctr = w.xctr := rfl
@[simp] theorem Wave.setS_pc (w : Wave) (i : Nat) (v : DWord) :
    (w.setS i v).pc = w.pc := rfl
@[simp] theorem Wave.setS_mode (w : Wave) (i : Nat) (v : DWord) :
    (w.setS i v).mode = w.mode := rfl
@[simp] theorem Wave.setS_cc (w : Wave) (i : Nat) (v : DWord) :
    (w.setS i v).cc = w.cc := rfl
@[simp] theorem Wave.setS_k (w : Wave) (i : Nat) (v : DWord) :
    (w.setS i v).k = w.k := rfl
@[simp] theorem Wave.setS_x (w : Wave) (i : Nat) (v : DWord) :
    (w.setS i v).x = w.x := rfl
@[simp] theorem Wave.setS_v (w : Wave) (i : Nat) (v : DWord) :
    (w.setS i v).v = w.v := rfl
@[simp] theorem Wave.setS_tile (w : Wave) (i : Nat) (v : DWord) :
    (w.setS i v).tile = w.tile := rfl
@[simp] theorem Wave.setS_tid (w : Wave) (i : Nat) (v : DWord) :
    (w.setS i v).tid = w.tid := rfl
@[simp] theorem Wave.setS_slots (w : Wave) (i : Nat) (v : DWord) :
    (w.setS i v).slots = w.slots := rfl
@[simp] theorem Wave.setS_nb (w : Wave) (i : Nat) (v : DWord) :
    (w.setS i v).nb = w.nb := rfl
@[simp] theorem Wave.setS_mb (w : Wave) (i : Nat) (v : DWord) :
    (w.setS i v).mb = w.mb := rfl
@[simp] theorem Wave.setS_openSet (w : Wave) (i : Nat) (v : DWord) :
    (w.setS i v).openSet = w.openSet := rfl
@[simp] theorem Wave.setS_batches (w : Wave) (i : Nat) (v : DWord) :
    (w.setS i v).batches = w.batches := rfl
@[simp] theorem Wave.setS_uivec (w : Wave) (i : Nat) (v : DWord) :
    (w.setS i v).uivec = w.uivec := rfl
@[simp] theorem Wave.setS_uiepc (w : Wave) (i : Nat) (v : DWord) :
    (w.setS i v).uiepc = w.uiepc := rfl
@[simp] theorem Wave.setS_uisave (w : Wave) (i : Nat) (v : DWord) :
    (w.setS i v).uisave = w.uisave := rfl
@[simp] theorem Wave.setS_uictr (w : Wave) (i : Nat) (v : DWord) :
    (w.setS i v).uictr = w.uictr := rfl
@[simp] theorem Wave.setS_uithr (w : Wave) (i : Nat) (v : DWord) :
    (w.setS i v).uithr = w.uithr := rfl
@[simp] theorem Wave.setS_uiArmed (w : Wave) (i : Nat) (v : DWord) :
    (w.setS i v).uiArmed = w.uiArmed := rfl
@[simp] theorem Wave.setS_uiAct (w : Wave) (i : Nat) (v : DWord) :
    (w.setS i v).uiAct = w.uiAct := rfl
@[simp] theorem Wave.setS_uiPend (w : Wave) (i : Nat) (v : DWord) :
    (w.setS i v).uiPend = w.uiPend := rfl
@[simp] theorem Wave.setS_uiEn (w : Wave) (i : Nat) (v : DWord) :
    (w.setS i v).uiEn = w.uiEn := rfl
@[simp] theorem Wave.setS_st (w : Wave) (i : Nat) (v : DWord) :
    (w.setS i v).st = w.st := rfl
@[simp] theorem Wave.setS_await (w : Wave) (i : Nat) (v : DWord) :
    (w.setS i v).await = w.await := rfl
@[simp] theorem Wave.setS_halted (w : Wave) (i : Nat) (v : DWord) :
    (w.setS i v).halted = w.halted := rfl
@[simp] theorem Wave.setS_refilling (w : Wave) (i : Nat) (v : DWord) :
    (w.setS i v).refilling = w.refilling := rfl
@[simp] theorem Wave.setS_due (w : Wave) (i : Nat) (v : DWord) :
    (w.setS i v).due = w.due := rfl
@[simp] theorem Wave.setS_unf (w : Wave) (i : Nat) (v : DWord) :
    (w.setS i v).unf = w.unf := rfl
@[simp] theorem Wave.setS_unfKind (w : Wave) (i : Nat) (v : DWord) :
    (w.setS i v).unfKind = w.unfKind := rfl
@[simp] theorem Wave.setS_asked (w : Wave) (i : Nat) (v : DWord) :
    (w.setS i v).asked = w.asked := rfl
@[simp] theorem Wave.setS_told (w : Wave) (i : Nat) (v : DWord) :
    (w.setS i v).told = w.told := rfl
@[simp] theorem Wave.setS_gathB (w : Wave) (i : Nat) (v : DWord) :
    (w.setS i v).gathB = w.gathB := rfl
@[simp] theorem Wave.setS_gathF (w : Wave) (i : Nat) (v : DWord) :
    (w.setS i v).gathF = w.gathF := rfl
@[simp] theorem Wave.setS_die (w : Wave) (i : Nat) (v : DWord) :
    (w.setS i v).die = w.die := rfl
@[simp] theorem Wave.setS_cluster (w : Wave) (i : Nat) (v : DWord) :
    (w.setS i v).cluster = w.cluster := rfl
@[simp] theorem Wave.setS_core (w : Wave) (i : Nat) (v : DWord) :
    (w.setS i v).core = w.core := rfl
@[simp] theorem Wave.setS_part (w : Wave) (i : Nat) (v : DWord) :
    (w.setS i v).part = w.part := rfl
@[simp] theorem Wave.setS_slot (w : Wave) (i : Nat) (v : DWord) :
    (w.setS i v).slot = w.slot := rfl
@[simp] theorem Wave.setS_stampA (w : Wave) (i : Nat) (v : DWord) :
    (w.setS i v).stampA = w.stampA := rfl
@[simp] theorem Wave.setS_stampB (w : Wave) (i : Nat) (v : DWord) :
    (w.setS i v).stampB = w.stampB := rfl
@[simp] theorem Wave.setS_runA (w : Wave) (i : Nat) (v : DWord) :
    (w.setS i v).runA = w.runA := rfl
@[simp] theorem Wave.setS_runB (w : Wave) (i : Nat) (v : DWord) :
    (w.setS i v).runB = w.runB := rfl
@[simp] theorem Wave.setS_since (w : Wave) (i : Nat) (v : DWord) :
    (w.setS i v).since = w.since := rfl
@[simp] theorem Wave.setS_stallAt (w : Wave) (i : Nat) (v : DWord) :
    (w.setS i v).stallAt = w.stallAt := rfl
@[simp] theorem Wave.setS_pair (w : Wave) (i : Nat) (v : DWord) :
    (w.setS i v).pair = w.pair := rfl
@[simp] theorem Wave.setS_ctx (w : Wave) (i : Nat) (v : DWord) :
    (w.setS i v).ctx = w.ctx := rfl

/-! ### `Wave.setK` -/

@[simp] theorem Wave.setK_hdl (w : Wave) (i : Nat) (v : Word) :
    (w.setK i v).hdl = w.hdl := rfl
@[simp] theorem Wave.setK_proc (w : Wave) (i : Nat) (v : Word) :
    (w.setK i v).proc = w.proc := rfl
@[simp] theorem Wave.setK_team (w : Wave) (i : Nat) (v : Word) :
    (w.setK i v).team = w.team := rfl
@[simp] theorem Wave.setK_widx (w : Wave) (i : Nat) (v : Word) :
    (w.setK i v).widx = w.widx := rfl
@[simp] theorem Wave.setK_consumer (w : Wave) (i : Nat) (v : Word) :
    (w.setK i v).consumer = w.consumer := rfl
@[simp] theorem Wave.setK_priv (w : Wave) (i : Nat) (v : Word) :
    (w.setK i v).priv = w.priv := rfl
@[simp] theorem Wave.setK_vblk (w : Wave) (i : Nat) (v : Word) :
    (w.setK i v).vblk = w.vblk := rfl
@[simp] theorem Wave.setK_ntiles (w : Wave) (i : Nat) (v : Word) :
    (w.setK i v).ntiles = w.ntiles := rfl
@[simp] theorem Wave.setK_basePri (w : Wave) (i : Nat) (v : Word) :
    (w.setK i v).basePri = w.basePri := rfl
@[simp] theorem Wave.setK_curPri (w : Wave) (i : Nat) (v : Word) :
    (w.setK i v).curPri = w.curPri := rfl
@[simp] theorem Wave.setK_codever (w : Wave) (i : Nat) (v : Word) :
    (w.setK i v).codever = w.codever := rfl
@[simp] theorem Wave.setK_xctr (w : Wave) (i : Nat) (v : Word) :
    (w.setK i v).xctr = w.xctr := rfl
@[simp] theorem Wave.setK_pc (w : Wave) (i : Nat) (v : Word) :
    (w.setK i v).pc = w.pc := rfl
@[simp] theorem Wave.setK_mode (w : Wave) (i : Nat) (v : Word) :
    (w.setK i v).mode = w.mode := rfl
@[simp] theorem Wave.setK_cc (w : Wave) (i : Nat) (v : Word) :
    (w.setK i v).cc = w.cc := rfl
@[simp] theorem Wave.setK_s (w : Wave) (i : Nat) (v : Word) :
    (w.setK i v).s = w.s := rfl
@[simp] theorem Wave.setK_x (w : Wave) (i : Nat) (v : Word) :
    (w.setK i v).x = w.x := rfl
@[simp] theorem Wave.setK_v (w : Wave) (i : Nat) (v : Word) :
    (w.setK i v).v = w.v := rfl
@[simp] theorem Wave.setK_tile (w : Wave) (i : Nat) (v : Word) :
    (w.setK i v).tile = w.tile := rfl
@[simp] theorem Wave.setK_tid (w : Wave) (i : Nat) (v : Word) :
    (w.setK i v).tid = w.tid := rfl
@[simp] theorem Wave.setK_slots (w : Wave) (i : Nat) (v : Word) :
    (w.setK i v).slots = w.slots := rfl
@[simp] theorem Wave.setK_nb (w : Wave) (i : Nat) (v : Word) :
    (w.setK i v).nb = w.nb := rfl
@[simp] theorem Wave.setK_mb (w : Wave) (i : Nat) (v : Word) :
    (w.setK i v).mb = w.mb := rfl
@[simp] theorem Wave.setK_openSet (w : Wave) (i : Nat) (v : Word) :
    (w.setK i v).openSet = w.openSet := rfl
@[simp] theorem Wave.setK_batches (w : Wave) (i : Nat) (v : Word) :
    (w.setK i v).batches = w.batches := rfl
@[simp] theorem Wave.setK_uivec (w : Wave) (i : Nat) (v : Word) :
    (w.setK i v).uivec = w.uivec := rfl
@[simp] theorem Wave.setK_uiepc (w : Wave) (i : Nat) (v : Word) :
    (w.setK i v).uiepc = w.uiepc := rfl
@[simp] theorem Wave.setK_uisave (w : Wave) (i : Nat) (v : Word) :
    (w.setK i v).uisave = w.uisave := rfl
@[simp] theorem Wave.setK_uictr (w : Wave) (i : Nat) (v : Word) :
    (w.setK i v).uictr = w.uictr := rfl
@[simp] theorem Wave.setK_uithr (w : Wave) (i : Nat) (v : Word) :
    (w.setK i v).uithr = w.uithr := rfl
@[simp] theorem Wave.setK_uiArmed (w : Wave) (i : Nat) (v : Word) :
    (w.setK i v).uiArmed = w.uiArmed := rfl
@[simp] theorem Wave.setK_uiAct (w : Wave) (i : Nat) (v : Word) :
    (w.setK i v).uiAct = w.uiAct := rfl
@[simp] theorem Wave.setK_uiPend (w : Wave) (i : Nat) (v : Word) :
    (w.setK i v).uiPend = w.uiPend := rfl
@[simp] theorem Wave.setK_uiEn (w : Wave) (i : Nat) (v : Word) :
    (w.setK i v).uiEn = w.uiEn := rfl
@[simp] theorem Wave.setK_st (w : Wave) (i : Nat) (v : Word) :
    (w.setK i v).st = w.st := rfl
@[simp] theorem Wave.setK_await (w : Wave) (i : Nat) (v : Word) :
    (w.setK i v).await = w.await := rfl
@[simp] theorem Wave.setK_halted (w : Wave) (i : Nat) (v : Word) :
    (w.setK i v).halted = w.halted := rfl
@[simp] theorem Wave.setK_refilling (w : Wave) (i : Nat) (v : Word) :
    (w.setK i v).refilling = w.refilling := rfl
@[simp] theorem Wave.setK_due (w : Wave) (i : Nat) (v : Word) :
    (w.setK i v).due = w.due := rfl
@[simp] theorem Wave.setK_unf (w : Wave) (i : Nat) (v : Word) :
    (w.setK i v).unf = w.unf := rfl
@[simp] theorem Wave.setK_unfKind (w : Wave) (i : Nat) (v : Word) :
    (w.setK i v).unfKind = w.unfKind := rfl
@[simp] theorem Wave.setK_asked (w : Wave) (i : Nat) (v : Word) :
    (w.setK i v).asked = w.asked := rfl
@[simp] theorem Wave.setK_told (w : Wave) (i : Nat) (v : Word) :
    (w.setK i v).told = w.told := rfl
@[simp] theorem Wave.setK_gathB (w : Wave) (i : Nat) (v : Word) :
    (w.setK i v).gathB = w.gathB := rfl
@[simp] theorem Wave.setK_gathF (w : Wave) (i : Nat) (v : Word) :
    (w.setK i v).gathF = w.gathF := rfl
@[simp] theorem Wave.setK_die (w : Wave) (i : Nat) (v : Word) :
    (w.setK i v).die = w.die := rfl
@[simp] theorem Wave.setK_cluster (w : Wave) (i : Nat) (v : Word) :
    (w.setK i v).cluster = w.cluster := rfl
@[simp] theorem Wave.setK_core (w : Wave) (i : Nat) (v : Word) :
    (w.setK i v).core = w.core := rfl
@[simp] theorem Wave.setK_part (w : Wave) (i : Nat) (v : Word) :
    (w.setK i v).part = w.part := rfl
@[simp] theorem Wave.setK_slot (w : Wave) (i : Nat) (v : Word) :
    (w.setK i v).slot = w.slot := rfl
@[simp] theorem Wave.setK_stampA (w : Wave) (i : Nat) (v : Word) :
    (w.setK i v).stampA = w.stampA := rfl
@[simp] theorem Wave.setK_stampB (w : Wave) (i : Nat) (v : Word) :
    (w.setK i v).stampB = w.stampB := rfl
@[simp] theorem Wave.setK_runA (w : Wave) (i : Nat) (v : Word) :
    (w.setK i v).runA = w.runA := rfl
@[simp] theorem Wave.setK_runB (w : Wave) (i : Nat) (v : Word) :
    (w.setK i v).runB = w.runB := rfl
@[simp] theorem Wave.setK_since (w : Wave) (i : Nat) (v : Word) :
    (w.setK i v).since = w.since := rfl
@[simp] theorem Wave.setK_stallAt (w : Wave) (i : Nat) (v : Word) :
    (w.setK i v).stallAt = w.stallAt := rfl
@[simp] theorem Wave.setK_pair (w : Wave) (i : Nat) (v : Word) :
    (w.setK i v).pair = w.pair := rfl
@[simp] theorem Wave.setK_ctx (w : Wave) (i : Nat) (v : Word) :
    (w.setK i v).ctx = w.ctx := rfl

/-! ### `Wave.setX` -/

@[simp] theorem Wave.setX_hdl (w : Wave) (i : Nat) (v : BitVec 256) :
    (w.setX i v).hdl = w.hdl := rfl
@[simp] theorem Wave.setX_proc (w : Wave) (i : Nat) (v : BitVec 256) :
    (w.setX i v).proc = w.proc := rfl
@[simp] theorem Wave.setX_team (w : Wave) (i : Nat) (v : BitVec 256) :
    (w.setX i v).team = w.team := rfl
@[simp] theorem Wave.setX_widx (w : Wave) (i : Nat) (v : BitVec 256) :
    (w.setX i v).widx = w.widx := rfl
@[simp] theorem Wave.setX_consumer (w : Wave) (i : Nat) (v : BitVec 256) :
    (w.setX i v).consumer = w.consumer := rfl
@[simp] theorem Wave.setX_priv (w : Wave) (i : Nat) (v : BitVec 256) :
    (w.setX i v).priv = w.priv := rfl
@[simp] theorem Wave.setX_vblk (w : Wave) (i : Nat) (v : BitVec 256) :
    (w.setX i v).vblk = w.vblk := rfl
@[simp] theorem Wave.setX_ntiles (w : Wave) (i : Nat) (v : BitVec 256) :
    (w.setX i v).ntiles = w.ntiles := rfl
@[simp] theorem Wave.setX_basePri (w : Wave) (i : Nat) (v : BitVec 256) :
    (w.setX i v).basePri = w.basePri := rfl
@[simp] theorem Wave.setX_curPri (w : Wave) (i : Nat) (v : BitVec 256) :
    (w.setX i v).curPri = w.curPri := rfl
@[simp] theorem Wave.setX_codever (w : Wave) (i : Nat) (v : BitVec 256) :
    (w.setX i v).codever = w.codever := rfl
@[simp] theorem Wave.setX_xctr (w : Wave) (i : Nat) (v : BitVec 256) :
    (w.setX i v).xctr = w.xctr := rfl
@[simp] theorem Wave.setX_pc (w : Wave) (i : Nat) (v : BitVec 256) :
    (w.setX i v).pc = w.pc := rfl
@[simp] theorem Wave.setX_mode (w : Wave) (i : Nat) (v : BitVec 256) :
    (w.setX i v).mode = w.mode := rfl
@[simp] theorem Wave.setX_cc (w : Wave) (i : Nat) (v : BitVec 256) :
    (w.setX i v).cc = w.cc := rfl
@[simp] theorem Wave.setX_s (w : Wave) (i : Nat) (v : BitVec 256) :
    (w.setX i v).s = w.s := rfl
@[simp] theorem Wave.setX_k (w : Wave) (i : Nat) (v : BitVec 256) :
    (w.setX i v).k = w.k := rfl
@[simp] theorem Wave.setX_v (w : Wave) (i : Nat) (v : BitVec 256) :
    (w.setX i v).v = w.v := rfl
@[simp] theorem Wave.setX_tile (w : Wave) (i : Nat) (v : BitVec 256) :
    (w.setX i v).tile = w.tile := rfl
@[simp] theorem Wave.setX_tid (w : Wave) (i : Nat) (v : BitVec 256) :
    (w.setX i v).tid = w.tid := rfl
@[simp] theorem Wave.setX_slots (w : Wave) (i : Nat) (v : BitVec 256) :
    (w.setX i v).slots = w.slots := rfl
@[simp] theorem Wave.setX_nb (w : Wave) (i : Nat) (v : BitVec 256) :
    (w.setX i v).nb = w.nb := rfl
@[simp] theorem Wave.setX_mb (w : Wave) (i : Nat) (v : BitVec 256) :
    (w.setX i v).mb = w.mb := rfl
@[simp] theorem Wave.setX_openSet (w : Wave) (i : Nat) (v : BitVec 256) :
    (w.setX i v).openSet = w.openSet := rfl
@[simp] theorem Wave.setX_batches (w : Wave) (i : Nat) (v : BitVec 256) :
    (w.setX i v).batches = w.batches := rfl
@[simp] theorem Wave.setX_uivec (w : Wave) (i : Nat) (v : BitVec 256) :
    (w.setX i v).uivec = w.uivec := rfl
@[simp] theorem Wave.setX_uiepc (w : Wave) (i : Nat) (v : BitVec 256) :
    (w.setX i v).uiepc = w.uiepc := rfl
@[simp] theorem Wave.setX_uisave (w : Wave) (i : Nat) (v : BitVec 256) :
    (w.setX i v).uisave = w.uisave := rfl
@[simp] theorem Wave.setX_uictr (w : Wave) (i : Nat) (v : BitVec 256) :
    (w.setX i v).uictr = w.uictr := rfl
@[simp] theorem Wave.setX_uithr (w : Wave) (i : Nat) (v : BitVec 256) :
    (w.setX i v).uithr = w.uithr := rfl
@[simp] theorem Wave.setX_uiArmed (w : Wave) (i : Nat) (v : BitVec 256) :
    (w.setX i v).uiArmed = w.uiArmed := rfl
@[simp] theorem Wave.setX_uiAct (w : Wave) (i : Nat) (v : BitVec 256) :
    (w.setX i v).uiAct = w.uiAct := rfl
@[simp] theorem Wave.setX_uiPend (w : Wave) (i : Nat) (v : BitVec 256) :
    (w.setX i v).uiPend = w.uiPend := rfl
@[simp] theorem Wave.setX_uiEn (w : Wave) (i : Nat) (v : BitVec 256) :
    (w.setX i v).uiEn = w.uiEn := rfl
@[simp] theorem Wave.setX_st (w : Wave) (i : Nat) (v : BitVec 256) :
    (w.setX i v).st = w.st := rfl
@[simp] theorem Wave.setX_await (w : Wave) (i : Nat) (v : BitVec 256) :
    (w.setX i v).await = w.await := rfl
@[simp] theorem Wave.setX_halted (w : Wave) (i : Nat) (v : BitVec 256) :
    (w.setX i v).halted = w.halted := rfl
@[simp] theorem Wave.setX_refilling (w : Wave) (i : Nat) (v : BitVec 256) :
    (w.setX i v).refilling = w.refilling := rfl
@[simp] theorem Wave.setX_due (w : Wave) (i : Nat) (v : BitVec 256) :
    (w.setX i v).due = w.due := rfl
@[simp] theorem Wave.setX_unf (w : Wave) (i : Nat) (v : BitVec 256) :
    (w.setX i v).unf = w.unf := rfl
@[simp] theorem Wave.setX_unfKind (w : Wave) (i : Nat) (v : BitVec 256) :
    (w.setX i v).unfKind = w.unfKind := rfl
@[simp] theorem Wave.setX_asked (w : Wave) (i : Nat) (v : BitVec 256) :
    (w.setX i v).asked = w.asked := rfl
@[simp] theorem Wave.setX_told (w : Wave) (i : Nat) (v : BitVec 256) :
    (w.setX i v).told = w.told := rfl
@[simp] theorem Wave.setX_gathB (w : Wave) (i : Nat) (v : BitVec 256) :
    (w.setX i v).gathB = w.gathB := rfl
@[simp] theorem Wave.setX_gathF (w : Wave) (i : Nat) (v : BitVec 256) :
    (w.setX i v).gathF = w.gathF := rfl
@[simp] theorem Wave.setX_die (w : Wave) (i : Nat) (v : BitVec 256) :
    (w.setX i v).die = w.die := rfl
@[simp] theorem Wave.setX_cluster (w : Wave) (i : Nat) (v : BitVec 256) :
    (w.setX i v).cluster = w.cluster := rfl
@[simp] theorem Wave.setX_core (w : Wave) (i : Nat) (v : BitVec 256) :
    (w.setX i v).core = w.core := rfl
@[simp] theorem Wave.setX_part (w : Wave) (i : Nat) (v : BitVec 256) :
    (w.setX i v).part = w.part := rfl
@[simp] theorem Wave.setX_slot (w : Wave) (i : Nat) (v : BitVec 256) :
    (w.setX i v).slot = w.slot := rfl
@[simp] theorem Wave.setX_stampA (w : Wave) (i : Nat) (v : BitVec 256) :
    (w.setX i v).stampA = w.stampA := rfl
@[simp] theorem Wave.setX_stampB (w : Wave) (i : Nat) (v : BitVec 256) :
    (w.setX i v).stampB = w.stampB := rfl
@[simp] theorem Wave.setX_runA (w : Wave) (i : Nat) (v : BitVec 256) :
    (w.setX i v).runA = w.runA := rfl
@[simp] theorem Wave.setX_runB (w : Wave) (i : Nat) (v : BitVec 256) :
    (w.setX i v).runB = w.runB := rfl
@[simp] theorem Wave.setX_since (w : Wave) (i : Nat) (v : BitVec 256) :
    (w.setX i v).since = w.since := rfl
@[simp] theorem Wave.setX_stallAt (w : Wave) (i : Nat) (v : BitVec 256) :
    (w.setX i v).stallAt = w.stallAt := rfl
@[simp] theorem Wave.setX_pair (w : Wave) (i : Nat) (v : BitVec 256) :
    (w.setX i v).pair = w.pair := rfl
@[simp] theorem Wave.setX_ctx (w : Wave) (i : Nat) (v : BitVec 256) :
    (w.setX i v).ctx = w.ctx := rfl

/-! ### `Wave.setV` -/

@[simp] theorem Wave.setV_hdl (w : Wave) (r lane : Nat) (v : Word) :
    (w.setV r lane v).hdl = w.hdl := rfl
@[simp] theorem Wave.setV_proc (w : Wave) (r lane : Nat) (v : Word) :
    (w.setV r lane v).proc = w.proc := rfl
@[simp] theorem Wave.setV_team (w : Wave) (r lane : Nat) (v : Word) :
    (w.setV r lane v).team = w.team := rfl
@[simp] theorem Wave.setV_widx (w : Wave) (r lane : Nat) (v : Word) :
    (w.setV r lane v).widx = w.widx := rfl
@[simp] theorem Wave.setV_consumer (w : Wave) (r lane : Nat) (v : Word) :
    (w.setV r lane v).consumer = w.consumer := rfl
@[simp] theorem Wave.setV_priv (w : Wave) (r lane : Nat) (v : Word) :
    (w.setV r lane v).priv = w.priv := rfl
@[simp] theorem Wave.setV_vblk (w : Wave) (r lane : Nat) (v : Word) :
    (w.setV r lane v).vblk = w.vblk := rfl
@[simp] theorem Wave.setV_ntiles (w : Wave) (r lane : Nat) (v : Word) :
    (w.setV r lane v).ntiles = w.ntiles := rfl
@[simp] theorem Wave.setV_basePri (w : Wave) (r lane : Nat) (v : Word) :
    (w.setV r lane v).basePri = w.basePri := rfl
@[simp] theorem Wave.setV_curPri (w : Wave) (r lane : Nat) (v : Word) :
    (w.setV r lane v).curPri = w.curPri := rfl
@[simp] theorem Wave.setV_codever (w : Wave) (r lane : Nat) (v : Word) :
    (w.setV r lane v).codever = w.codever := rfl
@[simp] theorem Wave.setV_xctr (w : Wave) (r lane : Nat) (v : Word) :
    (w.setV r lane v).xctr = w.xctr := rfl
@[simp] theorem Wave.setV_pc (w : Wave) (r lane : Nat) (v : Word) :
    (w.setV r lane v).pc = w.pc := rfl
@[simp] theorem Wave.setV_mode (w : Wave) (r lane : Nat) (v : Word) :
    (w.setV r lane v).mode = w.mode := rfl
@[simp] theorem Wave.setV_cc (w : Wave) (r lane : Nat) (v : Word) :
    (w.setV r lane v).cc = w.cc := rfl
@[simp] theorem Wave.setV_s (w : Wave) (r lane : Nat) (v : Word) :
    (w.setV r lane v).s = w.s := rfl
@[simp] theorem Wave.setV_k (w : Wave) (r lane : Nat) (v : Word) :
    (w.setV r lane v).k = w.k := rfl
@[simp] theorem Wave.setV_x (w : Wave) (r lane : Nat) (v : Word) :
    (w.setV r lane v).x = w.x := rfl
@[simp] theorem Wave.setV_tile (w : Wave) (r lane : Nat) (v : Word) :
    (w.setV r lane v).tile = w.tile := rfl
@[simp] theorem Wave.setV_tid (w : Wave) (r lane : Nat) (v : Word) :
    (w.setV r lane v).tid = w.tid := rfl
@[simp] theorem Wave.setV_slots (w : Wave) (r lane : Nat) (v : Word) :
    (w.setV r lane v).slots = w.slots := rfl
@[simp] theorem Wave.setV_nb (w : Wave) (r lane : Nat) (v : Word) :
    (w.setV r lane v).nb = w.nb := rfl
@[simp] theorem Wave.setV_mb (w : Wave) (r lane : Nat) (v : Word) :
    (w.setV r lane v).mb = w.mb := rfl
@[simp] theorem Wave.setV_openSet (w : Wave) (r lane : Nat) (v : Word) :
    (w.setV r lane v).openSet = w.openSet := rfl
@[simp] theorem Wave.setV_batches (w : Wave) (r lane : Nat) (v : Word) :
    (w.setV r lane v).batches = w.batches := rfl
@[simp] theorem Wave.setV_uivec (w : Wave) (r lane : Nat) (v : Word) :
    (w.setV r lane v).uivec = w.uivec := rfl
@[simp] theorem Wave.setV_uiepc (w : Wave) (r lane : Nat) (v : Word) :
    (w.setV r lane v).uiepc = w.uiepc := rfl
@[simp] theorem Wave.setV_uisave (w : Wave) (r lane : Nat) (v : Word) :
    (w.setV r lane v).uisave = w.uisave := rfl
@[simp] theorem Wave.setV_uictr (w : Wave) (r lane : Nat) (v : Word) :
    (w.setV r lane v).uictr = w.uictr := rfl
@[simp] theorem Wave.setV_uithr (w : Wave) (r lane : Nat) (v : Word) :
    (w.setV r lane v).uithr = w.uithr := rfl
@[simp] theorem Wave.setV_uiArmed (w : Wave) (r lane : Nat) (v : Word) :
    (w.setV r lane v).uiArmed = w.uiArmed := rfl
@[simp] theorem Wave.setV_uiAct (w : Wave) (r lane : Nat) (v : Word) :
    (w.setV r lane v).uiAct = w.uiAct := rfl
@[simp] theorem Wave.setV_uiPend (w : Wave) (r lane : Nat) (v : Word) :
    (w.setV r lane v).uiPend = w.uiPend := rfl
@[simp] theorem Wave.setV_uiEn (w : Wave) (r lane : Nat) (v : Word) :
    (w.setV r lane v).uiEn = w.uiEn := rfl
@[simp] theorem Wave.setV_st (w : Wave) (r lane : Nat) (v : Word) :
    (w.setV r lane v).st = w.st := rfl
@[simp] theorem Wave.setV_await (w : Wave) (r lane : Nat) (v : Word) :
    (w.setV r lane v).await = w.await := rfl
@[simp] theorem Wave.setV_halted (w : Wave) (r lane : Nat) (v : Word) :
    (w.setV r lane v).halted = w.halted := rfl
@[simp] theorem Wave.setV_refilling (w : Wave) (r lane : Nat) (v : Word) :
    (w.setV r lane v).refilling = w.refilling := rfl
@[simp] theorem Wave.setV_due (w : Wave) (r lane : Nat) (v : Word) :
    (w.setV r lane v).due = w.due := rfl
@[simp] theorem Wave.setV_unf (w : Wave) (r lane : Nat) (v : Word) :
    (w.setV r lane v).unf = w.unf := rfl
@[simp] theorem Wave.setV_unfKind (w : Wave) (r lane : Nat) (v : Word) :
    (w.setV r lane v).unfKind = w.unfKind := rfl
@[simp] theorem Wave.setV_asked (w : Wave) (r lane : Nat) (v : Word) :
    (w.setV r lane v).asked = w.asked := rfl
@[simp] theorem Wave.setV_told (w : Wave) (r lane : Nat) (v : Word) :
    (w.setV r lane v).told = w.told := rfl
@[simp] theorem Wave.setV_gathB (w : Wave) (r lane : Nat) (v : Word) :
    (w.setV r lane v).gathB = w.gathB := rfl
@[simp] theorem Wave.setV_gathF (w : Wave) (r lane : Nat) (v : Word) :
    (w.setV r lane v).gathF = w.gathF := rfl
@[simp] theorem Wave.setV_die (w : Wave) (r lane : Nat) (v : Word) :
    (w.setV r lane v).die = w.die := rfl
@[simp] theorem Wave.setV_cluster (w : Wave) (r lane : Nat) (v : Word) :
    (w.setV r lane v).cluster = w.cluster := rfl
@[simp] theorem Wave.setV_core (w : Wave) (r lane : Nat) (v : Word) :
    (w.setV r lane v).core = w.core := rfl
@[simp] theorem Wave.setV_part (w : Wave) (r lane : Nat) (v : Word) :
    (w.setV r lane v).part = w.part := rfl
@[simp] theorem Wave.setV_slot (w : Wave) (r lane : Nat) (v : Word) :
    (w.setV r lane v).slot = w.slot := rfl
@[simp] theorem Wave.setV_stampA (w : Wave) (r lane : Nat) (v : Word) :
    (w.setV r lane v).stampA = w.stampA := rfl
@[simp] theorem Wave.setV_stampB (w : Wave) (r lane : Nat) (v : Word) :
    (w.setV r lane v).stampB = w.stampB := rfl
@[simp] theorem Wave.setV_runA (w : Wave) (r lane : Nat) (v : Word) :
    (w.setV r lane v).runA = w.runA := rfl
@[simp] theorem Wave.setV_runB (w : Wave) (r lane : Nat) (v : Word) :
    (w.setV r lane v).runB = w.runB := rfl
@[simp] theorem Wave.setV_since (w : Wave) (r lane : Nat) (v : Word) :
    (w.setV r lane v).since = w.since := rfl
@[simp] theorem Wave.setV_stallAt (w : Wave) (r lane : Nat) (v : Word) :
    (w.setV r lane v).stallAt = w.stallAt := rfl
@[simp] theorem Wave.setV_pair (w : Wave) (r lane : Nat) (v : Word) :
    (w.setV r lane v).pair = w.pair := rfl
@[simp] theorem Wave.setV_ctx (w : Wave) (r lane : Nat) (v : Word) :
    (w.setV r lane v).ctx = w.ctx := rfl

/-! ### `Wave.flag` -/

@[simp] theorem Wave.flag_hdl (w : Wave) (i : Nat) (b : Bool) :
    (w.flag i b).hdl = w.hdl := rfl
@[simp] theorem Wave.flag_proc (w : Wave) (i : Nat) (b : Bool) :
    (w.flag i b).proc = w.proc := rfl
@[simp] theorem Wave.flag_team (w : Wave) (i : Nat) (b : Bool) :
    (w.flag i b).team = w.team := rfl
@[simp] theorem Wave.flag_widx (w : Wave) (i : Nat) (b : Bool) :
    (w.flag i b).widx = w.widx := rfl
@[simp] theorem Wave.flag_consumer (w : Wave) (i : Nat) (b : Bool) :
    (w.flag i b).consumer = w.consumer := rfl
@[simp] theorem Wave.flag_priv (w : Wave) (i : Nat) (b : Bool) :
    (w.flag i b).priv = w.priv := rfl
@[simp] theorem Wave.flag_vblk (w : Wave) (i : Nat) (b : Bool) :
    (w.flag i b).vblk = w.vblk := rfl
@[simp] theorem Wave.flag_ntiles (w : Wave) (i : Nat) (b : Bool) :
    (w.flag i b).ntiles = w.ntiles := rfl
@[simp] theorem Wave.flag_basePri (w : Wave) (i : Nat) (b : Bool) :
    (w.flag i b).basePri = w.basePri := rfl
@[simp] theorem Wave.flag_curPri (w : Wave) (i : Nat) (b : Bool) :
    (w.flag i b).curPri = w.curPri := rfl
@[simp] theorem Wave.flag_codever (w : Wave) (i : Nat) (b : Bool) :
    (w.flag i b).codever = w.codever := rfl
@[simp] theorem Wave.flag_xctr (w : Wave) (i : Nat) (b : Bool) :
    (w.flag i b).xctr = w.xctr := rfl
@[simp] theorem Wave.flag_pc (w : Wave) (i : Nat) (b : Bool) :
    (w.flag i b).pc = w.pc := rfl
@[simp] theorem Wave.flag_mode (w : Wave) (i : Nat) (b : Bool) :
    (w.flag i b).mode = w.mode := rfl
@[simp] theorem Wave.flag_s (w : Wave) (i : Nat) (b : Bool) :
    (w.flag i b).s = w.s := rfl
@[simp] theorem Wave.flag_k (w : Wave) (i : Nat) (b : Bool) :
    (w.flag i b).k = w.k := rfl
@[simp] theorem Wave.flag_x (w : Wave) (i : Nat) (b : Bool) :
    (w.flag i b).x = w.x := rfl
@[simp] theorem Wave.flag_v (w : Wave) (i : Nat) (b : Bool) :
    (w.flag i b).v = w.v := rfl
@[simp] theorem Wave.flag_tile (w : Wave) (i : Nat) (b : Bool) :
    (w.flag i b).tile = w.tile := rfl
@[simp] theorem Wave.flag_tid (w : Wave) (i : Nat) (b : Bool) :
    (w.flag i b).tid = w.tid := rfl
@[simp] theorem Wave.flag_slots (w : Wave) (i : Nat) (b : Bool) :
    (w.flag i b).slots = w.slots := rfl
@[simp] theorem Wave.flag_nb (w : Wave) (i : Nat) (b : Bool) :
    (w.flag i b).nb = w.nb := rfl
@[simp] theorem Wave.flag_mb (w : Wave) (i : Nat) (b : Bool) :
    (w.flag i b).mb = w.mb := rfl
@[simp] theorem Wave.flag_openSet (w : Wave) (i : Nat) (b : Bool) :
    (w.flag i b).openSet = w.openSet := rfl
@[simp] theorem Wave.flag_batches (w : Wave) (i : Nat) (b : Bool) :
    (w.flag i b).batches = w.batches := rfl
@[simp] theorem Wave.flag_uivec (w : Wave) (i : Nat) (b : Bool) :
    (w.flag i b).uivec = w.uivec := rfl
@[simp] theorem Wave.flag_uiepc (w : Wave) (i : Nat) (b : Bool) :
    (w.flag i b).uiepc = w.uiepc := rfl
@[simp] theorem Wave.flag_uisave (w : Wave) (i : Nat) (b : Bool) :
    (w.flag i b).uisave = w.uisave := rfl
@[simp] theorem Wave.flag_uictr (w : Wave) (i : Nat) (b : Bool) :
    (w.flag i b).uictr = w.uictr := rfl
@[simp] theorem Wave.flag_uithr (w : Wave) (i : Nat) (b : Bool) :
    (w.flag i b).uithr = w.uithr := rfl
@[simp] theorem Wave.flag_uiArmed (w : Wave) (i : Nat) (b : Bool) :
    (w.flag i b).uiArmed = w.uiArmed := rfl
@[simp] theorem Wave.flag_uiAct (w : Wave) (i : Nat) (b : Bool) :
    (w.flag i b).uiAct = w.uiAct := rfl
@[simp] theorem Wave.flag_uiPend (w : Wave) (i : Nat) (b : Bool) :
    (w.flag i b).uiPend = w.uiPend := rfl
@[simp] theorem Wave.flag_uiEn (w : Wave) (i : Nat) (b : Bool) :
    (w.flag i b).uiEn = w.uiEn := rfl
@[simp] theorem Wave.flag_st (w : Wave) (i : Nat) (b : Bool) :
    (w.flag i b).st = w.st := rfl
@[simp] theorem Wave.flag_await (w : Wave) (i : Nat) (b : Bool) :
    (w.flag i b).await = w.await := rfl
@[simp] theorem Wave.flag_halted (w : Wave) (i : Nat) (b : Bool) :
    (w.flag i b).halted = w.halted := rfl
@[simp] theorem Wave.flag_refilling (w : Wave) (i : Nat) (b : Bool) :
    (w.flag i b).refilling = w.refilling := rfl
@[simp] theorem Wave.flag_due (w : Wave) (i : Nat) (b : Bool) :
    (w.flag i b).due = w.due := rfl
@[simp] theorem Wave.flag_unf (w : Wave) (i : Nat) (b : Bool) :
    (w.flag i b).unf = w.unf := rfl
@[simp] theorem Wave.flag_unfKind (w : Wave) (i : Nat) (b : Bool) :
    (w.flag i b).unfKind = w.unfKind := rfl
@[simp] theorem Wave.flag_asked (w : Wave) (i : Nat) (b : Bool) :
    (w.flag i b).asked = w.asked := rfl
@[simp] theorem Wave.flag_told (w : Wave) (i : Nat) (b : Bool) :
    (w.flag i b).told = w.told := rfl
@[simp] theorem Wave.flag_gathB (w : Wave) (i : Nat) (b : Bool) :
    (w.flag i b).gathB = w.gathB := rfl
@[simp] theorem Wave.flag_gathF (w : Wave) (i : Nat) (b : Bool) :
    (w.flag i b).gathF = w.gathF := rfl
@[simp] theorem Wave.flag_die (w : Wave) (i : Nat) (b : Bool) :
    (w.flag i b).die = w.die := rfl
@[simp] theorem Wave.flag_cluster (w : Wave) (i : Nat) (b : Bool) :
    (w.flag i b).cluster = w.cluster := rfl
@[simp] theorem Wave.flag_core (w : Wave) (i : Nat) (b : Bool) :
    (w.flag i b).core = w.core := rfl
@[simp] theorem Wave.flag_part (w : Wave) (i : Nat) (b : Bool) :
    (w.flag i b).part = w.part := rfl
@[simp] theorem Wave.flag_slot (w : Wave) (i : Nat) (b : Bool) :
    (w.flag i b).slot = w.slot := rfl
@[simp] theorem Wave.flag_stampA (w : Wave) (i : Nat) (b : Bool) :
    (w.flag i b).stampA = w.stampA := rfl
@[simp] theorem Wave.flag_stampB (w : Wave) (i : Nat) (b : Bool) :
    (w.flag i b).stampB = w.stampB := rfl
@[simp] theorem Wave.flag_runA (w : Wave) (i : Nat) (b : Bool) :
    (w.flag i b).runA = w.runA := rfl
@[simp] theorem Wave.flag_runB (w : Wave) (i : Nat) (b : Bool) :
    (w.flag i b).runB = w.runB := rfl
@[simp] theorem Wave.flag_since (w : Wave) (i : Nat) (b : Bool) :
    (w.flag i b).since = w.since := rfl
@[simp] theorem Wave.flag_stallAt (w : Wave) (i : Nat) (b : Bool) :
    (w.flag i b).stallAt = w.stallAt := rfl
@[simp] theorem Wave.flag_pair (w : Wave) (i : Nat) (b : Bool) :
    (w.flag i b).pair = w.pair := rfl
@[simp] theorem Wave.flag_ctx (w : Wave) (i : Nat) (b : Bool) :
    (w.flag i b).ctx = w.ctx := rfl

/-! ### `Wave.advance` -/

@[simp] theorem Wave.advance_hdl (w : Wave) (n : Nat) :
    (w.advance n).hdl = w.hdl := rfl
@[simp] theorem Wave.advance_proc (w : Wave) (n : Nat) :
    (w.advance n).proc = w.proc := rfl
@[simp] theorem Wave.advance_team (w : Wave) (n : Nat) :
    (w.advance n).team = w.team := rfl
@[simp] theorem Wave.advance_widx (w : Wave) (n : Nat) :
    (w.advance n).widx = w.widx := rfl
@[simp] theorem Wave.advance_consumer (w : Wave) (n : Nat) :
    (w.advance n).consumer = w.consumer := rfl
@[simp] theorem Wave.advance_priv (w : Wave) (n : Nat) :
    (w.advance n).priv = w.priv := rfl
@[simp] theorem Wave.advance_vblk (w : Wave) (n : Nat) :
    (w.advance n).vblk = w.vblk := rfl
@[simp] theorem Wave.advance_ntiles (w : Wave) (n : Nat) :
    (w.advance n).ntiles = w.ntiles := rfl
@[simp] theorem Wave.advance_basePri (w : Wave) (n : Nat) :
    (w.advance n).basePri = w.basePri := rfl
@[simp] theorem Wave.advance_curPri (w : Wave) (n : Nat) :
    (w.advance n).curPri = w.curPri := rfl
@[simp] theorem Wave.advance_codever (w : Wave) (n : Nat) :
    (w.advance n).codever = w.codever := rfl
@[simp] theorem Wave.advance_xctr (w : Wave) (n : Nat) :
    (w.advance n).xctr = w.xctr := rfl
@[simp] theorem Wave.advance_mode (w : Wave) (n : Nat) :
    (w.advance n).mode = w.mode := rfl
@[simp] theorem Wave.advance_cc (w : Wave) (n : Nat) :
    (w.advance n).cc = w.cc := rfl
@[simp] theorem Wave.advance_s (w : Wave) (n : Nat) :
    (w.advance n).s = w.s := rfl
@[simp] theorem Wave.advance_k (w : Wave) (n : Nat) :
    (w.advance n).k = w.k := rfl
@[simp] theorem Wave.advance_x (w : Wave) (n : Nat) :
    (w.advance n).x = w.x := rfl
@[simp] theorem Wave.advance_v (w : Wave) (n : Nat) :
    (w.advance n).v = w.v := rfl
@[simp] theorem Wave.advance_tile (w : Wave) (n : Nat) :
    (w.advance n).tile = w.tile := rfl
@[simp] theorem Wave.advance_tid (w : Wave) (n : Nat) :
    (w.advance n).tid = w.tid := rfl
@[simp] theorem Wave.advance_slots (w : Wave) (n : Nat) :
    (w.advance n).slots = w.slots := rfl
@[simp] theorem Wave.advance_nb (w : Wave) (n : Nat) :
    (w.advance n).nb = w.nb := rfl
@[simp] theorem Wave.advance_mb (w : Wave) (n : Nat) :
    (w.advance n).mb = w.mb := rfl
@[simp] theorem Wave.advance_openSet (w : Wave) (n : Nat) :
    (w.advance n).openSet = w.openSet := rfl
@[simp] theorem Wave.advance_batches (w : Wave) (n : Nat) :
    (w.advance n).batches = w.batches := rfl
@[simp] theorem Wave.advance_uivec (w : Wave) (n : Nat) :
    (w.advance n).uivec = w.uivec := rfl
@[simp] theorem Wave.advance_uiepc (w : Wave) (n : Nat) :
    (w.advance n).uiepc = w.uiepc := rfl
@[simp] theorem Wave.advance_uisave (w : Wave) (n : Nat) :
    (w.advance n).uisave = w.uisave := rfl
@[simp] theorem Wave.advance_uictr (w : Wave) (n : Nat) :
    (w.advance n).uictr = w.uictr := rfl
@[simp] theorem Wave.advance_uithr (w : Wave) (n : Nat) :
    (w.advance n).uithr = w.uithr := rfl
@[simp] theorem Wave.advance_uiArmed (w : Wave) (n : Nat) :
    (w.advance n).uiArmed = w.uiArmed := rfl
@[simp] theorem Wave.advance_uiAct (w : Wave) (n : Nat) :
    (w.advance n).uiAct = w.uiAct := rfl
@[simp] theorem Wave.advance_uiPend (w : Wave) (n : Nat) :
    (w.advance n).uiPend = w.uiPend := rfl
@[simp] theorem Wave.advance_uiEn (w : Wave) (n : Nat) :
    (w.advance n).uiEn = w.uiEn := rfl
@[simp] theorem Wave.advance_st (w : Wave) (n : Nat) :
    (w.advance n).st = w.st := rfl
@[simp] theorem Wave.advance_await (w : Wave) (n : Nat) :
    (w.advance n).await = w.await := rfl
@[simp] theorem Wave.advance_halted (w : Wave) (n : Nat) :
    (w.advance n).halted = w.halted := rfl
@[simp] theorem Wave.advance_refilling (w : Wave) (n : Nat) :
    (w.advance n).refilling = w.refilling := rfl
@[simp] theorem Wave.advance_due (w : Wave) (n : Nat) :
    (w.advance n).due = w.due := rfl
@[simp] theorem Wave.advance_asked (w : Wave) (n : Nat) :
    (w.advance n).asked = w.asked := rfl
@[simp] theorem Wave.advance_told (w : Wave) (n : Nat) :
    (w.advance n).told = w.told := rfl
@[simp] theorem Wave.advance_die (w : Wave) (n : Nat) :
    (w.advance n).die = w.die := rfl
@[simp] theorem Wave.advance_cluster (w : Wave) (n : Nat) :
    (w.advance n).cluster = w.cluster := rfl
@[simp] theorem Wave.advance_core (w : Wave) (n : Nat) :
    (w.advance n).core = w.core := rfl
@[simp] theorem Wave.advance_part (w : Wave) (n : Nat) :
    (w.advance n).part = w.part := rfl
@[simp] theorem Wave.advance_slot (w : Wave) (n : Nat) :
    (w.advance n).slot = w.slot := rfl
@[simp] theorem Wave.advance_stampA (w : Wave) (n : Nat) :
    (w.advance n).stampA = w.stampA := rfl
@[simp] theorem Wave.advance_stampB (w : Wave) (n : Nat) :
    (w.advance n).stampB = w.stampB := rfl
@[simp] theorem Wave.advance_runA (w : Wave) (n : Nat) :
    (w.advance n).runA = w.runA := rfl
@[simp] theorem Wave.advance_runB (w : Wave) (n : Nat) :
    (w.advance n).runB = w.runB := rfl
@[simp] theorem Wave.advance_since (w : Wave) (n : Nat) :
    (w.advance n).since = w.since := rfl
@[simp] theorem Wave.advance_stallAt (w : Wave) (n : Nat) :
    (w.advance n).stallAt = w.stallAt := rfl
@[simp] theorem Wave.advance_pair (w : Wave) (n : Nat) :
    (w.advance n).pair = w.pair := rfl
@[simp] theorem Wave.advance_ctx (w : Wave) (n : Nat) :
    (w.advance n).ctx = w.ctx := rfl
@[simp] theorem Wave.advance_pc (w : Wave) (n : Nat) : (w.advance n).pc = w.pc + BitVec.ofNat 64 n := rfl

end Sys2Proof.Machine
end

