-- ==== Sys2Proof/Laws/Ops.lean ====
section
/-! SUPPORT. What the operations that every meaning shares do, each said once: moving past an instruction, slots, waiting and
parking, the gates behind which an instruction's work stands, and the two ends of TAKING A TRAP. -/

namespace Sys2Proof.Machine

/-! ### What changes the wave at issue alone -/

theorem State.jump_eq (s : State) (pc : DWord) : s.jump pc =
    { s with wave := { s.wave with pc := pc, unf := 0#32, unfKind := .no, gathB := false, gathF := false } } := rfl

theorem State.waitSlots_eq (s : State) (x : Slots) :
    s.waitSlots x = { s with wave := { s.wave with slots := s.wave.slots &&& ~~~x.wait } } := rfl

theorem State.setSlot_none (s : State) (x : Slots) (h : x.set = false) : s.setSlot x = s := by
  simp [State.setSlot, h]

theorem State.setSlot_some (s : State) (x : Slots) (h : x.set = true) :
    s.setSlot x = { s with wave := { s.wave with slots := s.wave.slots ||| BitVec.ofNat 8 (2 ^ x.slot.toNat) } } := by
  simp [State.setSlot, h, State.onWave]

/-- An instruction without a set slot leaves no slot it waited on outstanding, and no other changes. -/
theorem State.waitSlots_slots (s : State) (x : Slots) : (s.waitSlots x).wave.slots = s.wave.slots &&& ~~~x.wait := rfl

theorem State.wait_eq (s : State) (a : Await) : s.wait a =
    { s with wave := { s.wave with st := .waiting, await := a, due := false, since := s.nowOf s.wave.die } } := rfl

theorem State.park_eq (s : State) (a : Await) : s.park a =
    { s with wave := { s.wave with st := .parked, await := a, due := false, slots := 0#8,
                                   since := s.nowOf s.wave.die } } := rfl

/-! ### The gates of an instruction (R195, R292, R367, R372, R376) -/

theorem State.waitMmas_nil (s : State) (body : State → State) : s.waitMmas [] body = body s := by
  simp [State.waitMmas]

/-- The wave has no MMA that has not completed. -/
def State.NoMmas (s : State) : Prop := ∀ m ∈ s.mmas, m.wave ≠ s.wave.hdl

theorem State.fragReaders_nil (s : State) (a : BitVec 8) (n : Nat) (h : s.NoMmas) : s.fragReaders a n = [] := by
  simp only [State.fragReaders, State.fragReadersOf, List.filter_eq_nil_iff]
  intro m hm
  simp [h m hm]

/-- Where the checks pass, and no MMA reads as a fragment what the instruction writes, its body runs. -/
theorem State.perform_body (s : State) (n : Need) (body : State → State) (hb : n.budget = true)
    (hp : n.privileged = true → s.wave.priv = true) (hc : n.convention = true)
    (hm : s.fragReaders n.writes.1 n.writes.2 = []) : s.perform n body = body s := by
  have hp' : (n.privileged && !s.wave.priv) = false := by
    cases h : n.privileged with
    | false => rfl
    | true => simp [hp h]
  simp [State.perform, hb, hc, hp', hm, State.waitMmas_nil]

/-- No instruction that writes no vector register waits for a fragment's reader. -/
theorem State.fragReaders_noVector (s : State) : s.fragReaders noVector.1 noVector.2 = [] := by
  simp [State.fragReaders, State.fragReadersOf, noVector]

/-- No error has arisen and none is injected: checked work is the work. -/
theorem State.sound_body (s : State) (cls : Check) (unit path : Nat) (l : Option (List Nat)) (body : State → State)
    (h : s.upset = none) : s.sound cls unit path l body = body s := by
  simp [State.sound, State.upsetAt, h]

theorem State.checked_body (s : State) (cls : Check) (unit path : Nat) (l : Option (List Nat)) (body : State → State)
    (h : s.upset = none) (hs : s.strikes l = none) : s.checked cls unit path l body = body s := by
  simp [State.checked, hs, State.sound_body, h]

theorem State.drainMmas_none (s : State) (h : s.NoMmas) : s.drainMmas s.wave.hdl = s := by
  have : s.mmas.filter (fun m => decide (m.wave = s.wave.hdl)) = [] := by
    simp only [List.filter_eq_nil_iff]
    intro m hm
    simp [h m hm]
  simp [State.drainMmas, this]

theorem State.drained_body (s : State) (body : State → State) (h : s.NoMmas) : s.drained body = body s := by
  simp [State.drained, State.drainMmas_none s h]

/-- An empty L1 has nothing to write back and nothing lost. -/
theorem State.release_empty (s : State) (core : Nat) (sc : Scope) (h : s.l1 = []) : s.release core sc = (s, []) := by
  unfold State.release
  split <;> simp [State.cleanCore, h]

theorem State.releaseFirst_body (s : State) (sc : Scope) (body : State → State) (h : s.l1 = []) :
    s.releaseFirst sc body = body s := by
  simp [State.releaseFirst, State.release_empty s _ _ h]

theorem State.leaving_body (s : State) (body : State → State) (h : s.NoMmas) (hl : s.l1 = []) :
    s.leaving body = body s := by
  simp [State.leaving, State.drained_body s _ h, State.release_empty s _ _ hl]

/-- A wave that is no side of a redundant pair has no comparison point. -/
theorem State.once_body (s : State) (k : PairPoint) (recs : List (List Byte)) (body : State → State)
    (h : s.wave.pair = none) : s.once k recs body = body s := by
  simp [State.once, h]

/-! ### The two ends of taking a trap (R355, R356) -/

/-- Without a fault port the record goes to the error log and the wave is killed. -/
theorem State.deliver_none (s : State) (a : Await) (kind : Nat) (body : List Byte) (more : List (List Byte))
    (h : s.faultPort s.wave.proc = none) :
    s.deliver a kind body more = (s.logRecord s.wave.die 0 body).kill s.wave.hdl := by
  simp only [State.deliver, h]

/-- With a fault port the wave's MMAs drain, what it wrote is released, the wave parks, and the message is sent. -/
theorem State.deliver_some (s : State) (a : Await) (kind : Nat) (body : List Byte) (more : List (List Byte))
    (p : Port) (h : s.faultPort s.wave.proc = some p) :
    s.deliver a kind body more =
      s.leaving fun u => (u.park a).sendFault s.wave.proc s.wave.die s.wave.hdl kind body more := by
  simp only [State.deliver, h]

/-- A trap at the instruction as a whole is one that names no lane, no address and its own PC. -/
theorem State.trap_eq (s : State) (t : Trap) : s.trap t = s.takeTrap t 0 0xFF 0#64 s.wave.pc := rfl

theorem State.trapAt_eq (s : State) (t : Trap) (detail lane : Nat) (addr : DWord) :
    s.trapAt t detail lane addr = s.takeTrap t detail lane addr s.wave.pc := rfl

/-! ### Returning from a trap (R364) -/

theorem Wave.continueAt_pc (w : Wave) (pc : DWord) : (w.continueAt pc).pc = pc := by
  unfold Wave.continueAt
  split
  · next h => exact h.symm
  · rfl

/-- What was unfinished at the PC goes on there. -/
theorem Wave.continueAt_same (w : Wave) : w.continueAt w.pc = w := by
  simp [Wave.continueAt]

/-! ### Flags (R212) -/

theorem setFlag_same (cc : BitVec 6) (i : Fin 6) (b : Bool) : (setFlag cc i b).getLsbD i = b := by
  revert cc i b
  decide

theorem setFlag_other (cc : BitVec 6) (i j : Fin 6) (b : Bool) (h : i ≠ j) :
    (setFlag cc i b).getLsbD j = cc.getLsbD j := by
  revert cc i j b
  decide

end Sys2Proof.Machine
end

