-- ==== Sys2Proof/Laws/Step.lean ====
section
/-! SUPPORT. What a step can do, said once: it has no power, or it takes a turn of the agenda, or the oldest work owed, or an
event that is due, or a ready wave's turn, or it lets a tick pass. -/

namespace Sys2Proof.Machine

/-! ### The clocks (R2, R435) -/

theorem advanceClock_agrees (c : Two Nat) (a b : Nat) :
    (advanceClock c a b).c0 ≤ (advanceClock c a b).c1 + 2 ∧ (advanceClock c a b).c1 ≤ (advanceClock c a b).c0 + 2 := by
  simp only [advanceClock]
  omega

theorem advanceClock_rises (c : Two Nat) (a b : Nat) : c.c0 ≤ (advanceClock c a b).c0 ∧ c.c1 ≤ (advanceClock c a b).c1 := by
  simp only [advanceClock]
  omega

@[simp] theorem State.elapse_clock (s : State) (a b : Nat) : (s.elapse a b).clock = advanceClock s.clock a b := rfl
@[simp] theorem State.elapse_mem (s : State) (a b : Nat) : (s.elapse a b).mem = s.mem := rfl
@[simp] theorem State.elapse_wave (s : State) (a b : Nat) : (s.elapse a b).wave = s.wave := rfl
@[simp] theorem State.elapse_agenda (s : State) (a b : Nat) : (s.elapse a b).agenda = s.agenda := rfl
@[simp] theorem State.elapse_work (s : State) (a b : Nat) : (s.elapse a b).work = s.work := rfl

/-! ### The step -/

/-- A package without power does nothing until it is reset. -/
theorem step_tripped (s : State) (h : s.tripped = true) (hr : s.resets = false) : step s = .fault .poweredOff := by
  simp only [step, h, hr, Bool.not_false, Bool.and_true, ↓reduceIte]

/-- A turn of the agenda goes before everything else. -/
theorem step_agenda (s : State) (t : Turn) (rest : List Turn) (h : s.agenda = t :: rest)
    (hp : (s.tripped && !s.resets) = false) :
    step s = turn t ({ s with agenda := rest }.elapse t.time.1 t.time.2) := by
  simp only [step, hp, h, Bool.false_eq_true, ↓reduceIte]

/-- Work that the machine owes itself goes next, the oldest first. -/
theorem step_work (s : State) (i : Instr) (inp : Input) (rest : List (Instr × Input)) (ha : s.agenda = [])
    (hw : s.work = (i, inp) :: rest) (hp : (s.tripped && !s.resets) = false) :
    step s = exec i { s.elapse Config.tick Config.tick with work := rest, inp := inp } := by
  simp only [step, hp, ha, State.elapse_work, hw, Bool.false_eq_true, ↓reduceIte]

/-- Everything that a step which gives a next state did. -/
theorem step_cases {s t : State} (h : step s = .next t) :
    (s.tripped && !s.resets) = false ∧
    ((∃ a rest, s.agenda = a :: rest ∧
        turn a ({ s with agenda := rest }.elapse a.time.1 a.time.2) = .next t) ∨
     (s.agenda = [] ∧ ∃ u, u = s.elapse Config.tick Config.tick ∧
       ((∃ i inp rest, u.work = (i, inp) :: rest ∧ exec i { u with work := rest, inp := inp } = .next t) ∨
        (u.work = [] ∧ ∃ i inp, u.dueEvent = some (i, inp) ∧ exec i { u with inp := inp } = .next t) ∨
        (u.work = [] ∧ u.dueEvent = none ∧ ∃ w, u.nextReady = some w ∧ issue w u = .next t) ∨
        (u.work = [] ∧ u.dueEvent = none ∧ u.nextReady = none ∧ t = u)))) := by
  unfold step at h
  split at h
  · cases h
  · next hp =>
    refine ⟨by simpa using hp, ?_⟩
    split at h
    · next a rest ha => exact .inl ⟨a, rest, ha, h⟩
    · next ha =>
      refine .inr ⟨ha, _, rfl, ?_⟩
      dsimp only at h
      split at h
      · next i inp rest hw => exact .inl ⟨i, inp, rest, hw, h⟩
      · next hw =>
        split at h
        · next i inp hd => exact .inr (.inl ⟨hw, i, inp, hd, h⟩)
        · next hd =>
          split at h
          · next w hr => exact .inr (.inr (.inl ⟨hw, hd, w, hr, h⟩))
          · next hr => exact .inr (.inr (.inr ⟨hw, hd, hr, by cases h; rfl⟩))

/-- An invariant that every turn, instruction and event keeps, and the passing of a tick, is kept by every step. -/
theorem step_keeps {Inv : State → Prop} {s t : State} (h : step s = .next t) (hs : Inv s)
    (hclock : ∀ u a b, Inv u → Inv (State.elapse u a b))
    (hagenda : ∀ u l, Inv u → Inv { u with agenda := l })
    (hwork : ∀ u l inp, Inv u → Inv { u with work := l, inp := inp })
    (hinp : ∀ u inp, Inv u → Inv { u with inp := inp })
    (hturn : ∀ a u v, Inv u → turn a u = .next v → Inv v)
    (hexec : ∀ i u v, Inv u → exec i u = .next v → Inv v)
    (hissue : ∀ w u v, Inv u → issue w u = .next v → Inv v) : Inv t := by
  obtain ⟨-, ⟨a, rest, -, hx⟩ | ⟨-, u, rfl, hx⟩⟩ := step_cases h
  · exact hturn a _ _ (hclock _ _ _ (hagenda s rest hs)) hx
  · have hu := hclock s Config.tick Config.tick hs
    obtain ⟨i, inp, rest, -, hx⟩ | ⟨-, i, inp, -, hx⟩ | ⟨-, -, w, -, hx⟩ | ⟨-, -, -, rfl⟩ := hx
    · exact hexec i _ _ (hwork _ rest inp hu) hx
    · exact hexec i _ _ (hinp _ inp hu) hx
    · exact hissue w _ _ hu hx
    · exact hu

end Sys2Proof.Machine
end

