-- ==== Sys2Proof/Tests/Slice0.lean ====
section
/-! SUPPORT. Tests: words that the spec writes out and what they decode to, one ill-formed term for each check of
`Instr.wf`, and single steps of single instructions on a small state. The expected values are the spec's: its worked
examples, or worked out by hand from the rule that a test names. -/

set_option Elab.async false

namespace Sys2Proof.Tests

open Sys2Proof.Machine

/-! ### Decoding (R179 to R192): words of the spec's worked examples -/

def quiet : Slots := ⟨false, 0#3, 0#8⟩

theorem test_decode_uniform :
    decode 0x1E040001#32 0x80000000#32 = .ok (.sliZ 4#8 0x80000000#32) ∧
    decode 0x1E040002#32 0xFFFF0000#32 = .ok (.sliHi 4#8 0xFFFF0000#32) ∧
    decode 0x1E050000#32 1#32 = .ok (.sli 5#8 1#32) ∧ decode 0x1C000405#32 0#32 = .ok (.scmp 4#8 5#8) ∧
    decode 0x10060404#32 0#32 = .ok (.sadd 6#8 4#8 4#8) ∧ decode 0x350A5100#32 0#32 = .ok (.kpop 10#8 0x51#8) :=
  ⟨rfl, rfl, rfl, rfl, rfl, rfl⟩

theorem test_decode_control :
    decode 0x01FFFFF9#32 0#32 = .ok (.br 0xFFFFF9#24) ∧ decode 0x02040000#32 7#32 = .ok (.bcc .lo 7#32) ∧
    decode 0x09000000#32 0#32 = .ok .exit ∧ decode 0x22000202#32 0#32 = .ok (.setmPart 2#6 0#32) ∧
    decode 0x23080100#32 0#32 = .ok (.getmCc 8#8) ∧
    decode 0xFFFFFFFF#32 0#32 = .ok (.unassignedOpcode 0xFFFFFFFF#32) ∧
    decode 0xF8000000#32 0#32 = .ok (.unassignedOpcode 0xF8000000#32) :=
  ⟨rfl, rfl, rfl, rfl, rfl, rfl, rfl⟩

theorem test_decode_vector :
    decode 0x40140203#32 0#32 = .ok (.vadd 20#8 2#8 3#8) ∧ decode 0x6C060000#32 1#32 = .ok (.vmovLit 6#8 1#32) ∧
    decode 0x635104F0#32 5#32 = .ok (.vcmp .ge 1#3 4#8 0xF0#8) ∧
    decode 0x70050406#32 0#32 = .ok (.vfadd 5#8 4#8 6#8) ∧
    decode 0x8114080C#32 0x10#32 = .ok (.vpack 20#8 8#8 12#8 .e4m3 true) ∧
    decode 0x93030200#32 0xD0#32 = .ok (.vscan .add 5#3 true 3#8 2#8) ∧
    decode 0x93040200#32 0x50#32 = .ok (.vscan .add 5#3 false 4#8 2#8) ∧
    decode 0x920C0800#32 0xD0#32 = .ok (.vred .add 5#3 true 12#8 8#8) ∧
    decode 0x91050200#32 0x50A#32 = .ok (.vshflx .down false 5#3 1#5 5#8 2#8 0#8) ∧
    decode 0x95000E0F#32 0#32 = .ok (.regrp 14#8 15#8) :=
  ⟨rfl, rfl, rfl, rfl, rfl, rfl, rfl, rfl, rfl, rfl⟩

theorem test_decode_memory :
    decode 0xA0040102#32 0x00040800#32 = .ok (.ld 4#8 1#8 2#8 ⟨0#10, 0#2, .b32, .none, .wave, ⟨true, 0#3, 0#8⟩⟩) ∧
    decode 0xA1050302#32 0x00040001#32 = .ok (.st 5#8 3#8 2#8 ⟨0#10, 0#2, .b32, .none, .wave, ⟨false, 0#3, 1#8⟩⟩) ∧
    decode 0xA0081102#32 0xFF860000#32 = .ok (.ld 8#8 0x11#8 2#8 ⟨0x3FE#10, 0#2, .b64, .none, .wave, quiet⟩) ∧
    decode 0xA104010A#32 0x20040000#32 = .ok (.st 4#8 1#8 10#8 ⟨128#10, 0#2, .b32, .none, .wave, quiet⟩) ∧
    decode 0xA4084008#32 0x00040000#32 = .ok (.lds 8#8 0x40#8 8#8 ⟨0#10, 0#2, .b32, .none, .wave, quiet⟩) ∧
    decode 0xA6410400#32 0#32 = .ok (.xlat 1#4 4#8) ∧ decode 0xA6420601#32 0#32 = .ok (.xlatW 2#4 6#8) ∧
    decode 0xA8030500#32 0#32 = .ok (.fenceFull .pkg) ∧ decode 0xA9010200#32 0#32 = .ok (.fencex 1#3 2#3) ∧
    decode 0xAA040208#32 0x00840000#32 = .ok (.atomuAddRet 4#8 2#8 ⟨2#10, 0#2, .b32, .none, .wave, quiet⟩) ∧
    decode 0xB8040206#32 0x00040000#32 = .ok (.atomAddRet 4#8 2#8 6#8 ⟨0#10, 0#2, .b32, .none, .wave, quiet⟩) ∧
    decode 0xC00640F0#32 0x08071000#32 = .ok (.cadd 6#8 0x40#8 0xF0#8 ⟨32#10, 0#2, .b64, .rel, .team, quiet⟩) ∧
    decode 0xC2094000#32 0x08069000#32 = .ok (.cwait 9#8 0x40#8 0#8 ⟨32#10, 0#2, .b64, .acq, .team, quiet⟩) :=
  ⟨rfl, rfl, rfl, rfl, rfl, rfl, rfl, rfl, rfl, rfl, rfl, rfl, rfl⟩

theorem test_decode_matrix :
    decode 0xC8106006#32 0x00080900#32 = .ok (.tld 0x10#8 0x60#8 6#8 ⟨0#10, 0#2, .b128, .none, .wave, ⟨true, 1#3, 0#8⟩⟩) ∧
    decode 0xCA980000#32 0#32 = .ok (.tzero 0x98#8) ∧
    decode 0xCD581011#32 8#32 = .ok (.mma 0x58#8 0x10#8 0x11#8 8#6 false false false) ∧
    decode 0xCE582012#32 0x4E08#32 = .ok (.mmas 0x58#8 0x20#8 0x12#8 8#6 false false false 7#3 4#3 0#2) ∧
    decode 0xCF0A0000#32 0#32 = .ok (.mclose 10#8) ∧ decode 0xD0000A00#32 0#32 = .ok (.mwait 10#8) ∧
    decode 0xD159580C#32 0x10#32 = .ok (.tcvt 0x59#8 0x58#8 12#8 .e4m3 true 0#3 false .rne false) ∧
    decode 0xCB105800#32 5#32 = .ok (.tmovv 16#8 0x58#8 5#7 false 0#2) :=
  ⟨rfl, rfl, rfl, rfl, rfl, rfl, rfl, rfl⟩

theorem test_decode_objects :
    decode 0xE0040500#32 0#32 = .ok (.xcp 4#8 5#8 quiet) ∧
    decode 0xE1080502#32 0x900#32 = .ok (.xcpm 8#8 5#8 2#8 ⟨true, 1#3, 0#8⟩) ∧
    decode 0xE20C1400#32 0x3000#32 = .ok (.xgat 12#8 20#8 3#12 quiet) ∧
    decode 0xE3100600#32 0#32 = .ok (.xcoll 16#8 6#8 quiet) ∧
    decode 0xE8020600#32 0x1000#32 = .ok (.crwaveProc 2#8 6#8 quiet) ∧
    decode 0xEB140208#32 0#32 = .ok (.psend 20#8 2#8 8#8 quiet) ∧
    decode 0xEC080300#32 0xC000#32 = .ok (.precv 8#8 3#8 ⟨.acq, .die, quiet⟩) ∧
    decode 0xEE040607#32 0x11000#32 = .ok (.wssetTimer 4#8 6#8 7#8 1#3 quiet) ∧
    decode 0xEF050400#32 0xC000#32 = .ok (.wswait 5#8 4#8 ⟨.acq, .die, quiet⟩) ∧
    decode 0xF1030607#32 0x1000#32 = .ok (.tmarm 3#8 6#8 7#8 true quiet) ∧
    decode 0xF5000300#32 0#32 = .ok (.odel 3#8) :=
  ⟨rfl, rfl, rfl, rfl, rfl, rfl, rfl, rfl, rfl, rfl, rfl⟩

theorem test_decode_rejects :
    decode 0x700504FF#32 0#32 = .error .illRsvd ∧ decode 0xA0040102#32 0x000A0000#32 = .error .illRsvd ∧
    decode 0xA0040102#32 0x00041000#32 = .error .illRsvd ∧ decode 0xA9010100#32 0#32 = .error .illRsvd :=
  ⟨rfl, rfl, rfl, rfl⟩

theorem test_encode_example :
    encodePair (.st 5#8 3#8 2#8 ⟨0#10, 0#2, .b32, .none, .wave, ⟨false, 0#3, 1#8⟩⟩) = some (0xA1050302#32, 0x00040001#32) ∧
    encodePair (.vpack 20#8 8#8 12#8 .e4m3 true) = some (0x8114080C#32, 0x10#32) ∧
    encodePair (.bcc .lt 3#32) = some (0x02020000#32, 3#32) := ⟨rfl, rfl, rfl⟩

/-! ### Ill-formed terms (R195 row 4): each breaks one check -/

/-- The extension word of a plain 32-bit access. -/
def x32 : MemExt := ⟨0#10, 0#2, .b32, .none, .wave, quiet⟩
def x64 : MemExt := ⟨0#10, 0#2, .b64, .none, .wave, quiet⟩
def x128 : MemExt := ⟨0#10, 0#2, .b128, .none, .wave, quiet⟩

/-- Destination and source codes outside their kind (R183, R184, R216). -/
theorem test_wf_operand_codes :
    ([.sadd 0x40#8 0#8 0#8, .sadd 0#8 0x58#8 0#8, .sadd 0#8 0x76#8 0#8, .sliHi 0x50#8 0#32, .vadd 0xF0#8 0#8 0#8,
      .vadd 0#8 0xF4#8 0#8, .svc 0#8 4#8 8#8, .svc 0#8 8#8 6#8, .tzero 0x40#8, .tzero 0x81#8] : List Instr).map Instr.wf =
    List.replicate 10 false := by decide +kernel

/-- Mode fields, system registers, element counts and bit fields (R222, R224, R244, R253, R254). -/
theorem test_wf_fields :
    ([.setmPart 0#6 0#32, .setmPart 1#6 8#32, .sysrd 0#8 0x0D#8, .syswr 0x21#8 0#8, .syswr 0x10#8 0#8,
      .vbfe 0#8 0#8 0#6 0#7, .vbfi 0#8 0#8 0#8 63#6 2#7, .vcvt 0#8 0#8 .f16x2, .vpack 0#8 2#8 0#8 .e4m3 false,
      .vpack 0#8 0#8 1#8 .e4m3 false, .vpack 0#8 0#8 1#8 .i8 true, .vunpk 4#8 0#8 0#8 .e2m1 false] : List Instr).map
        Instr.wf = List.replicate 12 false := by decide +kernel

/-- Segments and their distances (R257, R259). -/
theorem test_wf_cross_lane :
    ([.vshflx .up false 0#3 0#5 0#8 0#8 0#8, .vshflx .up false 6#3 0#5 0#8 0#8 0#8, .vshflx .idx false 5#3 1#5 0#8 0#8 0#8,
      .vshflx .down false 5#3 1#5 0#8 0#8 1#8, .vshflx .xor false 1#3 2#5 0#8 0#8 0#8, .vred .add 4#3 true 0#8 0#8,
      .vscan .add 7#3 false 0#8 0#8] : List Instr).map Instr.wf = List.replicate 7 false := by decide +kernel

/-- Memory bases, widths, orders, policies and slots (R185, R190, R191, R264, R266, R270, R272, R276). -/
theorem test_wf_memory :
    ([.ld 0#8 0x80#8 0#8 x32, .ld 0#8 0x20#8 0#8 x32, .ld 0#8 0x10#8 1#8 x32, .ld 1#8 0#8 0#8 x64,
      .ld 0#8 0x40#8 0#8 x32, .lds 0#8 0#8 0#8 x32, .lds 0#8 0x40#8 0#8 { x32 with policy := 1#2 },
      .ld 0#8 0#8 0#8 { x32 with order := .rel }, .st 0#8 0#8 0#8 { x32 with order := .acq },
      .ld 0#8 0#8 0#8 { x32 with scope := .pkg }, .ld 0#8 0#8 0#8 { x32 with slots := ⟨false, 1#3, 0#8⟩ },
      .ldu 0#8 0#8 0#8 x128, .ldu 0#8 0#8 1#8 x32, .ldu 0x50#8 0#8 0#8 x32, .fencex 7#3 0#3, .fencex 2#3 2#3,
      .atomAdd 0#8 0x40#8 0#8 x32, .atomAdd 0#8 0#8 0#8 { x32 with policy := 1#2 }, .atomAdd 0#8 0#8 0#8 { x32 with order := .acq },
      .atomuAdd 0x40#8 0#8 x32, .cadd 0#8 0#8 0#8 x32, .cread 1#8 0#8 0#8 x64, .cwait 0x40#8 0#8 0#8 x64] :
      List Instr).map Instr.wf = List.replicate 23 false := by decide +kernel

/-- Tiles and matrix operands (R186, R296, R298, R302 to R308). -/
theorem test_wf_matrix :
    ([.tld 0#8 0x40#8 0#8 x128, .tld 0#8 0x60#8 0#8 x32, .tmovv 2#8 0x58#8 0#7 false 0#2, .tmovv 0#8 0#8 0#7 false 0#2,
      .tmovv 0#8 0x58#8 127#7 false 1#2, .mma 0#8 0#8 0#8 0#6 false false false, .mma 0x58#8 0x08#8 0x08#8 1#6 false false false,
      .mma 0x58#8 0#8 0x08#8 0#6 false false false, .mma 0x58#8 0x97#8 0x08#8 0#6 false false false,
      .mma 0x58#8 0x80#8 0x08#8 0#6 true false false, .mmas 0x58#8 0x80#8 0x08#8 0#6 false false false 0#3 1#3 0#2,
      .mmas 0x58#8 0x08#8 0x09#8 0#6 false false false 0#3 1#3 0#2, .mmas 0x58#8 0x08#8 0x08#8 0#6 false false false 0#3 0#3 0#2,
      .tcvt 0x58#8 0x58#8 0#8 .e4m3 false 0#3 false .rne false, .tcvt 0x58#8 0x59#8 0#8 .e4m3 false 1#3 false .rne false,
      .tcvt 0x58#8 0x59#8 0#8 .bf16 true 0#3 false .rne false, .tprune 0#8 1#8 2#8 0#4 0#2, .tprune 0#8 2#8 4#8 12#4 0#2,
      .tredmx 2#8 0x58#8 false false, .tscl 0x58#8 236#8 false true] : List Instr).map Instr.wf =
    List.replicate 20 false := by decide +kernel

/-- Engine and object instructions (R310, R322, R325 to R336). -/
theorem test_wf_objects :
    ([.xcp 2#8 0#8 quiet, .xcp 0#8 64#8 quiet, .xcpm 0#8 0#8 16#8 quiet, .xgat 0#8 0xF4#8 0#12 quiet,
      .xtmplGrp 16#8 0#8 quiet, .pnew 1#8 0#8 0#8 quiet, .psend 0#8 0#8 4#8 quiet, .precv 4#8 0#8 ⟨.none, .wave, quiet⟩,
      .precv 0#8 0#8 ⟨.rel, .die, quiet⟩, .wsnew 0x60#8 quiet, .wswait 0#8 0#8 ⟨.rel, .die, quiet⟩,
      .tmstop 0x76#8 quiet] : List Instr).map Instr.wf = List.replicate 12 false := by decide +kernel

/-! ### Single steps -/

/-- A wave of 32 registers and 2 tiles, not privileged, with every lane active, under element type i32. -/
def testWave : Wave :=
  { Wave.blank with hdl := 0x20000001#32, proc := 0x10000101#32, team := 7, vblk := 4, ntiles := 2, st := .resident,
                    pc := 0x10000#64, mode := 0#32 }

/-- The machine after reset with a wave at issue. -/
def at_ (w : Wave) : State := { State.reset with wave := w }

/-- What a next state shows. -/
def seen {α : Type} (o : Host.Outcome State Fault Refusal) (f : State → α) : Option α :=
  match o with
  | .next t => some (f t)
  | _ => none

/-- What an instruction leaves a wave as, where it runs on the machine after reset. -/
def ran {α : Type} (i : Instr) (w : Wave) (f : Wave → α) : Option α := seen (exec i (at_ w)) fun t => f t.wave

/-- R214: all ones plus 1 wraps to 0; Z and C are set, N and V clear. -/
theorem test_sadd_wraps : ran (.sadd 2#8 0#8 1#8)
    { testWave with s := [(0, 0xFFFFFFFFFFFFFFFF#64), (1, 1#64)] } (fun w => (w.getS 2, w.cc, w.pc)) =
    some (0#64, 0b000101#6, 0x10004#64) := by decide +kernel

/-- 08's example: s4 = 0xFFFF_0000_8000_0000 less s5 = 1: N alone. -/
theorem test_scmp_example : ran (.scmp 4#8 5#8)
    { testWave with s := [(4, 0xFFFF000080000000#64), (5, 1#64)] } (·.cc) = some 0b000010#6 := by decide +kernel

/-- 08's example: the branch on `lt` is taken, 3 words on. -/
theorem test_bcc_example : ran (.bcc .lt 3#32) { testWave with cc := 0b000010#6 } (·.pc) = some 0x1000C#64 := by
  decide +kernel

/-- R215: SLI.HI keeps the low half. -/
theorem test_sli_hi : ran (.sliHi 4#8 0xFFFF0000#32) { testWave with s := [(4, 0x80000000#64)] } (·.getS 4) =
    some 0xFFFF000080000000#64 := by decide +kernel

/-- R214: the high half of −1 × 2. -/
theorem test_smulh_sign : ran (.smulh 2#8 0#8 1#8)
    { testWave with s := [(0, 0xFFFFFFFFFFFFFFFF#64), (1, 2#64)] } (·.getS 2) = some 0xFFFFFFFFFFFFFFFF#64 := by
  decide +kernel

/-- R214: an arithmetic shift by 64 or more leaves the sign. -/
theorem test_ssra_far : ran (.ssra 2#8 0#8 1#8)
    { testWave with s := [(0, 0x8000000000000000#64), (1, 64#64)] } (·.getS 2) = some 0xFFFFFFFFFFFFFFFF#64 := by
  decide +kernel

/-- R219: CALL links the next word in s63 and jumps back one word. -/
theorem test_call : ran (.call 0xFFFFFF#24) testWave (fun w => (w.pc, w.getS 63)) = some (0xFFFC#64, 0x10004#64) := by
  decide +kernel

/-- R221: the lowest set bit, 32 where there is none, and Z. -/
theorem test_kfirst_zero : ran (.kfirst 2#8 0x51#8) testWave (fun w => (w.getS 2, w.cc.getLsbD 0)) =
    some (32#64, true) := by decide +kernel

/-- R222: a rounding code above 5 is illegal, and the wave traps: without a fault port it is killed (R356). -/
theorem test_setm_illegal : ran (.setm 0x600#32) testWave (·.st) = some .retired ∧
    ran (.setm 0x540#32) testWave (·.mode) = some 0x540#32 := by decide +kernel

/-- R237: with `sat`, the largest i32 plus 1 stays; without, it wraps. -/
theorem test_vadd_saturates :
    ran (.vadd 2#8 0#8 1#8) { testWave with v := [(0, 0x7FFFFFFF#32), (32, 1#32)], mode := 0x800#32 } (·.getV 2 0) =
      some 0x7FFFFFFF#32 ∧
    ran (.vadd 2#8 0#8 1#8) { testWave with v := [(0, 0x7FFFFFFF#32), (32, 1#32)] } (·.getV 2 0) =
      some 0x80000000#32 := by decide +kernel

/-- R138: an inactive lane keeps its register. -/
theorem test_vmov_inactive : ran (.vmovLit 2#8 9#32)
    { testWave with k := [(0, 2#32)] } (fun w => (w.getV 2 0, w.getV 2 1)) = some (0#32, 9#32) := by
  decide +kernel

/-- R235: VADD under f32 traps; VFADD of 1.0 and 2.0 gives 3.0. -/
theorem test_vfadd : ran (.vfadd 2#8 0#8 1#8)
    { testWave with v := [(0, 0x3F800000#32), (32, 0x40000000#32)], mode := 0x40#32 } (·.getV 2 0) =
    some 0x40400000#32 := by decide +kernel

/-- 09's example: four values packed to e4m3 with scales, lanes 0 and 1. -/
theorem test_vpack_example : ran (.vpack 20#8 8#8 12#8 .e4m3 true)
    { testWave with
      mode := 0x840#32,
      k := [(0, 3#32)],
      v := [(256, 0x3F800000#32), (257, 0x3F800000#32), (288, 0x43960000#32), (289, 0xC0400000#32),
        (320, 0x447A0000#32), (352, 0x7FC00000#32), (353, 0x3BA3D70A#32), (384, 0x7F#32), (385, 0x81#32)] }
    (fun w => (w.getV 20 0, w.getV 20 1)) = some (0x7F7E7938#32, 0x0100B428#32) := by decide +kernel

/-- The wave of 09's cross-lane example. -/
def scanWave : Wave :=
  { testWave with k := [(0, 0xB6#32)], mode := 1#32, v := (List.range 32).map fun l => (64 + l, BitVec.ofNat 32 (l + 1)) }

/-- 09's example: lanes 1, 2, 4, 5 and 7 hold 2, 3, 5, 6 and 8. -/
theorem test_vscan_example : ran (.vscan .add 5#3 true 3#8 2#8) { scanWave with mode := 0#32 }
    (fun w => [1, 2, 4, 5, 7].map (w.getV 3)) = some [0#32, 2#32, 5#32, 10#32, 16#32] := by decide +kernel

theorem test_vred_example : ran (.vred .add 5#3 true 6#8 2#8) { scanWave with mode := 0#32 } (·.getS 6) = some 24#64 := by
  decide +kernel

theorem test_vshflx_example : ran (.vshflx .down false 5#3 1#5 5#8 2#8 0#8) { scanWave with mode := 0#32 }
    (fun w => [1, 2, 4, 5, 7].map (w.getV 5)) = some [3#32, 4#32, 6#32, 7#32, 9#32] := by decide +kernel

/-- The team of the test wave: one unit of scratchpad, 64 tag entries. -/
def testTeam : Team :=
  ⟨7, 1, 0x10000101#32, 0, 0, 0, 1, 0x20000001#32, 0, 0, 0, 1, 0, 64, [], false, 0, 0, 0, false, 0⟩

/-- The machine with the team's grant. -/
def granted (w : Wave) : State := { at_ w with teams := [testTeam] }

/-- R266: a byte load from the scratchpad is zero-extended, and only active lanes are written. -/
theorem test_lds_zero_extends : seen (exec (.lds 2#8 0x40#8 0#8 { x32 with width := .b8 })
      { granted testWave with mem := [(2 ^ 70 + 7 * 2 ^ 22, 0x80#8)] }) (fun t => (t.wave.getV 2 0, t.wave.pc)) =
    some (0x80#32, 0x10008#64) := by decide +kernel

/-- R267, R5: a store is little-endian. -/
theorem test_sts_little_endian : seen (exec (.sts 2#8 0x40#8 0xF0#8 x32)
      (granted { testWave with v := (List.range 32).map fun l => (64 + l, 0x11223344#32) }))
    (fun t => (List.range 5).map fun i => t.rawByte (2 ^ 70 + 7 * 2 ^ 22 + i)) =
    some [0x44#8, 0x33#8, 0x22#8, 0x11#8, 0#8] := by decide +kernel

/-- R45: an access that passes the end of the grant traps. -/
theorem test_lds_outside : seen (exec (.lds 2#8 0x40#8 0#8 x32) (granted { testWave with v := [(0, 16384#32)] }))
    (·.wave.st) = some .retired := by decide +kernel

/-- 10's example: CADD of 1 at offset 256, and CWAIT for 2 at a counter that holds 1 waits. -/
theorem test_cadd_example : seen (exec (.cadd 6#8 0x40#8 0xF0#8 ⟨32#10, 0#2, .b64, .rel, .team, quiet⟩)
      (granted { testWave with mode := 1#32, k := [(0, 0xFFFFFFFF#32), (1, 1#32)], v := [(192, 1#32)] }))
    (fun t => t.ctrValue (2 ^ 70 + 7 * 2 ^ 22 + 256)) = some 1#64 := by decide +kernel

theorem test_cwait_example : seen (exec (.cwait 9#8 0x40#8 0#8 ⟨32#10, 0#2, .b64, .acq, .team, quiet⟩)
      { granted { testWave with s := [(9, 2#64)] } with mem := [(2 ^ 70 + 7 * 2 ^ 22 + 256, 1#8)] })
    (fun t => (t.wave.st, t.wave.getS 9, t.waiters.length)) = some (.waiting, 2#64, 1) := by decide +kernel

/-- R49: STAGSET records key 9 in way 2 of set 1, and STAG finds it there. -/
theorem test_stagset : seen (exec (.stagset 4#8 0#8 2#8 ⟨.none, .wave, quiet⟩)
      (granted { testWave with mode := 1#32, k := [(0, 0xFFFFFFFF#32), (1, 1#32)], v := [(0, 9#32), (64, 2#32)] }))
    (fun t => t.wave.getV 4 0) = some 10#32 := by decide +kernel

/-- R300: the first batch has number 1 and, with no MMA in it, is complete. -/
theorem test_mclose : ran (.mclose 10#8) testWave (fun w => (w.getS 10, w.mb)) = some (1#64, 1#64) := by decide +kernel

/-- R303: a panel of 64 columns is cleared, the next stays. -/
theorem test_tzero_panel : ran (.tzero 0#8) { testWave with tile := [(5, 1#8), (69, 2#8)] }
    (fun w => (w.getT 0 5, w.getT 0 69)) = some (0#8, 2#8) := by decide +kernel

/-- R169: a period below 1,000 ns is refused with F; the timer stays disarmed. -/
theorem test_tmarm_period : seen (exec (.tmarm 0#8 1#8 2#8 true quiet)
      { at_ { testWave with s := [(0, 0x50000001#64), (2, 999#64)] } with
        timers := [⟨0x50000001#32, 0x10000101#32, false, 0#64, 0#64⟩] })
    (fun t => (t.wave.cc.getLsbD 5, t.timers.map (·.armed))) = some (true, [false]) := by decide +kernel

/-- R58: the activation that makes 1,024 is an alert and clears the count. -/
theorem test_row_alert : seen (exec .rowActivationAlert
      { State.reset with acts := [(rowKey 0x100000, 1023)], inp := { pa := 0x100000, size := 1 } })
    (fun t => (t.acts, t.backoff)) = some ([], [(bankKey 0x100000, 320)]) := by decide +kernel

/-- R433: a cap outside 1,200 to 2,400 W is refused. -/
theorem test_power_cap : seen (exec .powerCapWrite { State.reset with inp := { n := 1199 } }) (·.powerCap) = some 2400 ∧
    seen (exec .powerCapWrite { State.reset with inp := { n := 1200 } }) (·.powerCap) = some 1200 := by decide +kernel

/-- The first step after `withFetchWord` runs the word: here SADD s6, s4, s4. -/
theorem test_step_runs_word : seen (step (State.reset.withFetchWord 32 0x10060404)) (fun t => (t.wave.pc, t.wave.cc)) =
    some (0x10004#64, 1#6) := by decide +kernel

end Sys2Proof.Tests
end

