-- ==== Sys2Proof/Tests/WitnessRegisters.lean ====
section
/-! SUPPORT. Witnesses: for each statement on registers, control, traps and vectors, a state and operands that meet its
hypotheses together, each clause at a boundary of its range. -/

set_option Elab.async false

namespace Sys2Proof.Tests

open Sys2Proof.Machine Sys2Proof.Claims

/-- The test wave with other contents on the machine after reset. -/
def privState : State := at_ { testWave with priv := true }

/-- Nothing strikes, and no MMA is in flight, on the test machine. -/
theorem unstruck_at {w : Wave} (h : (at_ w).strikes none = none) : Unstruck (at_ w) := ⟨h, rfl⟩
theorem noMmas_at (w : Wave) : NoMmas (at_ w) := fun _ h => nomatch h
theorem worksIn_at {w : Wave} {l : List Nat} (h : (at_ w).strikes (some l) = none) : WorksIn (at_ w) l :=
  ⟨⟨h, rfl⟩, noMmas_at w⟩

theorem witness_UniformAndMask : Unstruck (at_ testWave) ∧ UnstruckIn (at_ testWave) testWave.lanes :=
  ⟨unstruck_at rfl, (worksIn_at rfl).1⟩

theorem witness_UniformLiterals : Unstruck (at_ testWave) ∧ (0#8).toNat < 0x40 ∧ (0x3F#8).toNat < 0x40 :=
  ⟨unstruck_at rfl, by decide, by decide⟩

theorem witness_UniformOperandForms :
    (0x3F < 0x40 ∧ (0x40 ≤ 0x40 ∧ 0x47 < 0x48) ∧ (0x50 ≤ 0x50 ∧ 0x57 < 0x58)) ∧
    ((0x3F#8).toNat < 0x40 ∧ 0x7F < 0x80 ∧ 0x7F ≠ (0x3F#8).toNat) ∧
    (0x40 ≤ 0x4F ∧ 0x4F < 0x50) ∧ 0x50 ≤ (0x50#8).toNat ∧ (0x57#8).toNat < 0x58 := by decide

theorem witness_ComputedJumps :
    let aligned := at_ testWave
    let odd := at_ { testWave with s := [(63, 2#64)] }
    Unstruck aligned ∧ (Sparse.get 0#64 aligned.wave.s 63).toNat % 4 = 0 ∧ (aligned.readU 0x5F#8).toNat % 4 = 0 ∧
    (Sparse.get 0#64 odd.wave.s 63).toNat % 4 ≠ 0 ∧ (odd.readU 63#8).toNat % 4 ≠ 0 := by
  refine ⟨unstruck_at rfl, ?_⟩; decide +kernel

theorem witness_ModeAndFlagsRegister :
    let legal : Word → Prop := fun m => m.toNat / 8 % 32 ≤ 14 ∧ m.toNat / 256 % 8 ≤ 5 ∧ m.toNat / 8192 % 8 = 0
    let part : State → BitVec 6 → Word → Word := fun s mask lit =>
      (s.wave.mode &&& ~~~(modeMask mask)) ||| (lit &&& modeMask mask)
    Unstruck (at_ testWave) ∧ legal 0x70#32 ∧ legal 0x570#32 ∧ ¬ legal 0x78#32 ∧ ¬ legal 0x600#32 ∧ ¬ legal 0x2000#32 ∧
    legal (((at_ testWave).readU 0x5F#8).setWidth 32) ∧
    ¬ legal (((at_ { testWave with s := [(0, 0x78#64)] }).readU 0#8).setWidth 32) ∧
    legal (part (at_ testWave) 1#6 7#32) ∧ ¬ legal (part (at_ testWave) 2#6 0x78#32) := by
  refine ⟨unstruck_at rfl, ?_⟩; decide +kernel

theorem witness_SystemRegisters : Unstruck (at_ testWave) ∧ ((at_ testWave).readU 0x5F#8).getLsbD 4 = false :=
  ⟨unstruck_at rfl, rfl⟩

/-- A process on die 0 with a fault port. -/
def testProc : Proc := ⟨0x10000101#32, 0#64, 0, 0x30000001#32, 0#64, 0#64, [100, 100, 100, 100, 100], 0#32, 0#32, [], []⟩

/-- A cached lease of the page at 0x20000, of type C. -/
def ctrTlb : TlbEntry := ⟨0, 0x10000101#32, 0x20000, 65536, BitVec.ofNat 64 (0x200000 + 0x5F), true, true, 50000, .core 0⟩

/-- The process and the team of the wave are there; with `arm`, a threshold of 0 is reached at once, one of 1 not; a counter
address off its 8 bytes, one that does not translate, and one in a page that is not of type C. -/
theorem witness_SystemRegisterTables :
    let v := 0x11#64
    let s : Nat → Nat → BitVec 64 → State := fun va thr pte =>
      { at_ { testWave with s := [(0, v)], uictr := BitVec.ofNat 64 va, uithr := BitVec.ofNat 64 thr } with
        procs := [testProc], teams := [testTeam], tlb := [{ ctrTlb with pte := pte }] }
    let c := BitVec.ofNat 64 (0x200000 + 0x5F)
    let found : State → State × Except Cause (Nat × BitVec 64 × Nat) := fun s =>
      (withWave s (withF false { s.wave with uiEn := v.getLsbD 0 })).resolve s.wave.die s.wave.proc s.wave.priv .ctrRead
        s.wave.uictr.toNat (some s.wave.coreNo)
    let kind : State → Option Nat := fun s => match (found s).2 with
      | .ok (_, pte, _) => some (pteType pte)
      | .error _ => none
    let reached : State → Bool := fun s => match (found s).2 with
      | .ok (key, _, _) => !((found s).1.ctrRead key).1.msb && decide (((found s).1.ctrRead key).1 - s.wave.uithr = 0#64)
      | .error _ => false
    let t := s 0x20000 0 c
    Unstruck t ∧ (t.readU 0#8).getLsbD 4 = true ∧ t.procs.find? (fun p => decide (p.hdl = t.wave.proc)) = some testProc ∧
    t.teams.find? (fun t => decide (t.uid = testWave.team)) = some testTeam ∧ testTeam.side1 = false ∧
    (s 0x20004 0 c).wave.uictr.toNat % 8 ≠ 0 ∧ t.wave.uictr.toNat % 8 = 0 ∧ kind (s 0x40000 0 c) = none ∧
    kind (s 0x20000 0 (BitVec.ofNat 64 (0x200000 + 0x1F))) = some 0 ∧ kind t = some 1 ∧ reached t = true ∧
    reached (s 0x20000 1 c) = false := by
  refine ⟨⟨rfl, rfl⟩, ?_⟩; decide +kernel

/-- A value that arms no execution, one that arms one of a live wave of the process, and one of a wave that is gone. -/
theorem witness_CheckInjectionTargets :
    let arms : DWord → Prop := fun v => v.getLsbD 0 = true ∧ (v.toNat / 16 % 4 = 1 ∨ v.toNat / 16 % 4 = 2)
    let w : Wave := { testWave with priv := true }
    ¬ arms 1#64 ∧ arms 0x11#64 ∧ arms 0x2000010200000021#64 ∧
    (∃ t, (at_ w).findWave w.hdl = some t ∧ t.proc = w.proc ∧ hDie w.hdl = w.die) ∧
    ¬ ∃ t, (at_ w).findWave 0x20000102#32 = some t ∧ t.proc = w.proc ∧ hDie 0x20000102#32 = w.die := by
  refine ⟨by decide, by decide, by decide, ⟨_, rfl, rfl, by decide⟩, ?_⟩
  have h : (at_ { testWave with priv := true }).findWave 0x20000102#32 = none := by decide +kernel
  simp [h]

theorem witness_CheckInjectionRegister :
    (at_ testWave).wave.priv = false ∧ privState.wave.priv = true ∧ Unstruck privState ∧ (privState.readU 0x5F#8).getLsbD 0 = false :=
  ⟨rfl, rfl, unstruck_at rfl, rfl⟩

/-- The fault port, of 16 slots. -/
def testPort : Port := ⟨0x30000001#32, 0x10000101#32, 4, 0, 0#64, 0, .plain, 0, 0x100000, 0, [], [], false, []⟩
def ported : State := { at_ testWave with procs := [testProc], ports := [testPort] }

theorem witness_TrapEntry : ported.faultPort ported.wave.proc = some testPort ∧
    (∀ m ∈ ported.mmas, m.wave ≠ ported.wave.hdl) ∧
    (∀ e ∈ ported.l1, e.core = ported.wave.coreNo → e.written = 0#32) ∧ 255 < 256 := by decide +kernel

theorem witness_TrapWithoutFaultPort : (at_ testWave).faultPort testWave.proc = none ∧ testWave.hdl ≠ 0#32 ∧
    testWave.pair = none := by decide +kernel

theorem witness_TrappingInstructions :
    let inHandler : Wave := { testWave with uiAct := true }
    testWave.uiAct = false ∧ testWave.priv = false ∧
    ((24#8).toNat + 8 ≤ 8 * inHandler.vblk ∧ (24#8).toNat < 0xF0 ∧ (28#8).toNat + 4 ≤ 8 * inHandler.vblk ∧
      (28#8).toNat < 0xF0 ∧ (inHandler.uiAct = true ∨ inHandler.pair.isSome = true)) ∧
    8 * testWave.vblk < (32#8).toNat + 8 := by decide +kernel

def ringPort : Port := { testPort with role := .ring }

theorem witness_ServiceCall :
    let s : State := { at_ testWave with ports := [ringPort] }
    (24#8).toNat + 8 ≤ 8 * s.wave.vblk ∧ (24#8).toNat < 0xF0 ∧ (28#8).toNat + 4 ≤ 8 * s.wave.vblk ∧ (28#8).toNat < 0xF0 ∧
    s.wave.uiAct = false ∧ s.wave.pair = none ∧ (∀ m ∈ s.mmas, m.wave ≠ s.wave.hdl) ∧ (∀ e ∈ s.l1, e.core = s.wave.coreNo → e.written = 0#32) ∧
    s.rolePort s.wave.die .ring = some ringPort := by decide +kernel

theorem witness_UserInterrupts :
    let w : Wave := { testWave with uiEn := true, uiPend := true, uivec := 0x10100#64 }
    let due : Wave → Prop := fun w => w.st = .resident ∧ w.halted = false ∧ w.refilling = false ∧ w.pair = none ∧
      w.uiEn = true ∧ w.uiPend = true ∧ w.uiAct = false ∧ w.unfKind = .no ∧ w.asked = [] ∧ w.told = none
    w.hdl ≠ 0#32 ∧ due w ∧ w.uivec ≠ 0#64 ∧ due { w with uivec := 0#64 } ∧
    ({ w with uiAct := true } : Wave).uiAct = true ∧
    (∃ e ∈ [(⟨0x200000, 1#64, .ui w.hdl⟩ : Waiter)], e.party = .ui w.hdl) ∧ ∀ e ∈ (at_ w).waiters, e.party ≠ .ui w.hdl := by
  decide +kernel

/-- A second wave of the test wave's process. -/
def otherWave : Wave := { testWave with hdl := 0x20000101#32, widx := 1 }

theorem witness_HaltAndResume :
    let s : Wave → State := fun v => { at_ { testWave with priv := true, s := [(0, 0x20000101#64)] } with waves := [v] }
    let h : Handle := ((s otherWave).readU 0#8).setWidth 32
    (s otherWave).wave.priv = true ∧ h ≠ 0#32 ∧ h ≠ (s otherWave).wave.hdl ∧ (s otherWave).wave.hdl ≠ 0#32 ∧
    ({ s otherWave with waves := [] } : State).waves.find? (fun o => decide (o.hdl = h)) = none ∧
    ((s { otherWave with proc := 0#32 }).waves.find? (fun o => decide (o.hdl = h)) = some { otherWave with proc := 0#32 } ∧
      ({ otherWave with proc := 0#32 } : Wave).proc ≠ testWave.proc) ∧
    ((s otherWave).waves.find? (fun o => decide (o.hdl = h)) = some otherWave ∧ otherWave.proc = testWave.proc ∧
      otherWave.halted = false ∧ (∀ m ∈ (s otherWave).mmas, m.wave ≠ h)) ∧
    (let v : Wave := { otherWave with halted := true, st := .parked }
     (s v).waves.find? (fun o => decide (o.hdl = h)) = some v ∧ v.proc = testWave.proc ∧ v.halted = true ∧
       (s v).teamSaved v = false) := by decide +kernel

theorem witness_ElementTypes : 0 < EType.i8.elems ∧ 1 < EType.i16x2.elems ∧ EType.i8.elems = 1 ∧ EType.i8.bitsOf < 32 ∧
    EType.i8.signed = true ∧ EType.n8.signed = false := by decide

/-- Test waves under other element types. -/
def i64Wave : Wave := { testWave with mode := 0x30#32 }
def f32Wave : Wave := { testWave with mode := 0x40#32 }

theorem witness_VectorIntegerArithmetic :
    WorksIn (at_ testWave) testWave.lanes ∧ WorksIn (at_ i64Wave) i64Wave.lanes ∧
    (dstFits testWave 1 31#8 ∧ srcFits testWave 1 0xF3#8 ∧ srcFits testWave 1 31#8 ∧ testWave.etype.isInt = true) ∧
    (dstFits i64Wave 2 30#8 ∧ dstFits i64Wave 2 0xFF#8 ∧ srcFits i64Wave 2 30#8 ∧ srcFits i64Wave 2 0xF0#8 ∧
      i64Wave.etype.isInt = true ∧ i64Wave.etype.regs = 2) := by
  refine ⟨worksIn_at rfl, worksIn_at rfl, ?_⟩; unfold dstFits srcFits inBudget; decide +kernel

theorem witness_VectorMovesAndUnary :
    WorksIn (at_ testWave) testWave.lanes ∧ dstFits testWave 1 31#8 ∧ srcFits testWave 1 0xF3#8 ∧
    testWave.etype.regs = 1 ∧ testWave.etype.isInt = true ∧ testWave.etype.signed = true := by
  refine ⟨worksIn_at rfl, ?_⟩; unfold dstFits srcFits inBudget; decide +kernel

/-- Of lanes that hold 0: 32 leading zeros, and 0 in reverse order and with a field of 0 inserted. -/
theorem witness_VectorBitInstructions :
    let w := testWave
    let x := laneOf w 0xF0#8 1
    WorksIn (at_ w) w.lanes ∧ dstFits w 1 31#8 ∧ srcFits w 1 0xF0#8 ∧ w.etype = .i32 ∧ i64Wave.etype = .i64 ∧
    w.etype.regs = 1 ∧ w.etype.bitsOf = 32 ∧
    (∀ l < 32, 32 ≤ 32 ∧ x l < 2 ^ (32 - 32) ∧ (32 < 32 → 2 ^ (32 - 1 - 32) ≤ x l)) ∧
    (∀ l < 32, 0 < 2 ^ 32 ∧ ∀ i < 32, (0 : Nat).testBit i = (x l).testBit (32 - 1 - i)) ∧
    (0 < (1#7).toNat ∧ (31#6).toNat + (1#7).toNat ≤ 32) ∧
    (∀ l < 32, ∀ i < 32, (0 : Nat).testBit i = if 31 ≤ i ∧ i < 31 + 1 then (x l).testBit (i - 31) else (x l).testBit i) := by
  refine ⟨worksIn_at rfl, ?_⟩; unfold dstFits srcFits inBudget laneOf; decide +kernel

theorem witness_VectorIntegerCompare :
    WorksIn (at_ testWave) testWave.lanes ∧ srcFits testWave 1 31#8 ∧ srcFits testWave 1 0xF0#8 ∧
    testWave.etype.regs = 1 ∧ testWave.etype.isInt = true ∧ testWave.etype ≠ .i16x2 := by
  refine ⟨worksIn_at rfl, ?_⟩; unfold srcFits inBudget; decide +kernel

theorem witness_VectorFloat :
    WorksIn (at_ f32Wave) f32Wave.lanes ∧ f32Wave.etype.isFloat = true ∧ f32Wave.etype.regs = 1 ∧
    dstFits f32Wave 1 31#8 ∧ srcFits f32Wave 1 0xF3#8 ∧ f32Wave.etype ≠ .f64 ∧ f32Wave.etype.packed = false := by
  refine ⟨worksIn_at rfl, ?_⟩; unfold dstFits srcFits inBudget; decide +kernel

/-- Waves whose lanes hold 0 as x and an infinity as y. -/
theorem witness_FusedMultiplyAddOfZero :
    let w : Wave := { f32Wave with v := (List.range 32).map fun l => (64 + l, 0x7F800000#32) }
    let x : Nat → FVal := fun l => w.fin (w.etype.elem (laneOf w 0xF0#8 1 l) 0)
    let y : Nat → FVal := fun l => w.fin (w.etype.elem (laneOf w 2#8 1 l) 0)
    ∀ l < 32, x l = .num false 0 (-149) ∧ y l = .inf false := by
  unfold laneOf; decide +kernel

/-- Each row of R253's table. -/
theorem witness_VectorConversions :
    let fits : Wave → EType → BitVec 8 → BitVec 8 → Prop := fun w src a b =>
      WorksIn (at_ w) w.lanes ∧ w.etype.packed = false ∧ src.packed = false ∧ dstFits w w.etype.regs a ∧
        srcFits w src.regs b
    let f64Wave : Wave := { testWave with mode := 0x58#32 }
    fits testWave .i64 31#8 30#8 ∧ testWave.etype = .i32 ∧ fits f32Wave .i8 31#8 0xF3#8 ∧ f32Wave.etype = .f32 ∧
    fits testWave .f64 0xFF#8 30#8 ∧ fits f32Wave .f64 31#8 0xF0#8 ∧ fits f32Wave .f32 31#8 31#8 ∧
    fits f64Wave .f32 30#8 31#8 ∧ f64Wave.etype = .f64 := by
  refine ⟨⟨worksIn_at rfl, ?_⟩, rfl, ⟨worksIn_at rfl, ?_⟩, rfl, ⟨worksIn_at rfl, ?_⟩, ⟨worksIn_at rfl, ?_⟩, ⟨worksIn_at rfl, ?_⟩,
    ⟨worksIn_at rfl, ?_⟩, rfl⟩ <;> (unfold dstFits srcFits inBudget; decide +kernel)

/-- Integer and float packs, with scales of 127 and of 255. -/
theorem witness_VectorPacks :
    let w : Wave := { f32Wave with v := (List.range 32).flatMap fun l => [(64 + l, 127#32), (96 + l, 255#32)] }
    (WorksIn (at_ w) w.lanes ∧ srcFits w 1 2#8 ∧ srcFits w 1 31#8 ∧ dstFits w 1 0xFF#8 ∧ inBudget w PackFmt.e4m3.elems 28#8 ∧
      w.etype = .f32 ∧ PackFmt.e4m3.fmt = some .e4m3 ∧ (∀ l < 32, laneOf w 2#8 1 l % 256 = 127) ∧
      ∀ l < 32, laneOf w 3#8 1 l % 256 = 255) ∧
    (WorksIn (at_ testWave) testWave.lanes ∧ dstFits testWave 1 31#8 ∧ inBudget testWave PackFmt.i8.elems 28#8 ∧
      srcFits testWave 1 0xF0#8 ∧ testWave.etype = .i32) := by
  refine ⟨⟨worksIn_at rfl, ?_⟩, ⟨worksIn_at rfl, ?_⟩⟩ <;> (unfold dstFits srcFits inBudget; try unfold laneOf) <;>
    decide +kernel

/-- Patterns of a format at the ends of its ranges: zero, its largest finite number, an infinity and a NaN. -/
theorem witness_Formats :
    Fmt.f32 ∈ formats ∧ 0 < 1 ∧ 0 ≤ Fmt.f32.maxFinite ∧ infinityOf .f32 = 0x7F800000 ∧ infinityOf .f32 < 0x7FFFFFFF ∧
    0x7FFFFFFF < 2 ^ (Fmt.f32.eb + Fmt.f32.mb) ∧ Fmt.e4m3.special = .nanOnly := by decide

theorem witness_VectorTraps :
    let w := f32Wave
    Instr.vadd 32#8 0#8 0#8 ∈ [Instr.vadd 32#8 0#8 0#8] ∧ false = w.etype.isInt ∧ ¬ dstFits w 1 32#8 ∧
    dstFits w 1 31#8 ∧ srcFits w 1 0#8 := by
  unfold dstFits srcFits inBudget; decide +kernel

/-- Of lanes that all hold 0, each matches all. -/
theorem witness_Shuffles :
    let w := testWave
    let x := laneOf w 0xF0#8 1
    WorksIn (at_ w) w.lanes ∧ srcFits w 1 31#8 ∧ dstFits w 1 31#8 ∧ w.etype.regs = 1 ∧ w.etype.bitsOf = 32 ∧
    (5#3).toNat ≤ 5 ∧ (1#3).toNat ≤ 5 ∧
    (∀ l < 32, 2 ^ 32 - 1 < 2 ^ 32 ∧ ∀ i < 32, (2 ^ 32 - 1).testBit i = true ↔
      w.activeMask.getLsbD i = true ∧ x i % 2 ^ 32 = x l % 2 ^ 32) := by
  refine ⟨worksIn_at rfl, ?_⟩; unfold dstFits srcFits inBudget laneOf; decide +kernel

theorem witness_ReduceAndScan :
    WorksIn (at_ testWave) testWave.lanes ∧ srcFits testWave 1 31#8 ∧ dstFits testWave 1 31#8 ∧ (1#3).toNat ≤ 5 ∧
    (5#3).toNat ≤ 5 ∧ testWave.etype.isInt = true ∧ testWave.lanes ≠ [] ∧ WorksIn (at_ f32Wave) f32Wave.lanes ∧
    f32Wave.etype.isFloat = true ∧ ({ testWave with k := [] } : Wave).lanes = [] := by
  refine ⟨worksIn_at rfl, .inl ?_, .inl ?_, by decide, by decide, rfl, by decide +kernel, worksIn_at rfl, rfl, rfl⟩ <;>
    (unfold inBudget; decide +kernel)

end Sys2Proof.Tests
end

