-- ==== Sys2Proof/Tests/WitnessMemory.lean ====
section
/-! SUPPORT. Witnesses: for each statement on memory, tags, counters, tiles and the matrix arrays, a state and operands
that meet its hypotheses together. -/

set_option Elab.async false

namespace Sys2Proof.Tests

open Sys2Proof.Machine Sys2Proof.Claims

/-- The test wave with lanes 0 and 1 active; lane l names 16 × l. -/
def twoWave : Wave := { testWave with k := [(0, 3#32)], v := [(1, 16#32)] }

/-- A translation register that names the 64 KiB from 0x20000, at 0x200000 in the package's DRAM, for reads and writes by
anyone until 50 µs. -/
def testX : BitVec 256 :=
  BitVec.ofNat 256 (0x20000 + 0x200000 * 2 ^ 64 + 65536 * 2 ^ 128 + 2 ^ 164 + 2 ^ 165 + 2 ^ 166 + 50000 * 2 ^ 192)

/-- The machine with the team's grant and, in x1, the register above. -/
def ready (w : Wave) : State := granted { w with x := [(1, testX)] }

/-- An access of lane l to scratchpad offset `off`, and to offset `off` of x1. -/
def spHit (l off : Nat) : Hit := ⟨l, BitVec.ofNat 64 off, 2 ^ 70 + 7 * 2 ^ 22 + off, 1, 0, 0, 0, false⟩
def xHit (l off : Nat) : Hit := ⟨l, BitVec.ofNat 64 (0x20000 + off), 0x200000 + off, 0, 0, 0, 0, false⟩

theorem all_ok {ε : Type} {l : List (Except ε Hit)} {hits : List Hit} (h : l.map Except.toOption = hits.map some) :
    l = hits.map Except.ok := by
  induction l generalizing hits with
  | nil => cases hits <;> simp_all
  | cons a l ih =>
    cases hits with
    | nil => simp at h
    | cons b hits => cases a <;> simp [Except.toOption] at h ⊢ <;> exact ⟨h.1, ih h.2⟩

/-- Accesses pass their checks, as one question that can be decided. -/
theorem reaches_of {s u : State} {f : Form} {delta : Nat → Bool} {hits : List Hit}
    (h : let x := State.translateAll (if f.sp = true ∨ s.accs f = [] then s else s.rewalk f.xreg) f (s.accs f)
      s.wave.asked = [] ∧ s.strikes (if f.uni then none else some s.wave.lanes) = none ∧ s.upset = none ∧ s.rowOne f (s.accs f) delta = none ∧
      x.1 = u ∧ (x.2.map fun r => r.bind (u.sendOn f)).map Except.toOption = hits.map some ∧ u.upset = none ∧
      ∀ h ∈ hits, f.typeTrap h = none) : Reaches s f delta u hits := by
  obtain ⟨h0, h1, h2, h3, h4, h5, h6, h7⟩ := h
  refine ⟨h0, ?_, h3, ⟨_, Prod.ext h4 rfl, all_ok h5⟩, h6, h7⟩
  split <;> (rename_i hf; simp only [hf] at h1; exact ⟨h1, h2⟩)

theorem unstruck_granted {w : Wave} (h : (granted w).strikes none = none) : Unstruck (granted w) := ⟨h, rfl⟩
theorem noMmas_granted (w : Wave) : NoMmas (granted w) := fun _ h => nomatch h
theorem worksIn_granted {w : Wave} {l : List Nat} (h : (granted w).strikes (some l) = none) : WorksIn (granted w) l :=
  ⟨⟨h, rfl⟩, noMmas_granted w⟩

theorem witness_AccessesThroughRegisters :
    let s := ready twoWave
    let sp := loadForm false 0x40#8 0#8 x32
    let f := storeForm false 1#8 0#8 x32
    let x := Sparse.get 0#256 s.wave.x f.xreg
    let a := s.accOf f 1
    (sp.sp = true ∧ sp.ctr = false) ∧
    (f.sp = false ∧ f.ctr = false ∧ f.red = none ∧ x.getLsbD 164 = true ∧ 0 ≤ a.off ∧
      a.off + f.size ≤ (x.toNat / 2 ^ 128 % 2 ^ 32 : Nat) ∧ x.toNat / 2 ^ 123 % 4 = 0 ∧ x.getLsbD 167 = false ∧
      f.kind = .store ∧ x.getLsbD 166 = true) := by decide +kernel

/-- Lane 1 is misaligned; and, aligned, lane 1 lies just past the grant. -/
theorem witness_MemoryTraps :
    let s := ready { twoWave with v := [(1, 2#32)] }
    let t := ready { twoWave with v := [(1, 16384#32)] }
    let f := loadForm false 0x40#8 0#8 x32
    WorksIn s s.wave.lanes ∧ inBudget s.wave 1 31#8 ∧ srcFits s.wave 1 0#8 ∧
    s.wave.lanes.find? (fun l => decide ((s.accOf f l).va.toNat % f.size ≠ 0)) = some 1 ∧
    t.wave.lanes.find? (fun l => decide ((t.accOf f l).va.toNat % f.size ≠ 0)) = none ∧
    t.wave.lanes.find? (fun l => !t.inGrant f (t.accOf f l)) = some 1 := by
  refine ⟨worksIn_granted rfl, ?_⟩; unfold srcFits inBudget; decide +kernel

theorem witness_Loads :
    let s := ready twoWave
    let hits := [xHit 0 0, xHit 1 16]
    NoMmas s ∧ s.wave.pair = none ∧ s.poison = [] ∧ s.l1.length < 4000 ∧ (∀ e ∈ s.l1, e.bad = false) ∧ s.l1 = [] ∧
    dstFits s.wave 1 31#8 ∧ srcFits s.wave 1 0#8 ∧ Reaches (afterWait s quiet) (loadForm false 1#8 0#8 x32) (fun _ => false) s hits ∧ (hits.map (·.pos)).Nodup ∧
    (∀ h ∈ hits, h.dev = false ∧ h.pos < 32) ∧
    Reaches (afterWait s quiet) (loadForm false 0x40#8 0#8 x32) (fun _ => false) s [spHit 0 0, spHit 1 16] ∧
    Reaches (afterWait s quiet) (loadForm true 1#8 0#8 x32) (fun _ => false) s [xHit 0 0] := by
  exact ⟨noMmas_granted _, rfl, rfl, by decide, by decide, rfl, .inl (by unfold inBudget; decide),
    .inl (by unfold inBudget; decide), reaches_of (by decide +kernel), by decide, by decide +kernel,
    reaches_of (by decide +kernel), reaches_of (by decide +kernel)⟩

/-- Stores whose places are all at home, and stores that all stay in the L1. -/
theorem witness_Stores :
    let s := ready twoWave
    let hits := [xHit 0 0, xHit 1 16]
    let sp := [spHit 0 0, spHit 1 16]
    Plain s ∧ s.wave.coreNo = s.wave.coreNo ∧ srcFits s.wave 1 31#8 ∧ srcFits s.wave 1 0#8 ∧
    (Reaches (afterWait s quiet) (storeForm false 1#8 0#8 x32) (fun _ => false) s hits ∧ (∀ h ∈ hits, h.dev = false) ∧
      (∀ h ∈ hits, ¬ atHome h x32) ∧ (∀ h ∈ hits, atHome h { x32 with policy := 1#2 })) ∧
    (Reaches (afterWait s quiet) (storeForm false 0x40#8 0#8 x32) (fun _ => false) s sp ∧ (∀ h ∈ sp, h.dev = false) ∧
      ∀ h ∈ sp, atHome h x32) ∧
    Reaches (afterWait s quiet) (storeForm true 1#8 0#8 x32) (fun _ => false) s [xHit 0 0] := by
  exact ⟨⟨rfl, noMmas_granted _, rfl, rfl⟩, rfl, .inl (by unfold inBudget; decide), .inl (by unfold inBudget; decide),
    ⟨reaches_of (by decide +kernel), by decide +kernel, by unfold atHome; decide +kernel, by unfold atHome; decide +kernel⟩,
    ⟨reaches_of (by decide +kernel), by decide +kernel, by unfold atHome; decide +kernel⟩, reaches_of (by decide +kernel)⟩

/-- A cached lease of the page at 0x20000 for reads and writes. -/
def testTlb : TlbEntry := ⟨0, 0x10000101#32, 0x20000, 65536, BitVec.ofNat 64 (0x200000 + 0x1F), true, true, 50000, .core 0⟩

theorem witness_TranslationRegisters :
    let s : Nat → State := fun va => { at_ { testWave with s := [(4, BitVec.ofNat 64 va)] } with tlb := [testTlb] }
    (Unstruck (s 0x2FFFF) ∧ testWave.unfKind = .no ∧ 65536 ≤ 0x2FFFF ∧ 0x2FFFF < 2 ^ 56 ∧
      (s 0x2FFFF).tlbIn (.core testWave.coreNo) 0 testWave.proc ((s 0x2FFFF).readU 4#8).toNat (fun _ => true) =
        some testTlb ∧ testTlb.pte.getLsbD 5 = false ∧
      testTlb.pte.toNat / 2 ^ 6 % 4 ≠ 2 ∧ testTlb.r = true ∧ testTlb.w = true) ∧
    ((s 65535).readU 4#8).toNat < 65536 ∧ 2 ^ 56 ≤ ((s (2 ^ 56)).readU 4#8).toNat := by
  refine ⟨⟨⟨rfl, rfl⟩, ?_⟩, ?_⟩ <;> decide +kernel

theorem witness_Fences :
    let s : State := { at_ testWave with
      l1 := [⟨testWave.coreNo, 0x10000, List.replicate 32 1#8, 0xF#32, 1#32, 0#32, 0#32, 0#64, false, false⟩] }
    s.wave.pair = none ∧ (∀ e ∈ s.l1, e.core = s.wave.coreNo → e.bad = false) ∧
    (Scope.pkg ≠ .wave ∧ Scope.pkg ≠ .team ∧ Scope.pkg ≠ .core) ∧
    ¬ (Scope.core ≠ .wave ∧ Scope.core ≠ .team ∧ Scope.core ≠ .core) ∧
    (∃ e ∈ s.l1, e.core = s.wave.coreNo ∧ e.written ≠ 0#32) := by decide +kernel

/-- Two lanes at places apart, and two lanes at one place. -/
theorem witness_Reductions :
    let s := ready twoWave
    let one := ready { twoWave with v := [] }
    let hits := [xHit 0 0, xHit 1 16]
    let same := [xHit 0 0, xHit 1 0]
    Plain s ∧ s.poison = [] ∧ s.wave.etype = .i32 ∧ (hits.map (·.pos)).Nodup ∧ (same.map (·.pos)).Nodup ∧
    inBudget s.wave 1 31#8 ∧ srcFits s.wave 1 0#8 ∧
    Reaches (afterWait s quiet) (atomForm false .add 1#8 0#8 x32) (fun _ => false) s hits ∧ (∀ h ∈ hits, h.pos < 32) ∧
    (∀ g ∈ hits, ∀ h ∈ hits, g ≠ h → g.key + 4 ≤ h.key ∨ h.key + 4 ≤ g.key) ∧
    Reaches (afterWait one quiet) (atomForm false .add 1#8 0#8 x32) (fun _ => false) one same ∧
    (∀ g ∈ same, g.key = (xHit 0 0).key) ∧
    (∀ h ∈ hits, isDirectory h.key = false) ∧ isDirectory (xHit 0 0).key = false ∧
    Reaches (afterWait s quiet) (atomForm true .add 1#8 0#8 x32) (fun _ => false) s [xHit 0 0] := by
  exact ⟨⟨rfl, noMmas_granted _, rfl, rfl⟩, rfl, rfl, by decide, by decide, by unfold inBudget; decide,
    .inl (by unfold inBudget; decide), reaches_of (by decide +kernel), by decide, by decide +kernel,
    reaches_of (by decide +kernel), by decide, by decide +kernel, by decide +kernel, reaches_of (by decide +kernel)⟩

theorem witness_TagTable :
    let s := granted { testWave with k := [(0, 1#32)] }
    let empty : State := { s with teams := [{ testTeam with tags := 0 }] }
    let far : State := { s with wave := { s.wave with v := [(0, 64#32)] } }
    WorksIn s s.wave.lanes ∧ s.team s.wave.team = some testTeam ∧ testTeam.tags % 8 = 0 ∧ testTeam.tags ≤ 4096 ∧
    dstFits s.wave 1 31#8 ∧ srcFits s.wave 2 30#8 ∧ srcFits s.wave 1 0#8 ∧ 0 < testTeam.tags ∧ s.wave.lanes = [0] ∧
    empty.team s.wave.team = some { testTeam with tags := 0 } ∧ s.wave.lanes.head? = some 0 ∧
    (∀ i ∈ s.wave.lanes, laneOf s.wave 0#8 1 i = 0xFFFFFFFF ∨ laneOf s.wave 0#8 1 i < testTeam.tags) ∧
    far.wave.lanes.find? (fun i => decide (laneOf far.wave 0#8 1 i ≠ 0xFFFFFFFF ∧ testTeam.tags ≤ laneOf far.wave 0#8 1 i)) =
      some 0 := by
  refine ⟨worksIn_granted rfl, rfl, by decide, by decide, .inl (by unfold inBudget; decide), .inl (by unfold inBudget; decide),
    .inl (by unfold inBudget; decide), by decide, rfl, rfl, rfl, ?_, ?_⟩ <;> (unfold laneOf; decide +kernel)

/-- The split at its bounds: 3 and 21 are illegal, 4 and 20 legal; 4 is refused while the grant lies above. -/
theorem witness_PoolSplit :
    let s : Nat → State := fun n => granted { testWave with priv := true, s := [(0, BitVec.ofNat 64 n)] }
    let high : State := { s 5 with teams := [{ testTeam with unit0 := 159 }] }
    (s 4).wave.priv = true ∧ testWave.priv = false ∧ ((s 3).readU 0#8).toNat < 4 ∧ 20 < ((s 21).readU 0#8).toNat ∧
    (4 ≤ ((s 4).readU 0#8).toNat ∧ ((s 4).readU 0#8).toNat ≤ 20 ∧ ¬ 24 - 4 < Sparse.get 20 (s 4).ways (s 4).wave.coreNo) ∧
    (24 - 20 < Sparse.get 20 (s 20).ways (s 20).wave.coreNo ∧ ∀ t ∈ (s 20).teams,
      coreKey t.die (t.core / 8) (t.core % 8) = (s 20).wave.coreNo → t.saved = false →
        8 * 20 ≤ t.unit0 ∨ t.unit0 + t.units ≤ 8 * (24 - 20)) ∧
    (24 - 5 < Sparse.get 20 high.ways high.wave.coreNo ∧ ∃ t ∈ high.teams,
      coreKey t.die (t.core / 8) (t.core % 8) = high.wave.coreNo ∧ t.saved = false ∧ t.unit0 < 8 * 20 ∧
        8 * (24 - 5) < t.unit0 + t.units) := by decide +kernel

/-! ### Counters -/

/-- A waiter of cell 0x200000 whose threshold 1 is reached by an add of 1, and one of another cell. -/
def testWaiters : List Waiter := [⟨0x200000, 1#64, .wave 0x20000101#32⟩, ⟨0x200008, 1#64, .wave 0x20000101#32⟩]

theorem witness_CounterOperations :
    let s : State := { at_ testWave with waiters := testWaiters }
    s.inp.ok = true ∧ s.inp.found ≠ .correctable ∧ s.mxAlias = [] ∧ s.poison = [] ∧ s.engRecords = [] ∧
    (s.ctrStatus 0x200000 = .ok ∧ CtrStatus.abandoned ≠ .ok) ∧
    ¬ ((({ s with cst := [(0x40000, .faulted)] } : State).ctrStatus 0x200000 = .ok ∧ CtrStatus.abandoned ≠ .ok) ∨
      (({ s with cst := [(0x40000, .faulted)] } : State).ctrStatus 0x200000 = .abandoned ∧
        CtrStatus.abandoned = .faulted)) := by decide +kernel

theorem witness_CounterAdds :
    let s := granted { twoWave with v := [(1, 16#32), (64, 1#32), (65, 2#32)] }
    let hits := [spHit 0 0, spHit 1 16]
    Plain s ∧ s.poison = [] ∧ s.engRecords = [] ∧ s.wave.unfKind = .no ∧ s.wave.gathB = false ∧ s.wave.gathF = false ∧
    s.wave.lanes = twoWave.lanes ∧ inBudget s.wave 2 2#8 ∧ srcFits s.wave 1 0#8 ∧
    Reaches (afterWait s quiet) (ctrForm false .ctrWrite 0x40#8 0#8 x64 true) (fun l => decide (2 ^ 63 ≤ laneOf s.wave 2#8 2 l))
      s hits ∧ (hits.map (·.pos)).Nodup ∧ hits.map (·.pos) = s.wave.lanes ∧ (∀ h ∈ hits, s.cellOf h = some h.key) ∧
    (∀ g ∈ hits, ∀ h ∈ hits, g ≠ h → g.key + 8 ≤ h.key ∨ h.key + 8 ≤ g.key) := by
  refine ⟨⟨rfl, noMmas_granted _, rfl, rfl⟩, rfl, rfl, rfl, rfl, rfl, rfl, by unfold inBudget; decide,
    .inl (by unfold inBudget; decide), reaches_of (by decide +kernel), by decide, rfl, by decide +kernel, by decide +kernel⟩

/-- A peer's counter: an x register that names package 1. -/
def peerX : BitVec 256 :=
  BitVec.ofNat 256 (0x20000 + 0x200000 * 2 ^ 64 + 1 * 2 ^ 116 + 2 * 2 ^ 123 + 65536 * 2 ^ 128 + 2 ^ 164 + 2 ^ 165 +
    2 ^ 166 + 1 * 2 ^ 168 + 50000 * 2 ^ 192)

theorem witness_CounterReadInitBreak :
    let s := granted twoWave
    let p : State := { s with wave := { s.wave with priv := true } }
    let hits := [spHit 0 0, spHit 1 16]
    Plain s ∧ s.poison = [] ∧ s.engRecords = [] ∧ s.wave.unfKind = .no ∧ s.wave.gathB = false ∧ s.wave.gathF = false ∧
    (hits.map (·.pos)).Nodup ∧ hits.map (·.pos) = s.wave.lanes ∧ srcFits s.wave 1 0#8 ∧ inBudget s.wave 2 2#8 ∧
    srcFits s.wave 2 2#8 ∧
    Reaches (afterWait s quiet) (ctrForm false .ctrRead 0x40#8 0#8 x64 false) (fun _ => false) s hits ∧
    Reaches (afterWait s quiet) (ctrForm false .ctrWrite 0x40#8 0#8 x64 false) (fun _ => false) s hits ∧
    (∀ g ∈ hits, ∀ h ∈ hits, g ≠ h → g.key / 8 ≠ h.key / 8 ∧ (g.key + 8 ≤ h.key ∨ h.key + 8 ≤ g.key)) ∧
    (∀ h ∈ hits, h.target ≠ 2) ∧ p.wave.priv = true ∧ s.wave.priv = false ∧
    Reaches (afterWait p quiet) (ctrForm false .ctrWrite 0x40#8 0#8 x64 false) (fun _ => false) p hits := by
  exact ⟨⟨rfl, noMmas_granted _, rfl, rfl⟩, rfl, rfl, rfl, rfl, rfl, by decide, rfl, .inl (by unfold inBudget; decide),
    by unfold inBudget; decide, .inl (by unfold inBudget; decide), reaches_of (by decide +kernel),
    reaches_of (by decide +kernel), by decide +kernel, by decide, rfl, rfl, reaches_of (by decide +kernel)⟩

/-- CINIT of a wave that is not privileged reaches a counter of package 1, which exports the frame. -/
theorem witness_CounterInitOfPeer :
    let s : State := { at_ { twoWave with k := [(0, 1#32)], v := [], x := [(1, peerX)] } with
      route := [(1, 1)], peerExports := [(1, 0x20)] }
    let hits : List Hit := [⟨0, 0x20000#64, peerKey 1 0x200000, 1, 2, 0, 1, false⟩]
    Reaches (afterWait s quiet) (ctrForm false .ctrWrite 1#8 0#8 x64 false) (fun _ => false) s hits ∧ Plain s ∧
      hits.map (·.pos) = s.wave.lanes ∧ s.wave.priv = false ∧ ∃ h ∈ hits, h.target = 2 :=
  ⟨reaches_of (by decide +kernel), ⟨rfl, noMmas_at twoWave, rfl, rfl⟩, rfl, rfl, by decide +kernel⟩

/-- A threshold of 0 is reached by a counter that holds 0, a threshold of 1 is not. -/
theorem witness_CounterWaits :
    let s : Nat → State := fun n => granted { testWave with s := [(9, BitVec.ofNat 64 n)] }
    let f := ctrForm true .ctrRead 0x40#8 0#8 x64 false
    let reach : State → Prop := fun s =>
      ((s.ctrValue (spHit 0 0).key).toNat + 2 ^ 64 - (s.readU 9#8).toNat) % 2 ^ 64 < 2 ^ 63
    Plain (s 0) ∧ (s 0).poison = [] ∧ (s 0).engRecords = [] ∧
    Reaches (afterWait (s 0) quiet) f (fun _ => false) (s 0) [spHit 0 0] ∧ reach (s 0) ∧
    Reaches (afterWait (s 1) quiet) f (fun _ => false) (s 1) [spHit 0 0] ∧ ¬ reach (s 1) ∧
    (s 1).ctrStatus (spHit 0 0).key = .ok ∧ ((s 1).readU 9#8).toNat % 4 ≠ 0 ∧ ((s 0).readU 9#8).toNat % 4 = 0 := by
  exact ⟨⟨rfl, noMmas_granted _, rfl, rfl⟩, rfl, rfl, reaches_of (by decide +kernel), by decide +kernel,
    reaches_of (by decide +kernel), by decide +kernel, by decide +kernel, by decide +kernel, by decide +kernel⟩

theorem witness_WaitCompletion :
    let w : Wave := { otherWave with st := .waiting, await := .counter 0x200000 1#64 9#8 false }
    let c : Wave := { otherWave with st := .parked, await := .cont 0x200000 1#64 9#8 false 0x10020#64 }
    let s : Wave → State := fun w => { at_ testWave with waves := [w] }
    w.hdl ≠ 0#32 ∧ (s w).wave.hdl ≠ w.hdl ∧ (s w).waves.find? (fun o => decide (o.hdl = w.hdl)) = some w ∧
    (s c).waves.find? (fun o => decide (o.hdl = c.hdl)) = some c ∧ w.due = false ∧ w.halted = false ∧ w.pair = none ∧
    (s w).engRecords = [] ∧ (s w).l1 = [] ∧ (∀ e ∈ (s w).waiters, e.party ≠ .wave w.hdl) ∧ (s c).teamSaved c = false ∧ 0x10020#64 ≠ c.pc := by
  decide +kernel

/-! ### Tiles and matrices -/

theorem witness_TileMoves :
    (∀ m ∈ (at_ testWave).mmas, m.wave ≠ testWave.hdl) ∧ Unstruck (at_ testWave) ∧ WorksIn (at_ testWave) testWave.lanes ∧
    ((0x8F#8).toNat / 8 % 8) < testWave.ntiles ∧ 0x58 ≤ (0x59#8).toNat ∧ (0x59#8).toNat < 0x58 + testWave.ntiles ∧
    inBudget testWave 1 16#8 ∧ (16#8).toNat + 4 * 2 ^ (2#2).toNat ≤ 8 * testWave.vblk ∧ (124#7).toNat + 2 ^ (2#2).toNat ≤ 128 := by
  refine ⟨by decide, unstruck_at rfl, worksIn_at rfl, ?_⟩; unfold inBudget; decide +kernel

/-- Rows 16 bytes apart in a grant of one unit; rows that are not on 16 bytes; rows of which the last leaves the grant. -/
theorem witness_TileLoadsAndStores :
    let s : Nat → State := fun v => granted { testWave with s := [(6, BitVec.ofNat 64 v)] }
    let off : State → Nat → Int := fun s r =>
      (BitVec.ofNat 32 ((s.readU 6#8).toNat / 2 ^ 32)).toInt + 16 * (0 : Int) + r * ((s.readU 6#8).toNat % 2 ^ 32)
    (∀ m ∈ (s 64).mmas, m.wave ≠ (s 64).wave.hdl) ∧ MBase.sp 0x60#8 = true ∧ Unstruck (s 64) ∧ Plain (s 64) ∧ (s 64).poison = [] ∧
    ((0#8).toNat / 8 % 8) < (s 64).wave.ntiles ∧ (s 64).team (s 64).wave.team = some testTeam ∧
    (∀ r < 128, off (s 64) r % 16 = 0) ∧ (∀ r < 128, 0 ≤ off (s 64) r ∧ off (s 64) r + 64 ≤ testTeam.units * 16384) ∧
    (off (s 8) 1 % 16 ≠ 0 ∧ ∀ p < 1, off (s 8) p % 16 = 0) ∧
    ((∀ r < 128, off (s 160) r % 16 = 0) ∧ ¬ (0 ≤ off (s 160) 103 ∧ off (s 160) 103 + 64 ≤ testTeam.units * 16384) ∧
      ∀ p < 103, 0 ≤ off (s 160) p ∧ off (s 160) p + 64 ≤ testTeam.units * 16384) := by
  refine ⟨by decide, rfl, unstruck_granted rfl, ⟨rfl, noMmas_granted _, rfl, rfl⟩, rfl, by decide, rfl, ?_⟩; decide +kernel

theorem witness_TileArithmetic :
    let w : Wave := { testWave with vblk := 8 }
    (∀ m ∈ (at_ w).mmas, m.wave ≠ w.hdl) ∧ Unstruck (at_ w) ∧ WorksIn (at_ w) w.lanes ∧
    (0x58 ≤ (0x59#8).toNat ∧ (0x59#8).toNat < 0x58 + w.ntiles) ∧ (6#3).toNat + TcvtFmt.panels .e4m3 ≤ 8 ∧
    inBudget w 1 48#8 ∧ (48#8).toNat + 16 ≤ 8 * w.vblk ∧ inBudget w 1 56#8 ∧ (56#8).toNat + 8 ≤ 8 * w.vblk := by
  refine ⟨by decide, unstruck_at rfl, worksIn_at rfl, ?_⟩; unfold inBudget; decide +kernel

/-- A scaled conversion whose scales end with the grant, and one whose scales pass its end. -/
theorem witness_TileConversion :
    let s : Nat → State := fun off => granted { testWave with s := [(4, BitVec.ofNat 64 off)] }
    let isTile : BitVec 8 → Prop := fun r => 0x58 ≤ r.toNat ∧ r.toNat < 0x58 + testWave.ntiles
    Unstruck (s 0) ∧ isTile 0x58#8 ∧ isTile 0x59#8 ∧ (6#3).toNat + TcvtFmt.panels .e4m3 ≤ 8 ∧ TcvtFmt.scalable .e4m3 = true ∧
    (4#3).toNat + TcvtFmt.panels .f16 ≤ 8 ∧ (s 0).team (s 0).wave.team = some testTeam ∧ (s 0).mxAlias = [] ∧
    ((s 15872).readU 4#8).toNat + 512 ≤ testTeam.units * 16384 ∧
    testTeam.units * 16384 < ((s 15873).readU 4#8).toNat + 512 := by
  refine ⟨unstruck_granted rfl, ?_⟩; decide +kernel

theorem witness_TilePruning :
    (∀ m ∈ (at_ testWave).mmas, m.wave ≠ testWave.hdl) ∧ Unstruck (at_ testWave) ∧
    (MOpnd.tile 0#8).toNat < testWave.ntiles ∧ (MOpnd.tile 0x0E#8).toNat < testWave.ntiles ∧
    (MOpnd.tile 1#8).toNat < testWave.ntiles ∧ ¬ (MOpnd.tile 0#8 = MOpnd.tile 1#8 ∧ MOpnd.panel 0#8 = MOpnd.panel 1#8) ∧
    (MOpnd.panel 0x0E#8).toNat < 7 ∧ (11#4).toNat < 12 ∧ ((4#4).toNat = 4 ∧ (2#2).toNat % 2 = 0) := by
  refine ⟨by decide, unstruck_at rfl, ?_⟩; decide +kernel

/-- int8 operands in panels of tile 1, D in tile 0; the format block in s8 to s11. -/
def int8Wave : Wave := { testWave with s := [(8, 0x55#64)] }

theorem witness_MatrixIssue :
    let s := at_ int8Wave
    let bad := at_ { int8Wave with s := [(8, 0xF5#64)] }
    let fmt := s.wave.formatBlock 8#6
    UnstruckIn s (upto 32) ∧ (s.wave.uiAct = false ∨ NoMmas s) ∧ (0x58 ≤ (0x58#8).toNat ∧ (0x58#8).toNat < 0x58 + s.wave.ntiles) ∧
    (s.wave.opndOk 0x08#8 = true ∧ s.wave.opndOk 0x0A#8 = true) ∧ (1#3).toNat < s.wave.ntiles ∧
    s.wave.act = BitVec.allOnes 32 ∧ (s.mmas.filter fun m => decide (m.array = s.wave.arrayNo)).length < 5 ∧
    ¬ (fmt.fmta = 4 ∧ (0#2).toNat % 2 = 1) ∧ (fmt.check false).isSome = true ∧ (fmt.check true).isSome = true ∧
    fmt.blka = 0 ∧ fmt.blkb = 0 ∧ ((bad.wave.formatBlock 8#6).check false).isNone = true ∧
    ((bad.wave.formatBlock 8#6).check true).isNone = true ∧ ¬ (bad.wave.formatBlock 8#6).fmta = 4 ∧
    ({ int8Wave with k := [(0, 1#32)] } : Wave).act ≠ BitVec.allOnes 32 := by
  refine ⟨(worksIn_at rfl).1, .inl rfl, ?_⟩; decide +kernel

def int8Mma : Mma :=
  ⟨5, 0x20000001#32, 0, 0x10000#64, 0xCD, 0, 0x08#8, 0x09#8, 5, 5, 0, 0, false, false, false, true, false, 0, 0, [], [], [], none⟩

/-- Operands scaled by blocks of 32, whose scale bytes end with the grant, and pass its end by one; an MMA in flight that
writes another tile than those read. -/
theorem witness_MatrixScales :
    let w : Nat → Wave := fun off => { testWave with s := [(8, 0x100#64), (10, BitVec.ofNat 64 off)] }
    let fmt : Nat → FormatBlock := fun off => (w off).formatBlock 8#6
    let s := granted (w 16128)
    UnstruckIn s (upto 32) ∧ s.team s.wave.team = some testTeam ∧ s.mxAlias = [] ∧ (fmt 16128).blka = 1 ∧ (fmt 16128).blkb = 0 ∧
    ((fmt 16128).check false).isSome = true ∧ ((fmt 16128).check true).isSome = true ∧ panelDepth (fmt 16128).fmta = 64 ∧
    (fmt 16128).sca + 128 * (64 / 32) ≤ testTeam.units * 16384 ∧
    testTeam.units * 16384 < (fmt 16129).sca + 128 * (64 / 32) ∧
    int8Mma.wave = s.wave.hdl ∧ s.wave.uiAct = false ∧ (MOpnd.tile 0x08#8).toNat ≠ int8Mma.d ∧
    (MOpnd.tile 0x09#8).toNat ≠ int8Mma.d := by
  refine ⟨(worksIn_granted rfl).1, ?_⟩; decide +kernel

/-- The oldest of two; in int8, in a scaled and sparse float format, and of transposed panels and fragments. -/
theorem witness_MatrixResult :
    let float : Mma := { int8Mma with fmta := 0, fmtb := 1, sparse := true, blka := 1, blkb := 2, a := 0x80#8, ta := true }
    let s : Mma → State := fun m => { at_ testWave with mmas := [m, { m with uid := 6 }] }
    ∀ m ∈ [int8Mma, float, { int8Mma with isat := true, tb := true }],
      (s m).wave.hdl ≠ 0#32 ∧ m.wave = (s m).wave.hdl ∧ (s m).mmas.find? (fun o => decide (o.uid = m.uid)) = some m ∧
      (∀ o ∈ (s m).mmas, o.array = m.array → m.uid ≤ o.uid) ∧ m.strike = none ∧ m.fmta < 12 ∧ m.fmtb < 12 ∧
      panelDepth m.fmta = panelDepth m.fmtb ∧ (m.fmta = 5 ↔ m.fmtb = 5) ∧ (s m).wave.await = .nothing := by decide +kernel

theorem witness_MatrixBatches :
    let open_ : Wave := { testWave with openSet := [5] }
    let w : Wave := { testWave with nb := 2#64, mb := 1#64, batches := [(2#64, [5])], s := [(0, 1#64), (1, 2#64), (2, 3#64)] }
    let ahead : Wave → Nat → Nat := fun w t => (t + 2 ^ 64 - w.nb.toNat) % 2 ^ 64
    let done : Wave → Nat → Prop := fun w t => (w.mb.toNat + 2 ^ 64 - t) % 2 ^ 64 < 2 ^ 63
    (testWave.openSet = [] ∧ testWave.batches = []) ∧ (open_.openSet ≠ [] ∧ ∀ e ∈ open_.batches, e.2 ≠ []) ∧
    (1 ≤ ahead w 3 ∧ ahead w 3 < 2 ^ 63) ∧ (¬ (1 ≤ ahead w 1 ∧ ahead w 1 < 2 ^ 63) ∧ done w 1) ∧
    (¬ (1 ≤ ahead w 2 ∧ ahead w 2 < 2 ^ 63) ∧ ¬ done w 2) := by decide +kernel

/-! ### Forms that complete -/

theorem witness_ModeFenceAndPoolFormsComplete :
    let w := testWave
    let s := at_ { w with priv := true }
    let legal : Word → Prop := fun m => m.toNat / 8 % 32 ≤ 14 ∧ m.toNat / 256 % 8 ≤ 5 ∧ m.toNat / 8192 % 8 = 0
    Unstruck s ∧ legal 0x570#32 ∧ legal ((s.readU 0x5F#8).setWidth 32) ∧
    legal ((s.wave.mode &&& ~~~(modeMask 1#6)) ||| (7#32 &&& modeMask 1#6)) ∧ s.wave.pair = none ∧
    (∀ e ∈ s.l1, e.core = s.wave.coreNo → e.bad = false) ∧ s.wave.priv = true := by
  refine ⟨unstruck_at rfl, ?_⟩; decide +kernel

/-- Three lanes at two places; tag entries and a counter that is reached. -/
theorem witness_AtomicTagAndWaitFormsComplete :
    let s := ready { twoWave with k := [(0, 7#32)] }
    let hits := [xHit 0 0, xHit 1 16, xHit 2 0]
    let g := granted testWave
    (NoMmas s ∧ Plain s ∧ s.poison = [] ∧ (x32.width = .b32 ∧ s.wave.etype = .i32) ∧ inBudget s.wave 1 31#8 ∧
      srcFits s.wave 1 0#8 ∧ (hits.map (·.pos)).Nodup ∧
      Reaches (afterWait s quiet) (atomForm false .add 1#8 0#8 x32) (fun _ => false) s hits ∧
      Reaches (afterWait s quiet) (atomForm true .add 1#8 0#8 x32) (fun _ => false) s [xHit 0 0]) ∧
    (WorksIn g g.wave.lanes ∧ g.team g.wave.team = some testTeam ∧ dstFits g.wave 1 31#8 ∧ srcFits g.wave 2 30#8 ∧
      srcFits g.wave 1 0#8 ∧ 0 < testTeam.tags ∧
      ∀ i ∈ g.wave.lanes, laneOf g.wave 0#8 1 i = 0xFFFFFFFF ∨ laneOf g.wave 0#8 1 i < testTeam.tags) ∧
    (Plain g ∧ g.poison = [] ∧ g.engRecords = [] ∧
      ((g.ctrValue (spHit 0 0).key).toNat + 2 ^ 64 - (g.readU 9#8).toNat) % 2 ^ 64 < 2 ^ 63 ∧
      Reaches (afterWait g quiet) (ctrForm true .ctrRead 0x40#8 0#8 x64 false) (fun _ => false) g [spHit 0 0] ∧
      (g.readU 0#8).toNat % 4 = 0) := by
  refine ⟨⟨noMmas_granted _, ⟨rfl, noMmas_granted _, rfl, rfl⟩, rfl, ⟨rfl, rfl⟩, by unfold inBudget; decide,
    .inl (by unfold inBudget; decide), by decide, reaches_of (by decide +kernel), reaches_of (by decide +kernel)⟩,
    ⟨worksIn_granted rfl, rfl, .inl (by unfold inBudget; decide), .inl (by unfold inBudget; decide),
      .inl (by unfold inBudget; decide), by decide, by unfold laneOf; decide +kernel⟩,
    ⟨rfl, noMmas_granted _, rfl, rfl⟩, rfl, rfl, by decide +kernel, reaches_of (by decide +kernel), by decide +kernel⟩

end Sys2Proof.Tests
end

