-- ==== Sys2Proof/Tests/WitnessObjects.lean ====
section
/-! SUPPORT. Witnesses: for each statement on engines, regrouping, objects and messages, a state and operands that meet
its hypotheses together. -/

set_option Elab.async false

namespace Sys2Proof.Tests

open Sys2Proof.Machine Sys2Proof.Claims

/-- Bytes of a memory image: fields of a given width, one after the other. -/
def image (fields : List (Nat × Nat)) : List Byte := fields.flatMap fun f => bytesOfNat f.1 f.2

/-- A kernel of one consumer wave at 0x10000, and the code version that holds it. -/
def testKernel : KernelNote := ⟨0x10000#64, 1, 0, 0, 0, 1, 4, 1, 3, 16384, 64, false⟩
def testCode : CodeVer :=
  ⟨0x60000301#32, 0x10000101#32, 0x10000#64, [0x30000], 0, [testKernel], [], [], [], false, true, true, false, 0, true, []⟩

/-- A grid of that kernel whose table holds template 5, one run of 16 bytes, and group 2, one member. -/
def testGrid : Grid :=
  ⟨1, 0x10000101#32, 0, 1, 1, 1, 0, 0x60000301#32, testKernel, false, 0#64, 0#64, [], [(5, ⟨16, 0, 0, 0, 0, 0, 0, 1⟩)],
    [(2, [⟨0, 0, 0, true, 0, 8⟩])], 0, 0, 0, 0, 0, none, 0, 0, 0, 0, 0, false⟩

/-- A machine with the process, its code version, its grid and team, and an image at 0x20000. -/
def homed (w : Wave) (bs : List Byte) : State :=
  { granted { w with codever := testCode.hdl } with
    procs := [{ testProc with ocbase := 0x1000000#64, ocFrames := [(0, 0x300000)] }], codes := [testCode], grids := [testGrid],
    tlb := [{ testTlb with held := .die }], mem := Sparse.putList Memory.unlisted [] 0x200000 bs }

/-- Source offset 0, destination offset 64 and counter offset 128 of the scratchpad, delta 1, in s4 to s7. -/
def copyRegs : Sparse DWord :=
  [(4, 0x8000000000000000#64), (5, 0x8000000000000040#64), (6, 0x8000000000000080#64), (7, 1#64)]

theorem witness_EngineRequests :
    let s := homed { testWave with s := copyRegs } []
    let m := homed { testWave with s := [(4, 0x8000000000000000#64), (6, 0x8000000000000080#64), (7, 1#64)] } []
    let e : Eng :=
      ⟨1, .gather 0 [], 0#32, 0#32, false, 0, 0, s.wave.coreNo, 0#64, 0, 0#64, 0#64, 0#64, 0#64, false, [], [], [], false, none⟩
    let full : State := { s with engs := List.replicate 32 e }
    let q : Nat → DWord := fun i => Sparse.get 0#64 s.wave.s (4 + i)
    let held : State → Nat := fun s => (s.engs.filter fun e => decide (e.core = s.wave.coreNo)).length
    s.wave.pair = none ∧ held s < 32 ∧ 32 ≤ held full ∧ (s.templateOf 5).isSome = true ∧ s.templateOf 6 = none ∧
    (s.groupOf 2).isSome = true ∧ s.groupOf 3 = none ∧ (ctrAddrOk (q 2) = true ∧ (q 3).toNat < 2 ^ 63) ∧
    (placeOf s.wave.team (q 0)).isSome = true ∧ (placeOf s.wave.team (q 1)).isSome = true ∧
    (s.team s.wave.team).isSome = true ∧ Sparse.get 0#64 m.wave.s 5 = 0#64 ∧ srcFits s.wave 1 31#8 ∧
    ¬ (ctrAddrOk (Sparse.get 0#64 testWave.s 2) = true ∧ 2 ^ 63 < 2 ^ 63) := by
  refine ⟨rfl, by decide +kernel, by decide +kernel, rfl, rfl, rfl, rfl, by decide +kernel, rfl, rfl, rfl, rfl,
    .inl (by unfold inBudget; decide), by decide +kernel⟩

/-- XGAT takes an index vector and a descriptor below 2^56; XCOLL a descriptor of 64 bytes at 0x20000. -/
theorem witness_GatherAndCollective :
    let s := homed { testWave with s := (4, 0x20000#64) :: (8, 0x20000#64) :: copyRegs.tail } (List.replicate 64 0#8)
    let r := (afterWait s quiet).readImage 0 s.wave.proc false (s.readU 8#8).toNat 64
    (Sparse.get 0#64 s.wave.s 4).toNat < 2 ^ 56 ∧
    (match r.2 with
      | .ok l => l.length == 64
      | .error _ => false) = true := by decide +kernel

/-- A template of one run of 16 bytes, a malformed one, and a group of one member, at 0x20000. -/
def templateImage : List Byte := image [(4, 16), (20, 0), (1, 1), (7, 0)]
def groupImage : List Byte := image [(6, 0), (1, 1), (1, 0), (8, 0), (240, 0)]

theorem witness_TemplateTables :
    let s : List Byte → State := fun l => homed { testWave with s := [(8, 0x20000#64)] } l
    let read : List Byte → Nat → List Byte := fun l n =>
      match ((afterWait (s l) quiet).readImage 0 testWave.proc false ((s l).readU 8#8).toNat n).2 with
      | .ok bs => bs
      | .error _ => []
    (s []).wave.pair = none ∧ (parseTemplate (read templateImage 32)).isSome = true ∧
    (read [] 32).length = 32 ∧ parseTemplate (read [] 32) = none ∧ (parseGroup (read groupImage 256)).isSome = true ∧
    (s []).quiesced testGrid.uid 2 = true ∧ (s []).grid testTeam.grid = some testGrid ∧
    (s []).team testWave.team = some testTeam := by decide +kernel

/-- A copy of 16 bytes within the scratchpad, and a multicast to its own team. -/
def copyEng (started : Bool) (k : EngKind) : Eng :=
  ⟨3, k, 0x20000001#32, 0x10000101#32, false, 7, 0, testWave.coreNo, 0x10000#64, 0xE0, 0x8000000000000000#64,
    0x8000000000000040#64, 0x8000000000000080#64, 1#64, started, [(0, some 7)], [], [], false, none⟩

theorem witness_EngineTransfers :
    let tm : Template := ⟨16, 0, 0, 0, 0, 0, 0, 1⟩
    let mb : Member := ⟨0, 0, 0, true, 64, 128⟩
    let s : Eng → State := fun e => { homed testWave [] with engs := [e] }
    let off : DWord → Nat := fun a => a.toNat % 2 ^ 22
    let pad : DWord → Prop := fun a => a.toNat / 2 ^ 22 = 0x80 * 2 ^ 34
    let e := copyEng true (.copy tm)
    let m := copyEng true (.multi tm [mb] 2 1 0 0 0)
    (s e).engs.find? (fun o => decide (o.uid = e.uid)) = some e ∧ (s e).poison = [] ∧ (s e).mxAlias = [] ∧
    e.broken = false ∧ e.strike = none ∧ (s e).upset = none ∧ off e.ctr % 8 = 0 ∧ (s e).team e.team = some testTeam ∧ testTeam.uid = e.team ∧ tm.n1m = 0 ∧ tm.n2m = 0 ∧ pad e.src ∧
    off e.src + tm.len0 ≤ testTeam.units * 16384 ∧ ((s e).resinjOf e.die).getLsbD 0 = false ∧ pad e.dst ∧ pad e.ctr ∧
    off e.dst + tm.len0 ≤ testTeam.units * 16384 ∧ off e.ctr + 8 ≤ testTeam.units * 16384 ∧
    (off e.ctr + 8 ≤ off e.dst ∨ off e.dst + tm.len0 ≤ off e.ctr) ∧
    (off e.src + tm.len0 ≤ off e.dst ∨ off e.dst + tm.len0 ≤ off e.src) ∧
    (2 ^ 70 + 7 * 2 ^ 22 + off e.src + tm.len0 ≤ 2 ^ 70 + testTeam.uid * 2 ^ 22 + mb.dst) ∧
    m.targets.find? (fun t => decide (t.1 = 0)) = some (0, some testTeam.uid) ∧ [mb][0]? = some mb ∧
    m.done.contains 0 = false ∧ m.failed.any (fun t => decide (t.1 = 0)) = false ∧ mb.ctr % 8 = 0 ∧
    mb.ctr + 8 ≤ testTeam.units * 16384 ∧ mb.dst + tm.len0 ≤ testTeam.units * 16384 ∧
    (mb.ctr + 8 ≤ mb.dst ∨ mb.dst + tm.len0 ≤ mb.ctr) := by decide +kernel

/-- A copy of two runs of 16 bytes within the scratchpad, apart from its counter; the second run of another leaves the grant.
A gather of two rows of a page of memory. -/
theorem witness_EngineRuns :
    let tm : Template := ⟨16, 1, 0, 16, 0, 32, 0, 1⟩
    let e := copyEng true (.copy tm)
    let s := { homed testWave [] with engs := [e] }
    let run : Place → Int → Kind → Option Reached := fun p o k => match (s.engReach e p o 16 k).2 with
      | .ok r => some r
      | .error _ => none
    let g := { copyEng true (.gather 0 [0, 2]) with src := 0x20000#64 }
    let a : Place := .pad 7 0
    let b : Place := .pad 7 64
    let base := 2 ^ 70 + 7 * 2 ^ 22
    e.started = true ∧ e.broken = false ∧ s.poison = [] ∧ s.mxAlias = [] ∧ s.waiters = [] ∧
    placeOf e.team e.src = some a ∧ placeOf e.team e.dst = some b ∧ placeOf g.team g.src = some (.virt 0x20000#64) ∧
    run a 0 .load = some ⟨base, 0, 16⟩ ∧ run a 16 .load = some ⟨base + 16, 0, 16⟩ ∧ run b 0 .store = some ⟨base + 64, 0, 16⟩ ∧
    run b 32 .store = some ⟨base + 96, 0, 16⟩ ∧
    (match (s.ctrTarget e.die e.proc e.priv e.team e.ctr).2 with
      | .ok k => decide (k = base + 128)
      | .error _ => false) = true ∧
    (match (s.engReach e a 16384 16 .load).2 with
      | .ok _ => false
      | .error (_, n) => decide (n = 16)) = true ∧
    (let m := { copyEng true (.multi tm [⟨0, 0, 0, true, 64, 128⟩] 2 1 0 0 0) with failed := [(0, 0x40#64)] }
     m.done.length + m.failed.length = m.targets.length) := by decide +kernel

/-- The participant of die `r` in a collective with element type i32 and two elements. -/
def part (r : Nat) : Eng := { copyEng true (.coll 1 0 0 2 5#64 3#256 0#32 r) with uid := 3 + r, team := 7 + r, die := r }

/-- Both of them, and their teams. -/
def joining : State :=
  { homed testWave [] with engs := [part 0, part 1], teams := [testTeam, { testTeam with uid := 8, die := 1 }] }

theorem witness_Collectives :
    let off : DWord → Nat := fun a => a.toNat % 2 ^ 22
    let pad : DWord → Prop := fun a => a.toNat / 2 ^ 22 = 0x80 * 2 ^ 34
    (part 0).uid ≠ (part 1).uid ∧ joining.inp.ok = true ∧ joining.poison = [] ∧ joining.mxAlias = [] ∧ (part 0).die = 0 ∧
    (part 1).die = 1 ∧ joining.joined 5#64 0#32 = [part 0, part 1] ∧
    joining.team (part 0).team = some testTeam ∧ joining.team (part 1).team = some { testTeam with uid := 8, die := 1 } ∧
    (∀ e ∈ [part 0, part 1], e.started = true ∧ e.broken = false ∧ off e.src + 8 ≤ testTeam.units * 16384 ∧
      off e.dst + 4 ≤ testTeam.units * 16384 ∧ off e.ctr + 8 ≤ testTeam.units * 16384 ∧ off e.ctr % 8 = 0) ∧
    (pad (part 0).src ∧ pad (part 0).dst ∧ pad (part 0).ctr) ∧ joining.pkg = 0 := by
  refine ⟨by decide, rfl, rfl, rfl, rfl, rfl, by decide +kernel, rfl, rfl, by decide +kernel, by decide +kernel, rfl⟩

/-- Its members are the dies of package 0. -/
theorem witness_CollectiveMembers : ∀ i < 256, (3#256).getLsbD i = decide (i / 2 = 0) := by decide +kernel

/-- Migration mask 0 with a window of 0, 1 and 2^20 - 1; 2^20 is illegal, and bit 4 of a mask with a budget of 4 blocks. -/
theorem witness_RegrpWithoutPartner :
    let s : Nat → Nat → State := fun m win => at_ { testWave with s := [(0, BitVec.ofNat 64 m), (1, BitVec.ofNat 64 win)] }
    let legal : State → Prop := fun s =>
      (s.readU 0#8).toNat < 2 ^ 30 ∧ (s.readU 1#8).toNat < 2 ^ 20 ∧ (s.readU 0#8).toNat < 2 ^ s.wave.vblk
    testWave.hdl ≠ 0#32 ∧ UnstruckIn (s 0 0) testWave.lanes ∧ legal (s 15 0) ∧ legal (s 0 (2 ^ 20 - 1)) ∧
    ¬ legal (s 0 (2 ^ 20)) ∧ ¬ legal (s 16 0) ∧ ((s 0 0).readU 1#8).toNat = 0 ∧ 0 < ((s 0 1).readU 1#8).toNat ∧
    (∀ o ∈ (s 0 0).waves, o.team ≠ testWave.team) ∧
    (let w : Wave := { testWave with await := .partner 0#32 10, st := .waiting }
     w.halted = false ∧ 10 ≤ ({ at_ w with clock := ⟨10, 10⟩ } : State).clock.get w.die) := by
  refine ⟨by decide, ⟨rfl, rfl⟩, ?_⟩; decide +kernel

theorem witness_RegrpFusion :
    let w : Wave := { testWave with k := [(0, 0xFFFF#32)] }
    let o : Wave := { otherWave with k := [(0, 0xFFFF0000#32)], st := .waiting, await := .partner 0#32 10 }
    let s : State := { at_ w with waves := [o] }
    w.hdl ≠ 0#32 ∧ UnstruckIn s w.lanes ∧ s.waves = [o] ∧ o.hdl ≠ w.hdl ∧ o.hdl ≠ 0#32 ∧ o.pair = none ∧ w.pair = none ∧
    s.clock.get o.die < 10 ∧ o.team = w.team ∧ o.pc = w.pc ∧ o.codever = w.codever ∧ o.consumer = w.consumer ∧ w.widx < o.widx ∧
    (lanesOf w.act).length + (lanesOf o.act).length ≤ 32 ∧ w.openSet = [] ∧ w.batches = [] ∧
    (s.readU 0x5F#8).toNat < 2 ^ 20 := by
  refine ⟨by decide, ⟨rfl, rfl⟩, ?_⟩; decide +kernel

/-! ### Objects -/

/-- A launch descriptor of a grid of one team. -/
def launchImage : List Byte := image [(8, 0x10000), (4, 0), (4, 1), (2, 1), (2, 1), (12, 0), (8, 0), (8, 0), (208, 0)]

theorem witness_ObjectCreation :
    let s := homed { testWave with s := [(0, 0x20000#64), (1, 4#64), (2, 12#64)] } launchImage
    let none' : State := { s with procs := [{ testProc with quota := [0, 0, 0, 0, 0] }] }
    let free : Nat → Handle := fun type => (s.newHandle type 0).getD 0#32
    Quiet s ∧ (s.newHandle 3 0).isSome = true ∧ (s.newHandle 4 0).isSome = true ∧ (s.newHandle 5 0).isSome = true ∧
    s.mayCreate testProc.hdl 4 0 1 (8 * Config.spillBytes) = true ∧
    none'.mayCreate testProc.hdl 4 0 1 (8 * Config.spillBytes) = false ∧
    s.mayCreate testProc.hdl 5 0 1 0 = true ∧ (s.newPair testProc.hdl (free 5)).isSome = true ∧
    (4 ≤ (s.readU 1#8).toNat % 16 ∧ (s.readU 2#8).toNat % 16 ≤ 12 ∧ (s.readU 2#8).toNat < 2 ^ 6 ∧
      (s.readU 2#8).toNat / 16 ≠ 3) ∧
    s.mayCreate testProc.hdl 3 0 1 (64 * 2 ^ 12) = true ∧
    (match s.newPair testProc.hdl (free 3) with
      | some u => (u.poolTake (hDie (free 3)) (64 * 2 ^ 12)).isSome
      | none => false) = true := by
  refine ⟨⟨rfl, rfl, fun _ h => nomatch h⟩, ?_⟩; decide +kernel

/-- Attributes at their bounds: 2^15 and sizes 3 and 13 are refused, 256 grant slots are the most; a grant window at 65,536; a
port that the host may send to takes unit 1, and with it taken unit 2. -/
theorem witness_PortCreation :
    let s : Nat → Nat → State := fun attr gwin =>
      let s := homed { testWave with s := [(2, BitVec.ofNat 64 attr), (3, BitVec.ofNat 64 gwin)] } []
      { s with procs := s.procs.map fun p => { p with flist := 0x30000#64, quota := [9, 9, 9, 9, 9] } }
    let bare := homed testWave []
    let sound : Nat → Prop := fun attr => attr < 2 ^ 15 ∧ 4 ≤ attr % 16 ∧ attr % 16 ≤ 12 ∧ attr / 64 ≤ 256
    let used : State → Nat → Bool := fun s n => s.ports.any fun p => decide (hDie p.hdl = 0) && decide (p.cwUnit = n)
    Quiet (s 4 0) ∧ ¬ sound (2 ^ 15) ∧ ¬ sound 3 ∧ ¬ sound 13 ∧ sound (64 * 256 + 12) ∧ sound (64 + 0x34) ∧
    (s 68 65536).readU 3#8 = 65536#64 ∧ (65536 + 65536 * 1 ≤ 2 ^ 55) ∧
    (match (s 68 65536).walk testWave.proc 65536 with
      | .ok _ => false
      | .error _ => true) = true ∧
    ¬ 65535 % 65536 = 0 ∧ ((s 68 65536).proc testWave.proc).map (fun p => decide (p.flist ≠ 0#64)) = some true ∧
    (bare.proc testWave.proc).map (·.flist) = some 0#64 ∧ ((s 0x34 0).readU 2#8).toNat / 16 % 4 = 3 ∧
    used (s 4 0) 1 = false ∧ used { s 4 0 with ports := [{ testPort with cwUnit := 1 }] } 1 = true ∧
    used { s 4 0 with ports := [{ testPort with cwUnit := 1 }] } 2 = false ∧ ((s 4 0).newHandle 3 0).isSome = true ∧
    (s 4 0).mayCreate testWave.proc 3 0 1 (64 * 2 ^ 4) = true ∧ (s 4 0).mayCreate testWave.proc 3 0 1 0 = true ∧
    bare.mayCreate 0#32 3 0 1 0 = false := by
  refine ⟨⟨rfl, rfl, fun _ h => nomatch h⟩, ?_⟩; decide +kernel

/-- Images that CRGRID refuses: one that does not translate, a malformed one, a privileged one, one of a version that is gone,
and one whose kernel no version holds. -/
theorem witness_GridRefusals :
    let s : List Byte → State := fun l => homed { testWave with s := [(0, 0x20000#64), (1, 0x40000#64)] } l
    let read : List Byte → BitVec 8 → Option (List Byte) := fun l c =>
      match ((afterWait (s l) quiet).readImage 0 testProc.hdl false ((s l).readU c).toNat 256).2 with
      | .ok bs => some bs
      | .error _ => none
    let fields : Nat → Nat → Nat → List Byte := fun kernel code priv =>
      image [(8, kernel), (4, code), (4, 1), (2, 1), (2, 1), (1, 0), (1, priv), (10, 0), (8, 0), (8, 0), (208, 0)]
    read [] 1#8 = none ∧ (read [] 0#8).map (fun l => natAt l 12 4) = some 0 ∧
    (read (fields 0x10000 0 1) 0#8).map (fun l => natAt l 21 1) = some 1 ∧ testWave.priv = false ∧
    (read (fields 0x10000 5 0) 0#8).map (fun l => natAt l 8 4) = some 5 ∧ (∀ v ∈ (s []).codes, v.hdl ≠ 5#32) ∧
    (read (fields 0x10004 0 0) 0#8).map (fun l => natAt l 0 8) = some 0x10004 ∧
    (∀ k ∈ testCode.kernels, k.addr ≠ 0x10004#64) ∧
    (match parseLaunch (fields 0x10004 0 0) with
      | some pl => decide (testCode.proc = testProc.hdl) && ((s []).launchVersion testProc.hdl testCode.hdl pl).isSome
      | none => false) = true := by decide +kernel

/-- CRGRID of the descriptor at 0x20000: its kernel is found, and can be placed. -/
theorem witness_GridCreation :
    let s := homed { testWave with s := [(0, 0x20000#64)] } launchImage
    (match ((afterWait s quiet).readImage 0 testProc.hdl false (s.readU 0#8).toNat 256).2 with
      | .ok l =>
        match parseLaunch l with
        | some pl =>
          decide (s.launchVersion testProc.hdl s.wave.codever pl = some testCode) && testCode.sealed && decide (testCode.ready ≤ s.clock.get 0) && !pl.priv &&
            decide (testCode.kernels.find? (fun k => decide (k.addr = pl.kernel)) = some testKernel)
        | none => false
      | .error _ => false) = true ∧
    holdable testKernel = true ∧ testKernel.waves ≤ s.quotaOf testProc.hdl 2 := by decide +kernel

/-- A wave part at 0x20000, a process part behind it; a process part alone. -/
def waveImage : List Byte := image [(8, 0x10000), (4, 0), (1, 3), (1, 4), (1, 1), (1, 0), (1, 0xFF), (7, 0), (8, 0), (96, 0)]
def procImage : List Byte := image [(8, 0), (1, 1), (3, 0), (4, 0), (8, 0), (8, 0), (4, 9), (4, 9), (4, 9), (4, 9), (4, 9), (12, 0)]

theorem witness_WaveAndProcessCreation :
    let s : List Byte → State := fun l => homed { testWave with priv := true, s := [(0, 0x20000#64), (1, 0x10000101#64)] } l
    let read : List Byte → Nat → List Byte := fun l n =>
      match ((afterWait (s l) quiet).readImage 0 testProc.hdl true ((s l).readU 0#8).toNat n).2 with
      | .ok bs => bs
      | .error _ => []
    let both := waveImage ++ procImage
    Quiet (s []) ∧ testWave.priv = false ∧ (s []).wave.priv = true ∧
    (match parseWave (read waveImage 128) with
      | some p =>
        (match (s waveImage).waveVersion p with
          | .ok (some c) => decide (c = testCode)
          | _ => false) && (s waveImage).mayCreate testProc.hdl 2 0 1 (imageSize p.vblk p.tiles) &&
          ((s waveImage).imagesFor 0 [imageSize p.vblk p.tiles]).any fun l => decide (l ≠ [])
      | none => false) = true ∧
    (s []).newHandle 2 0 ≠ none ∧ (s []).newHandle 2 0 ≠ some testWave.hdl ∧ (s []).newHandle 1 0 ≠ none ∧
    (parseWave (read both 192)).isSome = true ∧ ((parseProc ((read both 192).drop 128)).map (·.fport)) = some 0#32 ∧
    (let bare : State := { s procImage with procs := [testProc] }
     bare.names1 1 (bare.handleIn 1#8) = true ∧ (∀ n ∈ bare.procs, n.ocFrames = []) ∧
       (match ((afterWait bare quiet).readImage 0 testProc.hdl true (bare.readU 0#8).toNat 64).2 with
         | .ok l => (parseProc l).map (·.fport)
         | .error _ => none) = some 0#32) := by
  refine ⟨⟨rfl, rfl, fun _ h => nomatch h⟩, ?_⟩; decide +kernel

/-- With a new process of a quota of 9 waves, its first wave has a handle and may be created. -/
theorem witness_FirstWave :
    let s := homed { testWave with priv := true } []
    let ph := (s.newHandle 1 0).getD 0#32
    let u : State := { s with procs := s.procs ++ [{ testProc with hdl := ph, quota := [9, 9, 9, 9, 9] }] }
    u.newHandle 2 0 ≠ none ∧ u.mayCreate ph 2 0 1 (imageSize 4 1) = true ∧
    (u.imagesFor 0 [imageSize 4 1]).any (fun l => decide (l ≠ [])) = true := by decide +kernel

/-- A message of no grants whose words 1 on hold data; a header that says 4 grants is refused. -/
theorem witness_Messages :
    let name := BitVec.ofNat 64 (testPort.hdl.toNat % 2 ^ 28)
    let at' : Port → State := fun p => { homed { testWave with s := [(2, name), (3, 0x30000001#64), (9, 0x40000000000#64)] } [] with
      ports := [p] }
    let s := at' testPort
    let held := at' { testPort with msgs := [⟨0, none, 0#32, 0, [], 0#32, false⟩] }
    let f : Flight := ⟨4, testPort.hdl, 0, List.replicate 64 0#8, 0, 0, 0x20000001#32, 0, 0x10000101#32, false, 0#32, []⟩
    let count := s.arrivalKey testPort
    let slot := testPort.ring + 64 * ((s.ctrValue count).toNat % 2 ^ testPort.dlog)
    Quiet s ∧ s.poison = [] ∧ s.mxAlias = [] ∧ s.sendReason (s.homeOf (s.readU 2#8)) (s.wave.block64 16#8) = 0 ∧
    natAt (s.wave.block64 16#8) 13 1 % 8 = 0 ∧ (s.homeOf (s.readU 2#8)).pkg = s.pkg ∧
    s.sendReason (s.homeOf 0#64) (s.wave.block64 16#8) ≠ 0 ∧
    s.names1 3 ((s.readU 3#8).setWidth 32) = true ∧ s.port testPort.hdl = some testPort ∧
    s.receiver testPort.hdl = none ∧ testPort.msgs = [] ∧ (held.port testPort.hdl).map (·.msgs.length) = some 1 ∧
    f.uid ≠ 0 ∧ f.pkg = s.pkg ∧ f.bytes.length = 64 ∧ s.clock.get (hDie testPort.hdl) ≤ f.sent + classBound f.cls ∧
    (count + 8 ≤ slot ∨ slot + 64 ≤ count) := by
  refine ⟨⟨rfl, rfl, fun _ h => nomatch h⟩, ?_⟩; decide +kernel

/-- A timer, a set and a port named by s0 to s2, and a name registered under key 5. -/
def named (w : Wave) : State :=
  { homed { w with s := [(0, 0x50000001#64), (1, 0x40000001#64), (2, 0x30000001#64), (3, 5#64), (4, 999#64), (5, 1000#64),
                         (6, 0x10000000000#64), (7, 0x10000000001#64)] } [] with
    ports := [testPort], timers := [⟨0x50000001#32, 0x10000101#32, true, 100#64, 50#64⟩],
    sets := [⟨0x40000001#32, 0x10000101#32, [], 0#32, [], []⟩], names := [(0, 5#64, 0x1#64)] }

theorem witness_TimersNamesAndMembers :
    let s := named testWave
    let h : BitVec 8 → Handle := fun a => (s.readU a).setWidth 32
    s.wave.pair = none ∧ s.names1 5 (h 0#8) = true ∧ s.names1 5 (h 1#8) = false ∧ s.names1 4 (h 1#8) = true ∧
    s.names1 4 (h 0#8) = false ∧ s.names1 3 (h 2#8) = true ∧
    ((s.readU 0x5F#8).toNat = 0 ∧ 1000 ≤ (s.readU 5#8).toNat ∧ (s.readU 6#8).toNat ≤ 2 ^ 40 ∧ (s.readU 4#8).toNat < 1000 ∧
      2 ^ 40 < (s.readU 7#8).toNat ∧ (s.readU 4#8).toNat ≠ 0) ∧
    (let t : Timer := ⟨0x50000001#32, 0x10000101#32, true, 100#64, 50#64⟩
     s.timer t.hdl = some t ∧ t.armed = true ∧ s.poison = [] ∧ s.mxAlias = [] ∧
       t.deadline.toNat ≤ ({ s with clock := ⟨100, 100⟩ } : State).clock.get (hDie t.hdl)) ∧
    (s.names.filter fun e => decide (e.1 = s.wave.die)).length < 65536 ∧
    s.names.any (fun e => decide (e.1 = s.wave.die) && decide (e.2.1 = s.readU 3#8)) = true ∧
    s.names.any (fun e => decide (e.1 = s.wave.die) && decide (e.2.1 = s.readU 4#8)) = false ∧
    (∀ e ∈ s.names, e.2.1 ≠ s.readU 4#8) ∧ s.readU 0x5F#8 = 0#64 ∧
    (let c := named { testWave with s := [] }
     let r := (afterWait { c with wave := { c.wave with s := (8, 0x8000000000000008#64) :: [] } } quiet).waitCell 0x8000000000000008#64
     r.2.isSome = true) := by decide +kernel

/-- A set of two members: at a counter that has reached its threshold, and at one that has not. -/
theorem witness_WaitSets :
    let set : List (Nat × SetMember) → WaitSet := fun l => ⟨0x40000001#32, 0x10000101#32, l, 0#32, [], []⟩
    let m0 : Nat × SetMember := (0, ⟨0x400000, 0#64, 0#32⟩)
    let m7 : Nat × SetMember := (7, ⟨0x400008, 1#64, 0#32⟩)
    let s : WaitSet → State := fun t => { named testWave with sets := [t] }
    let h : Handle := ((s (set [])).readU 1#8).setWidth 32
    let hit : SetMember → Prop := fun m => ((0 : Nat) + 2 ^ 64 - m.thr.toNat) % 2 ^ 64 < 2 ^ 63
    Quiet (s (set [])) ∧ (s (set [])).poison = [] ∧ (s (set [])).engRecords = [] ∧ (s (set [m0, m7])).names1 4 h = true ∧
    (s (set [m0, m7])).set h = some (set [m0, m7]) ∧ ((set [m0, m7]).members.map (·.1)).Nodup ∧
    (∀ e ∈ (set [m0, m7]).members, e.1 < 8) ∧ (s (set [m0])).ctrValue m0.2.key = 0#64 ∧ hit m0.2 ∧ ¬ hit m7.2 ∧
    (s (set [m7])).ctrStatus m7.2.key = .ok ∧ ({ set [m0] with waiter := 0x20000101#32 } : WaitSet).waiter ≠ 0#32 := by
  refine ⟨⟨rfl, rfl, fun _ h => nomatch h⟩, ?_⟩; decide +kernel

theorem witness_Deletion :
    let s := named testWave
    let h : BitVec 8 → Handle := fun a => (s.readU a).setWidth 32
    let p := named { testWave with s := [] }
    let proc : State := { p with wave := { p.wave with s := [(0, 0x10000101#64), (1, 0x60000301#64)] } }
    s.wave.pair = none ∧ s.names1 (hType (h 6#8)) (h 6#8) = false ∧ s.names1 5 (h 0#8) = true ∧ (s.timer (h 0#8)).isSome = true ∧
    s.waiters = [] ∧ ({ s with sets := [] } : State).names1 5 (h 0#8) = true ∧ s.names1 4 (h 1#8) = true ∧
    (s.set (h 1#8)).map (·.waiter) = some 0#32 ∧ proc.names1 1 ((proc.readU 0#8).setWidth 32) = true ∧
    proc.wave.priv = false ∧ proc.names1 6 ((proc.readU 1#8).setWidth 32) = true ∧
    proc.code ((proc.readU 1#8).setWidth 32) = some testCode ∧ proc.wave.codever = testCode.hdl ∧ proc.wave.hdl ≠ 0#32 := by
  decide +kernel

/-- A wave whose instruction names the other wave of its team, which is parked and has an exit counter or none. -/
def deletesWave (xctr : DWord) : State :=
  { named { testWave with s := [] } with
    wave := { testWave with codever := testCode.hdl, s := [(0, 0x20000101#64)] }, waves := [{ otherWave with st := .parked, xctr := xctr }] }

/-- The other wave waits on the set, or for a message at the port. -/
def deletesWaited (h : DWord) (aw : Await) (reg : List (Nat × SetMember)) : State :=
  { named { testWave with s := [] } with
    wave := { testWave with s := [(0, h)] }, waves := [{ otherWave with st := .waiting, await := aw }],
    sets := [⟨0x40000001#32, 0x10000101#32, [], otherWave.hdl, reg, []⟩] }

/-- A privileged wave of another process deletes the process of the rest. -/
def deletesProc : State :=
  let s := named { testWave with s := [] }
  { s with wave := { testWave with proc := 0x10000201#32, priv := true, s := [(0, 0x10000101#64)] },
           waves := [otherWave], procs := { testProc with hdl := 0x10000201#32 } :: s.procs.map fun p => { p with parent := 0x10000201#32 } }

theorem witness_WaveDeletion :
    let x := 0x8000000000003FF8#64
    let s := deletesWave x
    let o := { otherWave with st := .parked, xctr := x }
    let h : Handle := 0x20000101#32
    s.wave.pair = none ∧ ((s.readU 0#8).setWidth 32 : Handle) = h ∧ s.names1 2 h = true ∧ h ≠ s.wave.hdl ∧
    s.findWave h = some o ∧ s.runq = [] ∧ s.poison = [] ∧ s.mxAlias = [] ∧
    (∃ v ∈ s.allWaves, v.hdl ≠ h ∧ v.team = o.team) ∧ o.await = .nothing ∧ o.pair = none ∧ hIndex o.codever ≠ hIndex h ∧
    s.team o.team = some testTeam ∧ testTeam.cset = [] ∧ testTeam.uid = o.team ∧ x.toNat / 2 ^ 22 = 0x80 * 2 ^ 34 ∧
    x.toNat % 8 = 0 ∧ x.toNat % 2 ^ 22 + 8 ≤ testTeam.units * 16384 := by decide +kernel

/-- The same without an exit counter, and a wave that names itself. -/
theorem witness_OwnDeletion :
    let s : State := { deletesWave 0#64 with wave := { testWave with codever := testCode.hdl, s := [(0, 0x20000001#64)] } }
    ((deletesWave 0#64).findWave 0x20000101#32).map (·.xctr) = some 0#64 ∧ ((s.readU 0#8).setWidth 32 : Handle) = s.wave.hdl ∧
    s.names1 2 s.wave.hdl = true ∧ (∃ v ∈ s.waves, v.hdl ≠ s.wave.hdl ∧ v.team = s.wave.team) ∧
    hIndex s.wave.codever ≠ hIndex s.wave.hdl := by decide +kernel

theorem witness_WaitedDeletion :
    let m : SetMember := ⟨0x400000, 1#64, 0x30000001#32⟩
    let h : Handle := 0x40000001#32
    let s := deletesWaited 0x40000001#64 (.waitSet h 9#8 false) [(0, m), (7, m)]
    let o := { otherWave with st := .waiting, await := .waitSet h 9#8 false }
    let q : WaitSet := ⟨h, 0x10000101#32, [], otherWave.hdl, [(0, m), (7, m)], []⟩
    (s.wave.pair = none ∧ s.names1 4 h = true ∧ s.set h = some q ∧ q.waiter = o.hdl ∧ o.hdl ≠ 0#32 ∧ o.hdl ≠ s.wave.hdl ∧
      s.waves = [o] ∧ o.st = .waiting ∧ o.due = false ∧ o.halted = false ∧ o.pair = none ∧ s.l1 = [] ∧ q.hdl = h ∧ q.reg ≠ [] ∧
      (q.reg.map (·.1)).Nodup ∧ (∀ e ∈ q.reg, e.1 < 8)) ∧
    (let p : Handle := 0x30000001#32
     let s : Await → State := fun aw => deletesWaited 0x30000001#64 aw []
     ∀ aw ∈ [Await.message p 8#8 false 0, Await.counter 0x400000 1#64 9#8 false],
       (s aw).names1 3 p = true ∧ (s aw).port p = some testPort ∧ (s aw).waves = [{ otherWave with st := .waiting, await := aw }] ∧
       (s aw).mxAlias = [] ∧ testPort.msgs = [] ∧ (s aw).wave.await = .nothing) ∧
    (let t : Handle := 0x50000001#32
     let s : State := named testWave
     let key := s.pairKey testProc.hdl t
     let w : State := { s with waiters := [⟨key, 1#64, .wave 0x20000101#32⟩] }
     w.names1 5 t = true ∧ (w.timer t).isSome = true ∧ w.mxAlias = [] ∧ (∃ v ∈ w.waiters, v.key = key) ∧
       w.ctrStatus key ≠ .faulted ∧ ¬ ∃ v ∈ s.waiters, v.key = key) := by
  decide +kernel

theorem witness_ProcessDeletion :
    let s := deletesProc
    let h : Handle := 0x10000101#32
    s.wave.pair = none ∧ s.names1 1 h = true ∧ s.wave.priv = true ∧ s.wave.proc ≠ h ∧ s.wave.await = .nothing ∧
    (∀ v ∈ s.waves, v.hdl ≠ s.wave.hdl ∧ (v.proc = h → hType v.hdl = 2 ∧ v.pair = none)) ∧
    (∀ p ∈ s.ports, p.proc = h → hType p.hdl = 3) ∧ (∀ p ∈ s.sets, p.proc = h → hType p.hdl = 4) ∧
    (∀ p ∈ s.timers, p.proc = h → hType p.hdl = 5) ∧ (∀ c ∈ s.codes, c.proc = h → hType c.hdl = 6) ∧
    (let own : State := { s with wave := { s.wave with proc := h } }
     own.names1 1 h = true ∧ own.wave.priv = true ∧ own.wave.proc = h ∧ hType own.wave.hdl = 2) := by
  decide +kernel

end Sys2Proof.Tests
end

