-- ==== Sys2Proof/Tests/WitnessEvents.lean ====
section
/-! SUPPORT. Witnesses: for each statement on scheduling and on the events of the machine and its surroundings, a state
and what is handed in that meet its hypotheses together. -/

set_option Elab.async false

namespace Sys2Proof.Tests

open Sys2Proof.Machine Sys2Proof.Claims

/-! ### Scheduling -/

/-- A parked wave at issue, and the others. -/
def parkedWave : Wave := { testWave with hdl := 0x20000201#32, team := 9, st := .parked }
def queuedWave : Wave := { otherWave with st := .runnable }
def queue (since head : Nat) : List Queued := [⟨0, 0, queuedWave.hdl, 3, since, some head, false⟩]

theorem witness_Exit :
    let s : State := { granted { testWave with xctr := 0x8000000000000008#64 } with waves := [otherWave] }
    s.wave.hdl ≠ 0#32 ∧ s.wave.pair = none ∧ s.l1 = [] ∧ s.mmas = [] ∧ (∃ v ∈ s.waves, v.team = s.wave.team) ∧
    s.team s.wave.team = some testTeam ∧ testTeam.uid = s.wave.team ∧ s.wave.xctr.toNat / 2 ^ 22 = 0x80 * 2 ^ 34 ∧
    s.wave.xctr.toNat % 8 = 0 ∧ s.poison = [] ∧ s.mxAlias = [] ∧ s.wave.xctr.toNat % 2 ^ 22 + 8 ≤ testTeam.units * 16384 ∧ testWave.xctr = 0#64 := by decide +kernel

theorem witness_Refill :
    let w : Wave := { testWave with refilling := true }
    w.refilling = true ∧ w.await = .nothing ∧ (at_ w).inp.ok = true ∧ (at_ w).poison = [] ∧
    ({ at_ w with inp := { ok := false } } : State).inp.ok = false := by decide +kernel

theorem witness_Placement :
    let o := queuedWave
    let t : Team := { testTeam with units := 0, tags := 0 }
    let s : State := { at_ parkedWave with waves := [o], runq := queue 0 0, teams := [t] }
    s.wave.hdl ≠ 0#32 ∧ s.wave.pair = none ∧ s.runq.map (·.wave) = [o.hdl] ∧ o.hdl ≠ 0#32 ∧ s.findWave o.hdl = some o ∧
    o.halted = false ∧ o.pair = none ∧ s.team o.team = some t ∧ t.saved = false ∧ t.units = 0 ∧ t.tags = 0 ∧
    s.runq.all (!·.spilled) = true ∧ s.gridRoom 0 (coreKey 0 0 0 % 48) t.grid = true ∧
    s.clusterRetired 0 0 = false ∧ o.vblk ≤ 512 ∧ o.ntiles ≤ 8 ∧ o.die = 0 ∧ o.cluster = 0 ∧
    (∀ v ∈ s.allWaves, v.st ≠ .resident ∧ v.st ≠ .waiting ∧ v.st ≠ .created) := by decide +kernel

/-- Four waves fill the partitions of the core of team 7, which a queued wave of the team is held to; the last waits, or
is resident with a lower priority than the queue's. -/
def fullCore (st : WaveState) : List Wave :=
  let w : Wave := { testWave with team := 9, vblk := 512, basePri := 5, curPri := 5 }
  queuedWave :: [0, 1, 2].map (fun i => { w with hdl := BitVec.ofNat 32 (0x20001001 + 256 * i), part := i }) ++
  [{ testWave with hdl := 0x20002001#32, team := 9, vblk := 512, part := 3, st := st }]

theorem witness_EvictionAndPreemption :
    let s : WaveState → State := fun st =>
      { granted parkedWave with waves := fullCore st, runq := queue 0 0, clock := ⟨20000, 20000⟩ }
    ((s .waiting).evictionChoice 0 0).map (·.hdl) = some 0x20002001#32 ∧
    ((s .resident).preemptionChoice 0 0).map (·.hdl) = some 0x20002001#32 ∧
    (((s .waiting).findWave 0x20002001#32).map (·.pair)) = some none ∧
    (((s .resident).findWave 0x20002001#32).map (·.halted)) = some false ∧
    (∀ w ∈ fullCore .resident, (s .resident).teamSaved w = false) := by decide +kernel

theorem witness_Ageing :
    let s : State := { at_ parkedWave with waves := [queuedWave], runq := queue 0 0, clock := ⟨100000, 100000⟩ }
    (∀ q ∈ s.runq, q.spilled = false ∧ q.prio < 7 ∧ q.since + 100000 ≤ s.clock.get q.die ∧ (s.findWave q.wave).isSome = true) := by decide +kernel

theorem witness_TeamPlacement :
    let s : State := { homed parkedWave [] with teams := [] }
    (s.placementChoice 0).map (fun r => (r.1, r.2)) = some (testGrid, 0) ∧ testGrid.next = some (0, 0, 0, 0) ∧
    testGrid.kernel.paired = false ∧ testGrid.kernel.waves = 1 ∧ s.newHandle 2 testGrid.die ≠ none ∧ s.l1 = [] := by
  decide +kernel

/-- A saved team of grid 1, which needs a whole pool, has waited 100 µs; team 7, whose wave 0 is parked with a lower priority, is
to be saved. -/
theorem witness_TeamSave :
    let saved : Team := { testTeam with uid := 8, wave0 := 0#32, saved := true, units := 160 }
    let others := (List.range 7).map fun i => { saved with uid := 20 + i, core := i + 1, saved := false }
    let s : State := { homed { testWave with st := .parked } [] with
      teams := testTeam :: saved :: others, clock := ⟨100000, 100000⟩ }
    s.saveChoice 0 = some testTeam ∧ testTeam.twin = 0 ∧ (∀ v ∈ s.allWaves, v.st ≠ .runnable ∧ (v.team = testTeam.uid → v.st = .parked)) := by
  decide +kernel

theorem witness_TeamReload :
    let m : Team := { testTeam with saved := true }
    let o : Wave := { testWave with st := .parked, due := true }
    let s : State := { homed o [] with teams := [m] }
    (s.reloadChoice 0).map (·.1) = some m ∧ (s.freeUnits 0 0 m.units).isSome = true ∧ (s.freeTags 0 0 m.tags).isSome = true ∧
    s.allWaves.filter (fun v => decide (v.team = m.uid)) = [s.wave] ∧ s.findWave s.wave.hdl = some s.wave ∧
    s.wave.hdl ≠ 0#32 ∧ s.wave.st = .parked ∧ s.wave.halted = false ∧ s.wave.due = true := by decide +kernel

theorem witness_PairComparison :
    let p : Nat → PairSide := fun sig => 
      ⟨false, otherWave.hdl, 9#64, 0, [BitVec.ofNat 64 sig], [], 0, 0, [], true, .block, 0#64, 0, false⟩
    let q : PairSide := ⟨true, testWave.hdl, 9#64, 0, [5#64], [], 0, 0, [], true, .block, 0#64, 0, false⟩
    let s : PairSide → State := fun p =>
      { at_ { testWave with pair := some p } with waves := [{ otherWave with pair := some q }], inp := { h := testWave.hdl } }
    (s (p 5)).inp.h = (s (p 5)).wave.hdl ∧ testWave.hdl ≠ 0#32 ∧ otherWave.hdl ≠ 0#32 ∧ otherWave.hdl ≠ testWave.hdl ∧
    (p 5).partner = otherWave.hdl ∧ (p 5).side1 = false ∧ (p 5).atPoint = true ∧ q.atPoint = true ∧ (p 5).go = false ∧
    q.go = false ∧ (p 5).sig = q.sig ∧ (p 5).sigs = q.sigs ∧ (p 5).point = .block ∧ q.point = .block ∧ (p 5).held = [] ∧
    (s (p 5)).inp.ok = true ∧ (p 4).sigs ≠ q.sigs := by decide +kernel

/-! ### Translation and the kernel -/

theorem witness_AtsAndPri :
    let e : TlbEntry := { testTlb with pte := testTlb.pte ||| 0x100#64 }
    let s : WaveState → Await → State := fun st a =>
      { at_ { testWave with st := st, await := a } with tlb := [e], inp := { h := testWave.hdl, ats := .error } }
    let p := s .parked (.pri 0 2 1)
    let fetching : State := { p with wave := { p.wave with unfKind := .fetch } }
    p.inp.h = testWave.hdl ∧ testWave.hdl ≠ 0#32 ∧ testWave.due = false ∧ testWave.halted = false ∧ p.atc.length < 16384 ∧
    p.tlbHit 0 testWave.proc (65536 * 2) = some e ∧ pteTarget e.pte = 1 ∧ p.wave.st = .parked ∧
    p.teamSaved p.wave = false ∧ (s .waiting (.ats 0 2 true)).wave.st = .waiting ∧ p.inp.ok = true ∧
    p.requestsBefore 0 1 < 512 ∧ p.wave.unfKind ≠ .fetch ∧ fetching.wave.unfKind = .fetch ∧
    ({ p.inp with ats := .granted true false } : Input).ats = .granted true false ∧ ({ p.inp with ok := false } : Input).ok = false := by
  decide +kernel

/-- 512 page requests of the die before the one of the wave. -/
theorem witness_PageRequestLimit :
    let w : Wave := { testWave with st := .parked, await := .pri 0 2 600 }
    let s : State := { at_ w with waves := (List.range 512).map fun i => { otherWave with await := .pri 0 3 i } }
    512 ≤ s.requestsBefore 0 600 := by decide +kernel

theorem witness_Invalidation :
    let s : State := { State.reset with inp := { size := 1, pa := 65536 }, horizons := [⟨1#32, 2, 1, 100, false, some 1⟩] }
    let t : State := { State.reset with invals := [(0, 1, 1, 0)] }
    s.invals = [] ∧ 0 < s.inp.size ∧ t.inp.size = 0 ∧ t.l1 = [] ∧ (∀ i ∈ t.invals, i.2.2.2 ≤ t.clock.get i.1) := by
  decide +kernel

/-- The machine with a port of a role that holds one message of these 64 bytes from the host. -/
def served (role : PortRole) (bs : List Byte) : State :=
  { homed parkedWave [] with
    ports := [{ testPort with role := role, msgs := [⟨0, none, 0#32, 0, [], 0#32, false⟩] }],
    mem := Sparse.putList Memory.unlisted [] testPort.ring bs }

/-- What a role's port gives, where it gives a message. -/
def took (s : State) (r : PortRole) (p : State → List Byte → Landed → Bool) : Bool :=
  match s.takeRole 0 r with
  | some (u, b, m) => p u b m
  | none => false

/-- Downgrade requests: well formed, with a word that must be 0, for no process, and with an empty range. -/
theorem witness_DowngradeRequest :
    let req : Nat → Nat → Nat → List Byte := fun bad proc len =>
      image [(16, 0), (4, proc), (4, bad), (8, 0x40000), (8, len), (8, 0x50000), (8, 1), (8, 0)]
    let leaf := BitVec.ofNat 64 (0x400000 + 0x40 + 0xF)
    let s : List Byte → State := fun l =>
      { served .downgrade l with leaves := [(testProc.hdl, 5, leaf)] }
    let formed : List Byte → Bool := fun b => natAt b 20 4 == 0 && decide (natAt b 48 8 < 2 ^ 63) && natAt b 56 8 == 0
    let range : List Byte → Bool := fun b =>
      natAt b 24 8 % 65536 == 0 && natAt b 32 8 % 65536 == 0 && decide (0 < natAt b 32 8) && decide (natAt b 32 8 ≤ 2 ^ 40)
    let proc : List Byte → Handle := fun b => BitVec.ofNat 32 (natAt b 16 4)
    took (s (req 0 0x10000101 0x10000)) .downgrade (fun u b m => formed b && decide (m.cls < 2) && m.sender == 0#32 &&
      (u.proc (proc b)).isSome && range b && (u.downgradeKey 0 (proc b) (natAt b 40 8)).2.isSome) = true ∧
    took (s (req 1 0x10000101 0x10000)) .downgrade (fun _ b _ => !formed b) = true ∧
    took (s (req 0 0 0x10000)) .downgrade (fun u b _ => formed b && (u.proc (proc b)).isNone) = true ∧
    took (s (req 0 0x10000101 0)) .downgrade (fun u b _ => formed b && (u.proc (proc b)).isSome && !range b) = true ∧
    took ({ s (req 0 0x10000101 0x10000) with leaves := [] }) .downgrade (fun u b _ => formed b && range b &&
      (u.downgradeKey 0 (proc b) (natAt b 40 8)).2.isNone) = true := by decide +kernel

theorem witness_DowngradeCompletion :
    let d : Downgrade := ⟨3, 1#32, 0, 65536, 0x400000, 1#64, 10, 0#64, 0#32, 0#8, 0⟩
    let s : Nat → State := fun now => { at_ testWave with downgrades := [d], clock := ⟨now, now⟩ }
    (s 0).downgrades.find? (fun o => decide (o.uid = d.uid)) = some d ∧ (s 11).clock.get d.die < d.horizon + 2 ∧
    d.horizon + 2 ≤ (s 12).clock.get d.die ∧ (s 12).l1 = [] ∧ (s 12).ports = [] ∧ (s 12).poison = [] ∧ (s 12).mxAlias = [] ∧ d.reply = 0#64 := by
  decide +kernel

/-- A write to the frame 0x30000 of the sealed version, of a process with a free frame. -/
theorem witness_CodeCopyOnWrite :
    let pr : Proc := { testProc with frames := [0x500000] }
    let leaf := BitVec.ofNat 64 (0x30000 + 0xF)
    let s : State := { homed testWave [] with
      procs := [pr], leaves := [(testProc.hdl, 1, leaf)], inp := { h := testProc.hdl, pa := 0x10000 } }
    (match s.walk s.inp.h s.inp.pa with
      | .ok (lvl, addr, p) => lvl == 3 && addr == 0 && pteW p && pteTarget p == 0 && pteFrame p == 0x30000
      | .error _ => false) = true ∧
    s.holdsCode 0x30000 65536 = true ∧ s.proc s.inp.h = some pr ∧ pr.frames = [0x500000] ∧ testCode.sealed = true ∧
    (s.newHandle 6 (hDie testCode.hdl)).isSome = true ∧
    s.versionWritten s.inp.h s.inp.pa 0x30000 = some testCode ∧ s.proc testCode.proc = some pr ∧
    (s.codes.filter (·.proc = testCode.proc)).length < pr.quota.getD 4 0 ∧ ({ pr with quota := [] } : Proc).quota.getD 4 0 = 0 ∧ (∃ v ∈ s.allWaves, v.codever = testCode.hdl) ∧
    0x30000 + 65536 ≤ 0x500000 := by decide +kernel

/-- An object whose note has its classes, its stepping and its kernel, which is symbol 0; the one relocation writes the
kernel's address into the second 8 bytes. -/
def testObject : CodeObject :=
  ⟨true, true, true, 0x1A9C, 1, [(1, List.replicate 256 0#8), (2, List.replicate 4 0#8),
      (3, image [(4, 0), (1, 1), (1, 0), (1, 0), (1, 0), (1, 1), (1, 4), (1, 1), (1, 3), (4, 16384), (2, 64), (14, 0)])],
    [⟨1, .global, true, some 0, 8⟩], [⟨8, 1, 0, 0⟩], 0x10000#64, List.replicate 16 0#8, false⟩

theorem witness_CodeObjectLoad :
    let pr : Proc := { testProc with frames := [0x500000] }
    let s : Bool → State := fun ok =>
      { homed testWave [] with procs := [pr], codes := [], inp := { h := testProc.hdl, ok := ok, obj := some testObject } }
    let bad : CodeObject := { testObject with relocs := [⟨8, 1, 1, 0⟩] }
    (s true).inp.obj = some testObject ∧ (s true).proc (s true).inp.h = some pr ∧ ((s true).newHandle 6 0).isSome = true ∧
    (match (s true).relocated testProc.hdl testObject with
      | some img => (s true).objectOk testProc.hdl testObject img && decide ((img.length + 65535) / 65536 ≤ pr.frames.length)
      | none => false) = true ∧
    testObject.base.toNat % 65536 = 0 ∧ (s true).mayCreate testProc.hdl 6 0 1 0 = true ∧ (s false).inp.ok = false ∧
    (s true).relocated testProc.hdl bad = none := by decide +kernel

theorem witness_RootPortLaunch :
    let req : Nat → Nat → List Byte := fun bad proc => image [(16, 0), (4, proc), (4, bad), (8, 0x20000), (32, 0)]
    let formed : List Byte → Bool := fun b =>
      natAt b 20 4 == 0 && natAt b 32 16 == 0 && (natAt b 13 1 / 32 % 2 == 1 || natAt b 48 16 == 0)
    took (served .root (req 0 0x10000101)) .root (fun u b m => formed b && (u.proc 0x10000101#32).isSome && decide (m.cls < 2) &&
      m.sender == 0#32) = true ∧
    took (served .root (req 1 0x10000101)) .root (fun _ b _ => !formed b) = true ∧
    took (served .root (req 0 0)) .root (fun u b _ => formed b && (u.proc 0#32).isNone) = true := by decide +kernel

/-- A reply to the trapped wave at issue: to go on, to be killed, with an action of 2, with an odd PC; and one to a wave
that awaits none. -/
theorem witness_FaultReply :
    let reply : Nat → Nat → Nat → List Byte := fun h act npc => image [(16, 0), (4, h), (1, act), (3, 0), (8, npc), (32, 0)]
    let s : List Byte → State := fun l =>
      let t := served .service l
      { t with wave := { t.wave with await := .trapReply 0x10004#64 } }
    let awaits : State → List Byte → Bool := fun u b => ((u.replied b).map (·.awaitsReply)) == some true
    let h := 0x20000201
    took (s (reply h 0 0)) .service (fun u b _ => awaits u b && natAt b 21 3 == 0 && natAt b 24 8 == 0 && natAt b 20 1 == 0 &&
      ((u.replied b).map (·.halted)) == some false && !u.teamSaved u.wave) = true ∧
    ((s (reply h 0 0)).replied (reply h 0 0)).any (·.inService) = false ∧
    took (s (reply h 1 0)) .service (fun u b _ => awaits u b && natAt b 20 1 == 1) = true ∧
    took (s (reply h 2 0)) .service (fun u b _ => awaits u b && natAt b 20 1 == 2) = true ∧
    took (s (reply h 0 2)) .service (fun u b _ => awaits u b && natAt b 24 8 % 4 != 0) = true ∧
    took (s (reply 0 0 0)) .service (fun u b _ => (u.replied b).isNone) = true := by decide +kernel

/-- A reply to a wave in SVC: with results, without, malformed, to kill, with an action of 2, and with results that cannot be
read. -/
theorem witness_SvcReply :
    let reply : Nat → Nat → Nat → List Byte := fun act bad res =>
      image [(16, 0), (4, 0x20000201), (1, act), (1, 0), (2, bad), (8, res), (32, 0)]
    let s : List Byte → State := fun l =>
      let t := served .service l
      { t with wave := { t.wave with await := .svcReply 28#8 0x80000001#32 } }
    let inSvc : State → List Byte → Bool := fun u b => ((u.replied b).map (·.inService)) == some true
    let formed : List Byte → Bool := fun b => natAt b 21 1 < 2 && natAt b 22 2 == 0 && natAt b 32 32 == 0
    let read : State → List Byte → Bool := fun u b =>
      match u.replied b with
      | some v =>
        (match (u.readImage v.die v.proc v.priv (natAt b 24 8) (16 * 2)).2 with
          | .ok l => decide (l.length = 32)
          | .error _ => false) && (u.findWave v.hdl == some v) && !v.halted && !u.teamSaved v
      | none => false
    (s (reply 0 0 0x20000)).peekRole 0 .service = some (reply 0 0 0x20000) ∧
    took (s (reply 0 0 0x20000)) .service (fun u b _ => inSvc u b && formed b && natAt b 20 1 == 0 && read u b) = true ∧
    took (s (reply 0 0 0)) .service (fun u b _ => inSvc u b && formed b && natAt b 24 8 == 0) = true ∧
    took (s (reply 0 1 0)) .service (fun u b _ => inSvc u b && !formed b) = true ∧
    took (s (reply 1 0 0)) .service (fun u b _ => inSvc u b && formed b && natAt b 20 1 == 1) = true ∧
    took (s (reply 2 0 0)) .service (fun u b _ => inSvc u b && formed b && natAt b 20 1 == 2) = true ∧
    took (s (reply 0 0 0x90000)) .service (fun u b _ => inSvc u b && formed b && !read u b) = true := by decide +kernel

/-- Port names of other packages, and of a port that is gone; and retries that name no reply. -/
theorem witness_ReplyNames :
    let far := BitVec.ofNat 64 (1 * 2 ^ 28 + testPort.hdl.toNat % 2 ^ 28)
    far.toNat / 2 ^ 28 % 128 ≠ (at_ testWave).pkg ∧ (∀ f ∈ (at_ testWave).farPorts, f.1 ≠ far) ∧
    (0#64).toNat / 2 ^ 28 % 128 = (at_ testWave).pkg ∧ (at_ testWave).portOfName 0#64 = none ∧
    (∀ q ∈ (at_ testWave).pendReplies, q.uid ≠ 1) := by decide +kernel

theorem witness_PendingMessages :
    let q : Pending := ⟨0, testPort.hdl, 1#64, [List.replicate 64 0#8], testWave.hdl, 0⟩
    let full : Port := { testPort with held := 16 }
    let s : Port → State := fun p =>
      { at_ { testWave with st := .parked, await := .trapReply 0#64 } with
        pendFaults := [q], pendSvc := [q], pendReplies := [q], ports := [p], inp := { h := testPort.hdl } }
    let k : PendBreak := ⟨testProc.hdl, 0x400000, 1, .abandoned⟩
    (s testPort).pendFaults = [q] ∧ q.port = (s testPort).inp.h ∧ (s testPort).port q.port = some testPort ∧
    (testPort.broken = false ∧ testPort.msgs.length + testPort.held + q.slots.length ≤ 2 ^ testPort.dlog) ∧
    ¬ (full.broken = false ∧ full.msgs.length + full.held + q.slots.length ≤ 2 ^ full.dlog) ∧
    ({ s testPort with ports := [] } : State).port q.port = none ∧ State.reset.mxAlias = [] ∧ q.wave = testWave.hdl ∧ (s testPort).wave.awaitsReply = true ∧
    (s testPort).portOfName q.name = some testPort ∧
    ({ State.reset with pendBreaks := [k], route := [(1, 1)] } : State).pathUp 0 k.pkg = true ∧
    State.reset.ctrStatus k.key = .ok ∧ State.reset.pathUp 0 k.pkg = false ∧ State.reset.pathUp 1 k.pkg = false := by
  decide +kernel

/-! ### Storage and completions -/

theorem witness_StorageEvents :
    let a := 0x100000
    let s : Nat → State := fun n => { State.reset with acts := [(rowKey a, n)], inp := { pa := a, size := 1 } }
    let c : Scrub := ⟨a / 32, List.replicate 32 1#8⟩
    isDram a = true ∧ Sparse.get 0 (s 1022).acts (rowKey a) + 1 < 1024 ∧ 1024 ≤ Sparse.get 0 (s 1023).acts (rowKey a) + 1 ∧
    Sparse.get 0 State.reset.backoff (bankKey a) ≤ State.reset.clock.get 0 ∧
    ({ State.reset with backoff := [(bankKey a, 1)] } : State).clock.get 0 <
      Sparse.get 0 ({ State.reset with backoff := [(bankKey a, 1)] } : State).backoff (bankKey a) ∧
    ({ State.reset with scrubs := [c] } : State).scrubs.find? (fun e => decide (e.sector = a / 32)) = some c ∧
    c.bytes.length = 32 ∧ (∀ e ∈ State.reset.scrubs, e.sector ≠ a / 32) ∧ Sparse.get false State.reset.poison (a / 32) = false ∧
    ({ found := .correctable } : Input).found = .correctable ∧ ({ found := .uncorrectable } : Input).found = .uncorrectable ∧
    State.reset.inp.ok = true ∧ State.reset.inp.found ≠ .correctable ∧ State.reset.upset = none ∧ State.reset.mxAlias = [] ∧
    State.reset.l1 = [] ∧ AtomOp.add ≠ .fadd ∧ ({ ok := false } : Input).ok = false := by
  decide +kernel

theorem witness_WaitSetEvaluation :
    let m : SetMember := ⟨0x400000, 0#64, 0#32⟩
    let t : WaitSet := ⟨0x40000001#32, 0x10000101#32, [(7, m)], testWave.hdl, [(7, m)], []⟩
    let s : State := { at_ { testWave with st := .waiting, await := .waitSet 0x40000001#32 5#8 false } with sets := [t] }
    s.wave.hdl ≠ 0#32 ∧ s.set t.hdl = some t ∧ t.waiter = s.wave.hdl ∧ s.wave.due = false ∧ s.wave.halted = false ∧
    s.wave.pair = none ∧ s.waiters = [] ∧ t.gone = [] ∧ t.reg = [(7, m)] ∧ s.poison = [] ∧ s.engRecords = [] ∧
    s.ctrStatus m.key = .ok ∧ ((s.ctrValue m.key).toNat + 2 ^ 64 - m.thr.toNat) % 2 ^ 64 < 2 ^ 63 := by decide +kernel

/-- Journal record 1 of die 0, a grant within the package and one to another package. -/
theorem witness_JournalAndGrants :
    let k := 0x8000000000 * 0 + 0x5568000000 + 0x14000000 + 64 * ((1 - 1) % 16384)
    let s : State := { at_ testWave with mem := [(k, 1#8)] }
    let g : Grant := ⟨0x20000#64, testProc.hdl, testTlb.pte, 10, 0#64, false⟩
    let f : Nat → Flight := fun pkg => ⟨4, testPort.hdl, pkg, List.replicate 64 0#8, 0, 0, 1#32, 0, testProc.hdl, false, 0#32, [g]⟩
    let at' : Nat → Nat → State := fun pkg now =>
      { at_ testWave with flights := [f pkg], ports := [{ testPort with gslots := 1 }], clock := ⟨now, now⟩ }
    s.rawNat k 8 = 1 ∧ (s.rawByte (k + 56)).toNat < 2 ∧ (∀ e ∈ s.waiters, e.party ≠ .journal 0 1) ∧
    (at' 0 12).flights = [f 0] ∧ g.done = false ∧ g.horizon + 2 ≤ (at' 0 12).clock.get 0 ∧ (at' 0 12).l1 = [] ∧
    (f 0).pkg = (at' 0 12).pkg ∧ (at' 0 12).port testPort.hdl = some { testPort with gslots := 1 } ∧
    testPort.slotsUsed = [] ∧ 0 < 1 ∧ (f 1).pkg ≠ (at' 1 12).pkg ∧ (at' 1 11).clock.get 0 < g.horizon + 2 := by decide +kernel

end Sys2Proof.Tests
end

