-- ==== Sys2Proof/Tests/WitnessHost.lean ====
section
/-! SUPPORT. Witnesses: for each statement on the host, the domain, the media engines, the package's management, decoding
and the step, a state and what is handed in that meet its hypotheses together. -/

set_option Elab.async false

namespace Sys2Proof.Tests

open Sys2Proof.Machine Sys2Proof.Claims

/-- Window 0 of die 0, enabled, over the one page at 0x400000. -/
def testWindow : BitVec 128 := BitVec.ofNat 128 (2 ^ 127 + 0x40 * 2 ^ 64 + 0x40)

/-- The machine after reset with a base in each BAR of die 0. -/
def barred : State := { State.reset with bars := [(0, 1#64), (1, 1#64), (2, 1#64)] }

/-- Reads of the command window up to its end and past it, of the MSI-X table and its pending bits at their ends, and of the
aperture; without a base, or with the link down, no BAR is open. -/
theorem witness_HostReads :
    let open' : State → Nat → Prop := fun s n => s.hostDown.get 0 = false ∧ Sparse.get 0#64 s.bars n ≠ 0#64
    (open' barred 0 ∧ open' barred 1 ∧ open' barred 2) ∧ ¬ open' State.reset 0 ∧ ¬ open' State.reset 1 ∧ ¬ open' State.reset 2 ∧
    ¬ open' { barred with hostDown := ⟨true, true⟩ } 1 ∧
    (let i : Input := { via := .window, pa := 0x3FFFFF8, size := 8 }
     i.via = .window ∧ i.pa + i.size ≤ 0x4000000 ∧ 0x4000000 < i.pa + 9 ∧ barred.mxAlias = []) ∧
    (let i : Input := { via := .registers, pa := 0xF07FF8, size := 8 }
     i.via = .registers ∧ 0xF00000 ≤ i.pa ∧ i.pa + i.size ≤ 0xF08000 ∧ 0xF80000 ≤ 0xF80000 ∧ 0xF800F8 + 8 ≤ 0xF80100) ∧
    (let i : Input := { via := .aperture, pa := 0x400000, size := 8 }
     i.via = .aperture ∧ i.size = 8 ∧ isDram i.pa = true ∧ i.pa % 8 = 0 ∧ barred.poison = [] ∧ ({ i with size := 4 } : Input).size ≠ 8) := by
  decide +kernel

/-- A function reset with no host waiter, and with one that is armed. -/
theorem witness_FunctionReset :
    let s : State := { barred with hostw := [(5, 1#256)], inp := { n := 5 } }
    barred.hostw = [] ∧ (Sparse.get 0#256 s.hostw (s.inp.die * 4096 + s.inp.n % 4096)).getLsbD 0 = true ∧
    s.hostw = [(s.inp.die * 4096 + s.inp.n % 4096, Sparse.get 0#256 s.hostw (s.inp.die * 4096 + s.inp.n % 4096))] := by
  decide +kernel

/-- An aperture add of 1 at a counter of the window; one of 4 bytes; one outside it. -/
theorem witness_ApertureAdd :
    let s : Nat → Nat → State := fun a z =>
      { barred with window := [(0, testWindow)], inp := { pa := a, size := z, val := 1#256 } }
    let performed : State → Prop := fun s => s.inp.size = 8 ∧ s.inp.pa % 8 = 0 ∧ (s.inp.val.setWidth 64 : DWord).toNat < 2 ^ 63 ∧
      isDram s.inp.pa = true ∧ s.windowed (s.inp.pa / 2 ^ 39 % 2) s.inp.pa = true
    (s 0 0).hostDown.get 0 = false ∧ Sparse.get 0#64 (s 0 0).bars 1 ≠ 0#64 ∧ performed (s 0x400000 8) ∧ performed (s 0x40FFF8 8) ∧ ¬ performed (s 0x400000 4) ∧
    ¬ performed (s 0x410000 8) ∧ ¬ performed (s 0x400004 8) ∧ (s 0 0).poison = [] ∧ (s 0 0).mxAlias = [] ∧ (s 0 0).ports = [] ∧
    ({ State.reset with hostDown := ⟨true, true⟩ } : State).hostDown.get 0 = true := by decide +kernel

/-- An alias entry that may be enabled: e4m3 elements, scales and shadow apart in die 0. -/
def testAlias : BitVec 256 := BitVec.ofNat 256
  (2 ^ 255 + 0x1000000 * 2 ^ 128 + 0x2000000 * 2 ^ 64 + (0x3000000 / 65536) * 2 ^ 16 + 1)

theorem witness_WindowsAndAliases :
    let stored : BitVec 256 := testAlias &&& BitVec.ofNat 256 aliasMask
    (0#128).getLsbD 127 = false ∧ testWindow.getLsbD 127 = true ∧ State.reset.hostw = [] ∧ State.reset.waiters = [] ∧
    testAlias.getLsbD 255 = true ∧ (0#256).getLsbD 255 = false ∧ State.reset.aliasOk 0 0 stored = true ∧
    State.reset.aliasOk 0 0 (stored ||| BitVec.ofNat 256 (5 * 2 ^ 252)) = false := by decide +kernel

/-- A host waiter at a counter of the window, report at 0, threshold 0 (which fires) and 1 (which does not); one whose
counter is not aligned. -/
theorem witness_HostWaiters :
    let e : Nat → Nat → BitVec 256 := fun ctr thr => BitVec.ofNat 256 (1 + ctr * 2 ^ 76 + thr * 2 ^ 192)
    let s : State := { State.reset with window := [(0, testWindow)] }
    let asked : BitVec 256 → BitVec 256 := fun v => v &&& BitVec.ofNat 256 hostMask
    let fits : BitVec 256 → Prop := fun a => s.windowed 0 (hwCtr a) = true ∧ hwCtr a % 8 = 0 ∧ hwReport a % 16 = 0
    let fires : BitVec 256 → Prop := fun a =>
      ((s.ctrRead (hwCtr a)).1.toNat + 2 ^ 64 - (hwThresh a).toNat) % 2 ^ 64 < 2 ^ 63
    fits (asked (e 0x400000 0)) ∧ fires (asked (e 0x400000 0)) ∧ ¬ fires (asked (e 0x400000 1)) ∧
    ¬ fits (asked (e 0x400004 0)) ∧ (e 0 0).getLsbD 0 = true ∧ (0#256).getLsbD 0 = false ∧
    (∀ w ∈ s.waiters, w.party ≠ .host 0 0) := by decide +kernel

theorem witness_HostMemory :
    let s : State := { State.reset with window := [(0, testWindow)] }
    inHdm 0 0x200000 4 = true ∧ (∀ i < 4, s.windowed 0 (0x200000 + i) = false) ∧ inHdm 0 0x400000 4 = true ∧
    (∀ i < 4, s.windowed 0 (0x400000 + i) = true) ∧ s.mxAlias = [] ∧ s.poison = [] ∧ 0x40000 ≤ 0x40000 ∧
    0x3FFFFFC + 4 ≤ 0x4000000 := by decide +kernel

theorem witness_DomainEvents :
    let a := 0x200000
    let s : State := { State.reset with exports := [a / 65536] }
    let exported : Nat → Prop := fun n => isDram a = true ∧ a / 65536 ∈ s.exports ∧ a % 65536 + n ≤ 65536
    let e : Waiter := ⟨peerKey 1 0x400000, 1#64, .wave 1#32⟩
    let f : Flight := ⟨4, 1#32, 1, [], 3, 0, 1#32, 0, 1#32, false, 0#32, []⟩
    let t : Nat → State := fun now =>
      { State.reset with flights := [f], ethDown := (List.range 3).map fun p => ⟨0, p, 1, 0⟩, clock := ⟨now, now⟩, inp := { n := 4 } }
    exported 65536 ∧ ¬ exported 65537 ∧ a % 8 = 0 ∧ State.reset.engs = [] ∧ State.reset.waiters = [] ∧
    State.reset.sets = [] ∧ State.reset.mxAlias = [] ∧ State.reset.pendBreaks = [] ∧ isDram (65536 * 5) = true ∧ 5 ∉ s.exports ∧ (0, 0) ∉ State.reset.linksDown ∧
    (0, 0) ∈ ({ State.reset with linksDown := [(0, 0)] } : State).linksDown ∧
    ({ State.reset with waiters := [e] } : State).waiters = [e] ∧ isPeerKey e.key = true ∧
    ({ State.reset with linksDown := [(0, 0)] } : State).pathUp e.party.die (peerOfKey e.key) = false ∧
    f.uid = (t 0).inp.n ∧ f.pkg ≠ (t 0).pkg ∧ f.cls = 3 ∧ f.senderDie < 2 := by decide +kernel

/-- Every port of die 0 has lost its path to package 1: for 59,999 ns and for 60,000; one has not. -/
theorem witness_EthernetPaths :
    let all : List EthLoss := (List.range 3).map fun p => ⟨0, p, 1, 0⟩
    let s : Nat → State := fun now => { State.reset with ethDown := all, clock := ⟨now, now⟩ }
    let late : State → Prop := fun s => ∀ x ∈ s.ethDown, x.since + 60000 ≤ s.clock.get 0
    let lost : State → Prop := fun s => ∀ p < 3, ∃ x ∈ s.ethDown, x.die = 0 ∧ x.pkg = 1 ∧ x.port = p
    lost (s 60000) ∧ late (s 60000) ∧ lost (s 59999) ∧ ¬ late (s 59999) ∧ ¬ lost { s 60000 with ethDown := all.tail } ∧
    (∃ x ∈ (s 0).ethDown, x.die = 0 ∧ x.port = 5 % 3 ∧ x.pkg = 1) ∧
    (∀ x ∈ ({ s 0 with ethDown := all.tail } : State).ethDown, ¬ (x.die = 0 ∧ x.port = 0 ∧ x.pkg = 1)) := by decide +kernel

/-! ### Media -/

/-- A message to engine 0: operation, process, descriptor at 0x20000, a counter reference and delta 1. -/
def mediaMessage (op bad proc desc : Nat) : List Byte :=
  image [(16, 0), (1, op), (3, bad), (4, proc), (8, desc), (8, (refMake 0 0 0x20000001#32 16).toNat), (8, 1), (16, 0)]

/-- A picture of 64 × 64 in 4:2:0, 8 bits, with pitch 128; the same with a reserved byte, and of no rows. -/
def mediaDescriptor (rsvd height : Nat) : List Byte :=
  image [(1, 0), (1, 0), (1, 8), (1, 1), (1, 0), (1, 0), (2, rsvd), (4, 64), (4, height), (8, 0x20000), (8, 0), (8, 0x20000),
    (4, 128), (84, 0)]

def mediaState (msg desc : List Byte) : State :=
  { served (.media 0) msg with
    mem := Sparse.putList Memory.unlisted (Sparse.putList Memory.unlisted [] testPort.ring msg) 0x200000 desc }

theorem witness_MediaJobs :
    let sound : List Byte → Bool := fun b => natAt b 17 3 == 0 && natAt b 48 16 == 0 && decide (natAt b 40 8 < 2 ^ 63) &&
      mediaCtrOk (BitVec.ofNat 64 (natAt b 32 8))
    let names : State → List Byte → Landed → Bool := fun u b m =>
      (u.proc (mediaJob 0 b m).proc).isSome && decide (m.cls < 2) && m.sender == 0#32
    let full : State → List Byte → Landed → (MediaJob → Bool) → Bool := fun u b m p =>
      match (u.readImage 0 (mediaJob 0 b m).proc false (natAt b 24 8) 128).2 with
      | .ok l => p { mediaJob 0 b m with image := l }
      | .error _ => false
    let unread : State → List Byte → Landed → Bool := fun u b m => !full u b m fun _ => true
    let at' : List Byte → List Byte → (State → List Byte → Landed → Bool) → Bool := fun b d p =>
      took (mediaState b d) (.media 0) p
    at' (mediaMessage 0 0 0x10000101 0x20000) (mediaDescriptor 0 64) (fun u b m => names u b m && sound b &&
      full u b m fun j => !j.malformed && !j.unsupported && j.refs == 0) = true ∧
    at' (mediaMessage 0 0 0x10000101 0x20000) (mediaDescriptor 1 64) (fun u b m => names u b m && sound b &&
      full u b m (·.malformed)) = true ∧
    at' (mediaMessage 0 0 0x10000101 0x20000) (mediaDescriptor 0 0) (fun u b m => names u b m && sound b &&
      full u b m fun j => !j.malformed && j.unsupported) = true ∧
    at' (mediaMessage 0 1 0x10000101 0x20000) [] (fun u b m => names u b m && !sound b && full u b m fun _ => true) = true ∧
    at' (mediaMessage 0 1 0x10000101 0x50000) [] (fun u b m => names u b m && !sound b && unread u b m) = true ∧
    at' (mediaMessage 0 0 0x10000101 0x50000) [] (fun u b m => names u b m && sound b && unread u b m) = true ∧
    at' (mediaMessage 0 0 0 0x20000) [] (fun u b m => !names u b m) = true ∧
    (mediaState (mediaMessage 0 0 0 0) []).mediaHead 0 = some 0 ∧ (mediaState (mediaMessage 1 0 0 0) []).mediaHead 0 = some 1 ∧
    (mediaState (mediaMessage 2 0 0 0) []).mediaHead 0 = some 2 ∧ State.reset.mediaHead 0 = none := by decide +kernel

/-- Streams: an empty one can be read, and one of 64 bytes at 0x90000 cannot. -/
theorem witness_MediaStreams :
    let desc : Nat → Nat → List Byte := fun bs n =>
      image [(1, 0), (1, 0), (1, 8), (1, 1), (1, 2), (1, 0), (2, 0), (4, 16), (4, 1), (8, bs), (8, n), (8, 0x20000), (4, 128),
        (84, 0)]
    let reads : Nat → Nat → Option (List Byte) := fun bs n =>
      match ((mediaState [] (desc bs n)).readImage 0 testProc.hdl false bs n).2 with
      | .ok l => some l
      | .error _ => none
    reads 0x20000 0 = some [] ∧ reads 0x90000 64 = none ∧
    (let j : MediaJob := ⟨0, 1, 0#32, testProc.hdl, 0#64, 0#64, 0#64, desc 0 0, [], 0, 0, 0, none⟩
     j.conform = true ∧ ({ j with image := (desc 0 0).set 4 0#8 } : MediaJob).conform = false) := by decide +kernel

/-- A running job of engine 0 of a picture of 16 × 1 whose counter is cell 16 of team 7. -/
def mediaRunning (op hook refs made : Nat) : MediaJob :=
  ⟨0, op, 0#32, 0x10000101#32, 0x20000#64, refMake 0 0 0x20000001#32 16, 1#64,
    image [(1, 0), (1, 0), (1, 8), (1, 1), (1, hook), (1, 0), (2, 0), (4, 16), (4, 1), (8, 0x20000), (8, 0), (8, 0x20000),
      (4, 128), (4, 0), (8, refs), (8, 0), (64, 0)], [], 0, made, 0, none⟩

/-- Whatever the size of its superblocks, the picture has one row of them. -/
theorem mediaRunning_total (op hook refs made : Nat) : (mediaRunning op hook refs made).total = 1 := by
  have h : (mediaRunning op hook refs made).height = 1 := by
    unfold MediaJob.height MediaJob.num mediaRunning image
    simp only [List.flatMap_cons, bytesOfNat, natAt]
    rfl
  unfold MediaJob.total
  rw [h]
  unfold MediaJob.lines
  dsimp only
  repeat' split
  all_goals rfl

theorem witness_MediaProgress :
    let s : MediaJob → State := fun j =>
      { homed testWave (List.replicate 8 0#8 ++ bytesOfNat 8 0x50000 ++ bytesOfNat 8 0 ++ List.replicate 8 0#8) with
        media := [j], leaves := [(testProc.hdl, 5, BitVec.ofNat 64 (0x400000 + 0x40 + 0xF))], inp := { n := 0, m := 6 } }
    let j := mediaRunning 0 0 0 0
    let r := (s (mediaRunning 0 0 0x20000 0)).refWait (mediaRunning 0 0 0x20000 0) 0 0
    j.image.length = 128 ∧ ({ j with image := [] } : MediaJob).image = [] ∧ j.ctr.toNat / 2 ^ 60 = 9 ∧
    ((s j).refKey j.proc j.ctr).isSome = true ∧ (s j).poison = [] ∧ j.hook = false ∧ (mediaRunning 0 1 0 0).hook = true ∧
    (s j).media.find? (fun k => decide (k.e = 0)) = some j ∧ j.waiting = none ∧ j.refs = 0 ∧ j.conform = false ∧ j.num 80 8 = 0 ∧
    ({ j with waiting := some 8 } : MediaJob).waiting = some 8 ∧ (mediaRunning 1 0 0 1).op = 1 ∧ (s j).inp.m = 6 ∧
    (s j).waiters = [] ∧ j.num 24 8 = 0 ∧ ((s j).mediaWrite j (j.num 16 8) []).2 = none ∧
    (match r.2 with
      | .ok (some (key, thr)) => thr == 1#64 && decide (r.1.ctrStatus key = .ok) && r.1.ctrValue key == 0#64
      | _ => false) = true := by decide +kernel

/-- A row of such a job is written, or refused: at its first byte it is written. -/
theorem witness_MediaRow :
    let j := mediaRunning 0 0 0 0
    let s : State := { homed testWave [] with media := [j] }
    j.made < j.total ∧ (mediaRunning 0 0 0 1).total ≤ (mediaRunning 0 0 0 1).made ∧
    (s.mediaWrite j (j.num 32 8 + 0) [Config.codecSample j.image j.stream j.choice [] 0 0]).2 = none ∧
    ∃ z r, s.mediaFill j (j.num 32 8) (Config.codecSample j.image j.stream j.choice [] j.made) (j.written j.made) = (z, r) := by
  refine ⟨?_, ?_, ?_, _, _, rfl⟩
  · rw [mediaRunning_total]; decide
  · rw [mediaRunning_total]; decide
  · decide +kernel

/-! ### Management -/

theorem witness_ManagementEvents :
    let base := 0x5568000000 + 0x14200000
    let cell : Nat → Nat := fun i => base + 8 * i
    let s := State.reset
    let on : State := { s with mem := Sparse.putList Memory.unlisted (Sparse.putList Memory.unlisted [] (cell 0) [1#8]) (cell 1) [1#8] }
    let img : FwImage := ⟨false, true, s.fuseRsa, true, s.fuseSlh, true, 3, false, [0x20000]⟩
    (18 < 19 ∧ ¬ s.ctrValue (cell 18) = 1#64 ∧ s.ctrStatus (cell 18) = .ok) ∧ on.ctrValue (cell 0) = 1#64 ∧
    on.ctrValue (cell 1) = 1#64 ∧ s.poison = [] ∧ (s.newHandle 1 0).isSome = true ∧ s.inp.ok = true ∧ s.inp.bytes = [] ∧
    (5 < 6 ∧ (Sparse.get 0#64 s.mwin (0x200 + 8 * 5)).getLsbD 24 = false) ∧
    ((Sparse.get 0#64 ({ s with mwin := [(0x228, 0x1000000#64)] } : State).mwin 0x228).getLsbD 24 = true) ∧
    ((Sparse.get 0#64 s.mwin 0x200).toNat / 2 ^ 16 % 2 ^ 8 < 10) ∧
    (10 ≤ (Sparse.get 0#64 ({ s with mwin := [(0x200, 0xA0000#64)] } : State).mwin 0x200).toNat / 2 ^ 16 % 2 ^ 8) ∧
    s.teams = [] ∧ (∀ w ∈ s.allWaves, w.die ≠ 1 ∨ w.cluster ≠ 0) ∧ s.ctrStatus (cell 2) = .ok ∧ s.inp.m ≠ 1 ∧
    (∀ i < 19, s.ctrStatus (cell i) = .ok) ∧ s.inp.pa ∉ s.testKernels ∧
    0x20000 ∈ ({ s with testKernels := [0x20000] } : State).testKernels ∧
    (img.digestOk = true ∧ img.rsaOk = true ∧ img.rsaKey = s.fuseRsa ∧ img.slhOk = true ∧ img.slhKey = s.fuseSlh ∧
      s.fwMin ≤ img.version) ∧
    ¬ (({ img with slhOk := false } : FwImage).slhOk = true) ∧ ¬ (({ img with rsaKey := s.fuseRsa + 1#384 } : FwImage).rsaKey = s.fuseRsa) ∧ (1200 ≤ 1200 ∧ 2400 ≤ 2400 ∧ 1199 < 1200 ∧ 2400 < 2401) ∧
    (({ s with tripped := true } : State).tripped = true ∧ ({ s with tripped := true } : State).resets = false) ∧
    s.fwStaged = none ∧ s.testStaged = none ∧ ({ img with tests := true, activate := true } : FwImage).tests = true := by decide +kernel

/-! ### Decoding and the step -/

theorem witness_EncodingRoundTrip :
    (Instr.sadd 6#8 4#8 4#8).wf = true ∧ encodePair (.sadd 6#8 4#8 4#8) = some (0x10060404#32, 0#32) ∧
    assigned (opOf 0x10060404#32) = true ∧ isLong (opOf 0x10060404#32) = false ∧
    decode 0x10060404#32 0#32 = .ok (.sadd 6#8 4#8 4#8) := ⟨rfl, rfl, rfl, rfl, rfl⟩

/-- SADD s6, s4, s4, BCC, reserved words and an unassigned opcode, where the step fetches its next instruction. -/
theorem witness_StepRunsDecoded :
    let s : Nat → Nat → State := fun n w => State.reset.withFetchWord n w
    let start : State → State := fun s => { s with agenda := s.agenda.tail, clock := advanceClock s.clock Config.tick Config.tick }
    let now : State → State := fun s => (start s).turnTo probeHandle
    let runs : Nat → (Word → Bool) → Bool := fun n p =>
      let t := now (s 64 n)
      match t.fetchKey t.wave.pc.toNat with
      | (u, .ok key) =>
        let w : Word := BitVec.ofNat 32 (u.rawNat key 4)
        !t.held t.wave && !u.poisoned key && p w && (!assigned (opOf w) || u.allowed t.wave.pc.toNat key (opOf w))
      | _ => false
    (s 32 0x10060404).tripped = false ∧ (s 32 0x10060404).agenda = [.issue probeHandle] ∧
    (now (s 32 0x10060404)).wave.hdl = probeHandle ∧ (now (s 32 0x10060404)).wave.ready = true ∧
    (now (s 32 0x10060404)).wave.interruptDue = false ∧
    runs 0x10060404 (fun w => w == 0x10060404#32 && !isLong (opOf w)) = true ∧
    runs 0x0000000302020000 (fun w => w == 0x02020000#32 && isLong (opOf w)) = true ∧
    runs 0x700504FF (fun w => w == 0x700504FF#32) = true ∧
    runs 0xFFFFFFFF (fun w => w == 0xFFFFFFFF#32 && !assigned (opOf w)) = true ∧
    (match (now (s 64 0x0000000302020000)).fetchKey ((now (s 64 0)).wave.pc + 4#64).toNat with
      | (u, .ok key) => u.rawNat key 4 == 3
      | _ => false) = true := by decide +kernel

theorem witness_ClocksKept :
    let s := State.reset.withFetchWord 32 0x10060404
    ClocksAgree s ∧ MemoryCanonical s ∧ (seen (step s) fun t => t.clock) = some ⟨1, 1⟩ := by
  refine ⟨?_, ?_, ?_⟩
  · unfold ClocksAgree; decide +kernel
  · unfold MemoryCanonical; decide +kernel
  · decide +kernel

end Sys2Proof.Tests
end

section
/-! PROOF. Counter cells in memory: the number in a run of bytes, the value of a cell after a write of it and after a write
beside it (R5, R67). -/

namespace Sys2Proof.Machine

/-! ### Numbers as bytes (R5) -/

theorem length_bytesOfNat (n v : Nat) : (bytesOfNat n v).length = n := by
  induction n generalizing v with
  | zero => rfl
  | succ n ih => simp only [bytesOfNat, List.length_cons, ih]

theorem natOfBytes_bytesOfNat (n v : Nat) : natOfBytes (bytesOfNat n v) = v % 256 ^ n := by
  induction n generalizing v with
  | zero => simp [bytesOfNat, natOfBytes, Nat.mod_one]
  | succ n ih => rw [bytesOfNat, natOfBytes, ih, BitVec.toNat_ofNat, pow_succ' 256 n, Nat.mod_mul]

theorem Sparse.getList_congr {α : Type} (d : α) (m m' : Sparse α) (k n : Nat)
    (h : ∀ i < n, get d m' (k + i) = get d m (k + i)) : getList d m' k n = getList d m k n := by
  induction n generalizing k with
  | zero => rfl
  | succ n ih =>
    have tail : ∀ i < n, get d m' (k + 1 + i) = get d m (k + 1 + i) := fun i hi => by
      simpa only [Nat.add_assoc, Nat.add_comm 1] using h (i + 1) (by omega)
    simp only [getList, ih (k + 1) tail]
    rw [show get d m' k = get d m k from h 0 (by omega)]

theorem Sparse.getList_putList_same {α : Type} [DecidableEq α] (d : α) (m : Sparse α) (k : Nat) (l : List α) :
    getList d (putList d m k l) k l.length = l := by
  refine List.ext_getElem (length_getList d _ k _) fun i h₁ h₂ => ?_
  have read := getD_getList d (putList d m k l) k l.length i h₂
  rw [get_putList, if_pos (by omega), Nat.add_sub_cancel_left] at read
  simpa only [List.getD_eq_getElem _ d h₁, List.getD_eq_getElem _ d h₂] using read

/-! ### The value of a cell (R67) -/

theorem State.ctrValue_congr (s t : State) (key : Nat) (h : ∀ i < 8, t.rawByte (key + i) = s.rawByte (key + i)) :
    t.ctrValue key = s.ctrValue key := by
  simp only [State.ctrValue, State.rawDWord, State.rawNat]
  rw [Sparse.getList_congr Memory.unlisted s.mem t.mem key 8 h]

theorem State.putDWord_mem (s : State) (key : Nat) (v : DWord) :
    (s.putDWord key v).mem = Sparse.putList Memory.unlisted s.mem key (bytesOfNat 8 v.toNat) := s.putBytes_mem key _

theorem State.putDWord_ctrValue (s : State) (key : Nat) (v : DWord) : (s.putDWord key v).ctrValue key = v := by
  have read := Sparse.getList_putList_same Memory.unlisted s.mem key (bytesOfNat 8 v.toNat)
  rw [length_bytesOfNat] at read
  simp only [State.ctrValue, State.rawDWord, State.rawNat, State.putDWord_mem, read, natOfBytes_bytesOfNat]
  exact BitVec.eq_of_toNat_eq (by simp only [BitVec.toNat_ofNat]; have := v.isLt; omega)

theorem State.putDWord_byte (s : State) (key k : Nat) (v : DWord) (h : k < key ∨ key + 8 ≤ k) :
    (s.putDWord key v).rawByte k = s.rawByte k := by
  rw [State.putDWord, State.putBytes_byte, length_bytesOfNat, if_neg (by omega)]

end Sys2Proof.Machine
end

section
/-! PROOF. Operations at a counter's home where no sector is poisoned and no address is a shadow frame: what each writes, and
which waiters it wakes (R67 to R70, R72, R82). -/

namespace Sys2Proof.Machine

/-! ### Waiters (R72, R82) -/

theorem reached_iff (v t : DWord) : reached v t = true ↔ (v.toNat + 2 ^ 64 - t.toNat) % 2 ^ 64 < 2 ^ 63 := by
  have hv := v.isLt
  have ht := t.isLt
  simp only [reached, decide_eq_true_eq, BitVec.toNat_sub]
  omega

/-- The waiter stands at the cell, and a value and a status there end its wait. -/
def Waiter.endedBy (key : Nat) (v : DWord) (st : CtrStatus) (e : Waiter) : Bool :=
  decide (e.key = key) && (reached v e.thr || decide (st ≠ .ok))

theorem Waiter.endedBy_iff (key : Nat) (v : DWord) (st : CtrStatus) (e : Waiter) : e.endedBy key v st = true ↔
    e.key = key ∧ (st ≠ .ok ∨ (v.toNat + 2 ^ 64 - e.thr.toNat) % 2 ^ 64 < 2 ^ 63) := by
  simp only [Waiter.endedBy, Bool.and_eq_true, Bool.or_eq_true, decide_eq_true_eq, reached_iff]
  rw [Or.comm]

theorem State.fire_eq (s : State) (key : Nat) (v : DWord) (st : CtrStatus) :
    s.fire key v st = { s with
      waiters := s.waiters.filter fun e => !e.endedBy key v st
      work := s.work ++ (s.waiters.filter (Waiter.endedBy key v st)).map fun e => e.party.event v st } := by
  unfold State.fire
  split
  · next none_waits =>
    simp only [none_waits, List.filter_nil, List.map_nil, List.append_nil]
    exact congrArg (fun l => { s with waiters := l }) none_waits
  · rfl

/-! ### What an operation writes -/

theorem State.aliasAt_none (s : State) (key : Nat) (h : s.mxAlias = []) : s.aliasAt key = none := by
  simp [State.aliasAt, h]

theorem State.ctrPoisoned_false (s : State) (key : Nat) (h : s.poison = []) : s.ctrPoisoned key = false := by
  simp [State.ctrPoisoned, State.poisoned, h, Sparse.get]

theorem State.unshadowed_eq (s : State) (key : Nat) (f : State → State) (h : s.mxAlias = []) :
    s.unshadowed key f = f s := by
  simp [State.unshadowed, s.aliasAt_none key h]

theorem State.sendRecords_none (s : State) (key : Nat) (observer : Handle) (pc : DWord) (h : s.engRecords = []) :
    s.sendRecords key observer pc = s := by
  simp [State.sendRecords, h]

/-- Only what an add at a home may change differs: bytes, waiters, events owed, and corrected write-backs that the write
overtook (R64, R68, R82). -/
def State.AddWrote (s t : State) : Prop :=
  ∃ m ws wk sc, t = { s with mem := m, waiters := ws, work := wk, scrubs := sc }

theorem State.AddWrote.refl (s : State) : s.AddWrote s := ⟨s.mem, s.waiters, s.work, s.scrubs, rfl⟩

theorem State.AddWrote.trans {s t u : State} (h : s.AddWrote t) (g : t.AddWrote u) : s.AddWrote u := by
  obtain ⟨_, _, _, _, rfl⟩ := h
  obtain ⟨m, ws, wk, sc, rfl⟩ := g
  exact ⟨m, ws, wk, sc, rfl⟩

theorem State.putDWord_wrote (s : State) (key : Nat) (v : DWord) : s.AddWrote (s.putDWord key v) := by
  unfold State.putDWord State.putBytes State.dropScrubs
  split
  · exact ⟨_, s.waiters, s.work, s.scrubs, rfl⟩
  · exact ⟨_, s.waiters, s.work, _, rfl⟩

theorem State.putDWord_waiters (s : State) (key : Nat) (v : DWord) : (s.putDWord key v).waiters = s.waiters := by
  unfold State.putDWord State.putBytes State.dropScrubs
  split <;> rfl

theorem State.fire_wrote (s : State) (key : Nat) (v : DWord) (st : CtrStatus) : s.AddWrote (s.fire key v st) := by
  rw [State.fire_eq]
  exact ⟨s.mem, _, _, s.scrubs, rfl⟩

/-- The only one of these operations that writes a status. -/
theorem State.setStatus_ctrStatus (s : State) (key k : Nat) (st : CtrStatus) :
    (s.setStatus key st).ctrStatus k = if k / 8 = key / 8 then st else s.ctrStatus k :=
  Sparse.get_put .ok s.cst (key / 8) (k / 8) st

theorem State.ctrAdd_eq (s : State) (key : Nat) (d : DWord) (hp : s.poison = []) (ha : s.mxAlias = []) :
    s.ctrAdd key d = (s.putDWord key (s.ctrValue key + d)).fire key (s.ctrValue key + d) (s.ctrStatus key) := by
  simp [State.ctrAdd, s.unshadowed_eq key _ ha, s.ctrPoisoned_false key hp]

theorem State.ctrInit_eq (s : State) (key : Nat) (v : DWord) (hp : s.poison = []) (ha : s.mxAlias = []) :
    s.ctrInit key v = ((s.putDWord key v).setStatus key .ok).fire key v .ok := by
  have clean : ((s.putDWord key v).setStatus key .ok).poison = [] := by
    obtain ⟨_, _, _, _, he⟩ := s.putDWord_wrote key v
    rw [he]
    exact hp
  simp [State.ctrInit, s.unshadowed_eq key _ ha, State.markRewritten, State.poisoned, clean, Sparse.get]

/-- A break takes OK to either broken status, and ABANDONED to FAULTED (R69). -/
def breakTakes (was st : CtrStatus) : Prop := (was = .ok ∧ st ≠ .ok) ∨ (was = .abandoned ∧ st = .faulted)

theorem State.ctrBreak_taken (s : State) (key : Nat) (st : CtrStatus) (ha : s.mxAlias = [])
    (h : breakTakes (s.ctrStatus key) st) : s.ctrBreak key st = (s.setStatus key st).fire key (s.ctrValue key) st := by
  unfold State.ctrBreak
  rw [s.unshadowed_eq key _ ha]
  rcases h with ⟨hw, hs⟩ | ⟨hw, hs⟩
  · cases st
    case ok => exact absurd rfl hs
    all_goals simp [hw]
  · simp [hw, hs]

theorem State.ctrBreak_ignored (s : State) (key : Nat) (st : CtrStatus) (ha : s.mxAlias = [])
    (h : ¬ breakTakes (s.ctrStatus key) st) : s.ctrBreak key st = s := by
  unfold State.ctrBreak
  rw [s.unshadowed_eq key _ ha]
  revert h
  generalize s.ctrStatus key = was
  cases st <;> cases was <;> simp [breakTakes]

/-! ### The cell written, and its waiters judged -/

/-- The cell at a key holds a value and a status, every other byte and status is as it was, no wave has changed, and no waiter
has been judged. -/
structure State.CellWritten (s t : State) (key : Nat) (v : DWord) (st : CtrStatus) : Prop where
  value : t.ctrValue key = v
  status : t.ctrStatus key = st
  wave : t.wave = s.wave
  waves : t.waves = s.waves
  bytes : ∀ k, k < key ∨ key + 8 ≤ k → t.rawByte k = s.rawByte k
  statuses : ∀ k, k / 8 ≠ key / 8 → t.ctrStatus k = s.ctrStatus k
  waiters : t.waiters = s.waiters

theorem State.CellWritten.of_putDWord (s : State) (key : Nat) (v : DWord) :
    s.CellWritten (s.putDWord key v) key v (s.ctrStatus key) := by
  have value := s.putDWord_ctrValue key v
  have bytes := fun k => s.putDWord_byte key k v
  have waiters := s.putDWord_waiters key v
  obtain ⟨_, _, _, _, he⟩ := s.putDWord_wrote key v
  rw [he] at value bytes waiters ⊢
  exact ⟨value, rfl, rfl, rfl, bytes, fun _ _ => rfl, waiters⟩

theorem State.CellWritten.setStatus {s t : State} {key : Nat} {v : DWord} {was : CtrStatus}
    (h : s.CellWritten t key v was) (st : CtrStatus) : s.CellWritten (t.setStatus key st) key v st where
  value := h.value
  status := by rw [State.setStatus_ctrStatus, if_pos rfl]
  wave := h.wave
  waves := h.waves
  bytes := h.bytes
  statuses k hk := by rw [State.setStatus_ctrStatus, if_neg hk, h.statuses k hk]
  waiters := h.waiters

theorem State.CellWritten.refl (s : State) (key : Nat) : s.CellWritten s key (s.ctrValue key) (s.ctrStatus key) :=
  ⟨rfl, rfl, rfl, rfl, fun _ _ => rfl, fun _ _ => rfl, rfl⟩

/-- The operation is complete: of the waiters just those whose wait the cell ends are removed, and they are woken. -/
structure State.CellSettled (s t : State) (key : Nat) (v : DWord) (st : CtrStatus) : Prop where
  value : t.ctrValue key = v
  status : t.ctrStatus key = st
  wave : t.wave = s.wave
  waves : t.waves = s.waves
  bytes : ∀ k, k < key ∨ key + 8 ≤ k → t.rawByte k = s.rawByte k
  statuses : ∀ k, k / 8 ≠ key / 8 → t.ctrStatus k = s.ctrStatus k
  removed : ∀ e ∈ s.waiters, e.endedBy key v st = true ↔ e ∉ t.waiters
  noneAdded : ∀ e ∈ t.waiters, e ∈ s.waiters
  woken : ∀ e ∈ s.waiters, e.endedBy key v st = true → e.party.event v st ∈ t.work

theorem State.CellWritten.fire {s t : State} {key : Nat} {v : DWord} {st : CtrStatus} (h : s.CellWritten t key v st) :
    s.CellSettled (t.fire key v st) key v st := by
  rw [State.fire_eq, h.waiters]
  exact {
    value := h.value
    status := h.status
    wave := h.wave
    waves := h.waves
    bytes := h.bytes
    statuses := h.statuses
    removed := fun e he => by simp [he]
    noneAdded := fun e he => (List.mem_filter.1 he).1
    woken := fun e he hit => List.mem_append_right _ (List.mem_map_of_mem (List.mem_filter.2 ⟨he, hit⟩)) }

theorem State.ctrAdd_settled (s : State) (key : Nat) (d : DWord) (hp : s.poison = []) (ha : s.mxAlias = []) :
    s.CellSettled (s.ctrAdd key d) key (s.ctrValue key + d) (s.ctrStatus key) := by
  rw [s.ctrAdd_eq key d hp ha]
  exact (State.CellWritten.of_putDWord s key _).fire

theorem State.ctrInit_settled (s : State) (key : Nat) (v : DWord) (hp : s.poison = []) (ha : s.mxAlias = []) :
    s.CellSettled (s.ctrInit key v) key v .ok := by
  rw [s.ctrInit_eq key v hp ha]
  exact ((State.CellWritten.of_putDWord s key v).setStatus .ok).fire

theorem State.ctrBreak_settled (s : State) (key : Nat) (st : CtrStatus) (ha : s.mxAlias = [])
    (h : breakTakes (s.ctrStatus key) st) : s.CellSettled (s.ctrBreak key st) key (s.ctrValue key) st := by
  rw [s.ctrBreak_taken key st ha h]
  exact ((State.CellWritten.refl s key).setStatus st).fire

/-! ### The event at the home (R373) -/

theorem State.homeEvent_sound (s : State) (perform fail : State → State) (hok : s.inp.ok = true)
    (hf : s.inp.found ≠ .correctable) : s.homeEvent perform fail = perform s := by
  simp [State.homeEvent, hok, hf]

theorem State.homeCounter_eq (s : State) (key : Nat) (op : CtrOp) (hok : s.inp.ok = true)
    (hf : s.inp.found ≠ .correctable) (hr : s.engRecords = []) : s.homeCounter key op = s.ctrPerform key op := by
  rw [State.homeCounter, s.homeEvent_sound _ _ hok hf]
  cases op with
  | init v => exact congrArg (fun u : State => u.ctrInit key v) (s.sendRecords_none key _ _ hr)
  | add d => rfl
  | brk st => rfl

end Sys2Proof.Machine
end

section
/-! PROOF. What stands around the work of a memory or counter instruction whose accesses all pass the checks of R35: behind the
checks the work is done on every access, and a lane counter instruction then writes its flags and moves on (R35, R281). -/

namespace Sys2Proof.Machine

open Sys2Proof.Claims

/-! ### Accesses that are all sent on -/

theorem okOf_map_ok (hits : List Hit) : okOf (hits.map Except.ok) = hits := by
  induction hits with
  | nil => rfl
  | cons h hits ih => simp only [List.map_cons, okOf, ih]

theorem errOf_map_ok (hits : List Hit) : errOf (hits.map Except.ok) = [] := by
  induction hits with
  | nil => rfl
  | cons h hits ih => simp only [List.map_cons, errOf, ih]

/-- The home of an access changes its key alone, and no page's type. -/
theorem State.sendOn_typeTrap {u : State} {f : Form} {h g : Hit} (hs : u.sendOn f h = .ok g) :
    f.typeTrap g = f.typeTrap h := by
  unfold State.sendOn at hs
  split at hs
  · cases hs; rfl
  · split at hs
    · cases hs; rfl
    · cases hs

theorem exists_sent_of_mem_okOf {u : State} {f : Form} {rs : List (Except FaultAt Hit)} {hits : List Hit}
    (hrs : rs.map (fun r => r.bind (u.sendOn f)) = hits.map Except.ok) {h : Hit} (hh : h ∈ okOf rs) :
    ∃ g ∈ hits, u.sendOn f h = .ok g := by
  induction rs generalizing hits with
  | nil => simp [okOf] at hh
  | cons r rs ih =>
    cases hits with
    | nil => simp at hrs
    | cons g hits =>
      simp only [List.map_cons, List.cons.injEq] at hrs
      obtain ⟨first, rest⟩ := hrs
      cases r with
      | error e => cases first
      | ok a =>
        rcases List.mem_cons.1 hh with rfl | hh
        · exact ⟨g, List.mem_cons_self, first⟩
        · obtain ⟨g', hg', sent⟩ := ih rest hh
          exact ⟨g', List.mem_cons_of_mem _ hg', sent⟩

/-- No page's type bars an access that translated, where it bars none that was sent on. -/
theorem find_typeTrap_none {u : State} {f : Form} {rs : List (Except FaultAt Hit)} {hits : List Hit}
    (hrs : rs.map (fun r => r.bind (u.sendOn f)) = hits.map Except.ok) (ht : ∀ h ∈ hits, f.typeTrap h = none) :
    (okOf rs).find? (fun h => (f.typeTrap h).isSome) = none := by
  refine List.find?_eq_none.2 fun h hh => ?_
  obtain ⟨g, hg, sent⟩ := exists_sent_of_mem_okOf hrs hh
  simp [← State.sendOn_typeTrap sent, ht g hg]

/-- Row 2 of R35 where the instruction is not in the middle of asking the host. -/
theorem State.translated_eq (s : State) (f : Form) (as : List Acc) (h : s.wave.asked = []) :
    s.translated f as = State.translateAll (if f.sp = true ∨ as = [] then s else s.rewalk f.xreg) f as := by
  simp [State.translated, h]

theorem State.checked_of_unstruck (s : State) (f : Form) (cls : Check) (unit path : Nat) (body : State → State)
    (h : if f.uni then Unstruck s else UnstruckIn s s.wave.lanes) :
    s.checked cls unit path (s.checkLanes f) body = body s := by
  unfold State.checkLanes State.positions
  split at h
  · next uniform =>
    rw [if_pos uniform]
    exact s.checked_body cls unit path none body h.2 h.1
  · next lanewise =>
    rw [if_neg lanewise, if_neg lanewise]
    exact s.checked_body cls unit path _ body h.2 h.1

/-- Behind its checks an instruction makes every access. -/
theorem State.access_of_reaches {s u : State} {f : Form} {delta : Nat → Bool} {hits : List Hit}
    (act : State → List Hit → List FaultAt → State) (h : Reaches s f delta u hits) :
    s.access f delta (fun _ _ => none) act = act u hits [] := by
  obtain ⟨asked, unstruck, row_one, ⟨rs, translate, sent⟩, upset, types⟩ := h
  rw [State.access, s.checked_of_unstruck f _ _ _ _ unstruck]
  simp only [State.judged, row_one, s.translated_eq f _ asked, translate, find_typeTrap_none sent types, sent,
    errOf_map_ok, okOf_map_ok, List.find?_nil, List.any_nil, Bool.false_eq_true, if_false]
  exact u.sound_body _ _ _ _ _ upset

/-! ### An empty L1 -/

theorem State.homeward_empty (s : State) (hits : List Hit) (n : Nat) (h : s.l1 = []) : s.homeward hits n = s := by
  simp [State.homeward, State.l1Home, h]

theorem State.acquire_empty (s : State) (core : Nat) (acq : Bool) (h : s.l1 = []) : s.acquire core acq = s := by
  unfold State.acquire State.invalidateCore
  split
  · simp only [h, List.filter_nil, List.map_nil]
    exact congrArg (fun l => { s with l1 := l }) h.symm
  · rfl

theorem State.releaseThen_empty (s : State) (f : Form) (x : MemExt) (some_ : Bool) (body : State → State)
    (h : s.l1 = []) : s.releaseThen f x some_ body = body s := by
  unfold State.releaseThen
  split
  · exact s.releaseFirst_body x.scope body h
  · rfl

/-! ### A lane counter instruction -/

/-- The wave after a form without faults: its slot set, 8 bytes on (R105). -/
def Wave.completed (w : Wave) (x : Slots) : Wave := past 8 { w with slots := slotsSet x w.slots }

theorem State.finish_none (s : State) (f : Form) (x : Slots) : s.finish f x [] = withWave s (s.wave.completed x) := by
  unfold State.finish State.setSlot Wave.completed slotsSet
  cases x.set <;> rfl

/-- The flags that a lane counter instruction tells, where it has lanes: B and F, each if it writes it (R281). -/
def Wave.toldBF (w : Wave) (writesB writesF b f : Bool) : Wave :=
  if w.lanes = [] then w
  else
    let w := if writesB then w.setB b else w
    if writesF then w.setF f else w

theorem Wave.toldBF_eq (w : Wave) (writesB writesF b f : Bool) :
    ∃ cc, w.toldBF writesB writesF b f = { w with cc := cc } := by
  unfold Wave.toldBF
  split
  · exact ⟨w.cc, rfl⟩
  · cases writesB <;> cases writesF <;> exact ⟨_, rfl⟩

theorem setFlag_five (cc : BitVec 6) (b : Bool) : setFlag cc 5 b =
    ccOf b (cc.getLsbD 4) (cc.getLsbD 3) (cc.getLsbD 2) (cc.getLsbD 1) (cc.getLsbD 0) := by
  revert cc b
  decide

theorem Wave.toldBF_onlyF (w : Wave) (b f : Bool) :
    w.toldBF false true b f = if w.lanes = [] then w else withF f w := by
  simp only [Wave.toldBF, Wave.setF, Wave.flag, withF, setFlag_five, Bool.false_eq_true, if_false, if_true]

theorem Wave.toldBF_cc (w : Wave) (b f : Bool) (h : w.lanes ≠ []) :
    (w.toldBF true true b f).cc.getLsbD 4 = b ∧ (w.toldBF true true b f).cc.getLsbD 5 = f := by
  have told : w.toldBF true true b f = (w.setB b).setF f := by simp [Wave.toldBF, h]
  rw [told]
  exact ⟨(setFlag_other (setFlag w.cc 4 b) 5 4 f (by decide)).trans (setFlag_same w.cc 4 b),
    setFlag_same (setFlag w.cc 4 b) 5 f⟩

theorem State.endCtr_none (s : State) (f : Form) (x : Slots) (writesB writesF : Bool) (g : Gathered)
    (hb : s.wave.gathB = false) (hf : s.wave.gathF = false) : s.endCtr f x writesB writesF g [] =
      withWave s ((s.wave.toldBF writesB writesF g.b g.f).completed x) := by
  by_cases idle : s.wave.lanes = []
  · simp [State.endCtr, State.finish_none, Wave.toldBF, idle]
  · cases writesB <;> cases writesF <;>
      simp [State.endCtr, State.finish_none, Wave.toldBF, idle, hb, hf, State.setF, State.onWave] <;> rfl

/-- Behind its checks a lane counter instruction does its work on every access, tells its flags and completes. -/
theorem State.ctrLanes_of_reaches {s u t : State} {f : Form} {x : MemExt} {delta : Nat → Bool} {hits : List Hit}
    {g : Gathered} {recs : State → List (List Byte)} {work : State → List Hit → State × Gathered}
    (writesB writesF : Bool) (h : Reaches (afterWait s x.slots) f delta u hits) (hu : Plain u)
    (hw : work u hits = (t, g)) (hl : t.l1 = []) (hb : t.wave.gathB = false) (hf : t.wave.gathF = false) :
    s.ctrLanes f x delta (fun _ _ => none) recs writesB writesF work =
      withWave t ((t.wave.toldBF writesB writesF g.b g.f).completed x.slots) := by
  obtain ⟨unpaired, -, l1_empty, -⟩ := hu
  rw [State.ctrLanes, show s.waitSlots x.slots = afterWait s x.slots from rfl, State.access_of_reaches _ h]
  simp only [State.allTogether, unpaired, u.once_body _ _ _ unpaired, u.releaseThen_empty _ _ _ _ l1_empty,
    u.homeward_empty _ _ l1_empty, hw, State.acquire_empty _ _ _ hl, t.endCtr_none f x.slots writesB writesF g hb hf]

end Sys2Proof.Machine
end

section
/-! PROOF. Vector operands of two registers: the checks and the values of R136 and R183, and what is read back after values are
written to lanes. -/

namespace Sys2Proof.Machine

open Sys2Proof.Claims

/-! ### Lane positions (R138) -/

theorem mem_upto {n i : Nat} : i ∈ upto n ↔ i < n := by
  induction n with
  | zero => simp [upto]
  | succ n ih => simp only [upto, List.mem_append, ih, List.mem_singleton]; omega

theorem Wave.lt_of_mem_lanes {w : Wave} {l : Nat} (h : l ∈ w.lanes) : l < 32 := mem_upto.1 (List.mem_filter.1 h).1

/-! ### Operand checks and values -/

theorem Wave.srcOk_of_inBudget {w : Wave} {n : Nat} {c : BitVec 8} (h : inBudget w n c) : w.srcOk n c = true := by
  obtain ⟨register, aligned, fits⟩ := h
  simp [Wave.srcOk, register, aligned, fits]

theorem Wave.srcOk_of_srcFits {w : Wave} {n : Nat} {c : BitVec 8} (h : srcFits w n c) : w.srcOk n c = true := by
  rcases h with budget | ⟨special, last⟩
  · exact Wave.srcOk_of_inBudget budget
  · simp [Wave.srcOk, Nat.not_lt.2 special, last]

theorem Wave.groupOk_of_inBudget {w : Wave} {n : Nat} {c : BitVec 8} (h : inBudget w n c) : w.groupOk n c = true := by
  obtain ⟨register, -, fits⟩ := h
  simp [Wave.groupOk, register, fits]

/-- A pair of registers, which is no special code: the first register is the low word. -/
theorem laneOf_registers {c : BitVec 8} (h : c.toNat < 0xF0) (w : Wave) (l : Nat) :
    laneOf w c 2 l = (w.getV c.toNat l).toNat + 2 ^ 32 * (w.getV (c.toNat + 1) l).toNat := by
  have ne : ∀ k : Nat, 0xF0 ≤ k → k < 256 → c ≠ BitVec.ofNat 8 k := by
    rintro k hk hlt rfl
    simp only [BitVec.toNat_ofNat] at h
    omega
  simp only [laneOf, ne 0xF0 (by decide) (by decide), ne 0xF1 (by decide) (by decide),
    ne 0xF2 (by decide) (by decide), ne 0xF3 (by decide) (by decide), if_false, if_true]

theorem Wave.lanePair_registers {c : BitVec 8} (h : c.toNat < 0xF0) (w : Wave) (l : Nat) :
    w.lanePair c l = BitVec.ofNat 64 (laneOf w c 2 l) := by
  have pair : w.laneNat c l 2 = Wave.laneNat.natOfRegs w c.toNat l 2 := by
    simp only [Wave.laneNat]
    split
    case h_5 => rfl
    all_goals omega
  rw [Wave.lanePair, pair, laneOf_registers h]
  simp only [Wave.laneNat.natOfRegs, Nat.mul_zero, Nat.add_zero]

/-- A delta is too large (R68) by the number that its two registers hold. -/
theorem deltaBad_lanePair {c : BitVec 8} (h : c.toNat < 0xF0) (w : Wave) (l : Nat) :
    deltaBad (w.lanePair c l) = decide (2 ^ 63 ≤ laneOf w c 2 l) := by
  have low := (w.getV c.toNat l).isLt
  have high := (w.getV (c.toNat + 1) l).isLt
  have lt : laneOf w c 2 l < 2 ^ 64 := by rw [laneOf_registers h]; omega
  rw [Wave.lanePair_registers h, deltaBad, BitVec.msb_eq_decide, BitVec.toNat_ofNat, Nat.mod_eq_of_lt lt]

/-! ### Values written to lanes -/

theorem Wave.getV_setV (w : Wave) (r r' l l' : Nat) (v : Word) (hl : l < 32) (hl' : l' < 32) :
    (w.setV r l v).getV r' l' = if r' = r ∧ l' = l then v else w.getV r' l' := by
  simp only [Wave.getV, Wave.setV, Sparse.get_put, show (32 * r' + l' = 32 * r + l) = (r' = r ∧ l' = l) by
    apply propext; omega]

theorem Wave.putLane_pair (w : Wave) (c : BitVec 8) (l v : Nat) (h : c.toNat < 0xF0) : w.putLane c l 2 v =
    (w.setV c.toNat l (BitVec.ofNat 32 v)).setV (c.toNat + 1) l (BitVec.ofNat 32 (v / 2 ^ 32)) := by
  simp only [Wave.putLane, if_pos h, Wave.putRegs]

theorem Wave.getV_putLane_pair (w : Wave) (c : BitVec 8) (r l l' v : Nat) (h : c.toNat < 0xF0) (hl : l < 32)
    (hl' : l' < 32) : (w.putLane c l 2 v).getV r l' =
      if r = c.toNat + 1 ∧ l' = l then BitVec.ofNat 32 (v / 2 ^ 32)
      else if r = c.toNat ∧ l' = l then BitVec.ofNat 32 v else w.getV r l' := by
  rw [w.putLane_pair c l v h, Wave.getV_setV _ _ _ _ _ _ hl hl', Wave.getV_setV _ _ _ _ _ _ hl hl']

/-- Registers and lanes that no value is written to. -/
theorem Wave.getV_putLanes_other (w : Wave) (c : BitVec 8) (vals : List (Nat × Nat)) (r l : Nat) (h : c.toNat < 0xF0)
    (hpos : ∀ e ∈ vals, e.1 < 32) (hl : l < 32)
    (hout : r < c.toNat ∨ c.toNat + 2 ≤ r ∨ ∀ e ∈ vals, e.1 ≠ l) : (w.putLanes c 2 vals).getV r l = w.getV r l := by
  induction vals generalizing w with
  | nil => rfl
  | cons e vals ih =>
    have rest : r < c.toNat ∨ c.toNat + 2 ≤ r ∨ ∀ e ∈ vals, e.1 ≠ l := by
      rcases hout with h | h | h
      · exact .inl h
      · exact .inr (.inl h)
      · exact .inr (.inr fun e he => h e (List.mem_cons_of_mem _ he))
    have apart : ¬ (r = c.toNat + 1 ∧ l = e.1) ∧ ¬ (r = c.toNat ∧ l = e.1) := by
      rcases hout with h | h | h
      · omega
      · omega
      · have := h e List.mem_cons_self
        omega
    refine (ih (w.putLane c e.1 2 e.2) (fun e he => hpos e (List.mem_cons_of_mem _ he)) rest).trans ?_
    rw [w.getV_putLane_pair c r e.1 l e.2 h (hpos e List.mem_cons_self) hl, if_neg apart.1, if_neg apart.2]

/-- Each lane holds the value written to it, the first register its low word. -/
theorem Wave.getV_putLanes_pair (w : Wave) (c : BitVec 8) (vals : List (Nat × Nat)) (h : c.toNat < 0xF0)
    (hpos : ∀ e ∈ vals, e.1 < 32) (hnd : (vals.map Prod.fst).Nodup) {e : Nat × Nat} (he : e ∈ vals) :
    (w.putLanes c 2 vals).getV c.toNat e.1 = BitVec.ofNat 32 e.2 ∧
      (w.putLanes c 2 vals).getV (c.toNat + 1) e.1 = BitVec.ofNat 32 (e.2 / 2 ^ 32) := by
  induction vals generalizing w with
  | nil => cases he
  | cons a vals ih =>
    obtain ⟨fresh, hnd⟩ := List.nodup_cons.1 hnd
    have tail_pos : ∀ e ∈ vals, e.1 < 32 := fun e he => hpos e (List.mem_cons_of_mem _ he)
    rcases List.mem_cons.1 he with rfl | he
    · have lane := hpos e List.mem_cons_self
      have later : ∀ g ∈ vals, g.1 ≠ e.1 := fun g hg eq => fresh (eq ▸ List.mem_map_of_mem hg)
      have kept : ∀ r, (w.putLanes c 2 (e :: vals)).getV r e.1 = (w.putLane c e.1 2 e.2).getV r e.1 := fun r =>
        Wave.getV_putLanes_other _ c vals r e.1 h tail_pos lane (.inr (.inr later))
      simp [kept, w.getV_putLane_pair c _ e.1 e.1 e.2 h lane lane]
    · exact ih (w.putLane c a.1 2 a.2) tail_pos hnd he

theorem Wave.putLane_eq (w : Wave) (c : BitVec 8) (l n v : Nat) : ∃ regs, w.putLane c l n v = { w with v := regs } := by
  unfold Wave.putLane
  split
  · generalize c.toNat = r
    induction n generalizing w r v with
    | zero => exact ⟨w.v, rfl⟩
    | succ n ih =>
      obtain ⟨regs, he⟩ := ih (w.setV r l (BitVec.ofNat 32 v)) (v / 2 ^ 32) (r + 1)
      exact ⟨regs, he⟩
  · exact ⟨w.v, rfl⟩

/-- Only vector registers are written. -/
theorem Wave.putLanes_eq (w : Wave) (c : BitVec 8) (n : Nat) (vals : List (Nat × Nat)) :
    ∃ regs, w.putLanes c n vals = { w with v := regs } := by
  induction vals generalizing w with
  | nil => exact ⟨w.v, rfl⟩
  | cons e vals ih =>
    obtain ⟨_, first⟩ := w.putLane_eq c e.1 n e.2
    obtain ⟨regs, rest⟩ := ih (w.putLane c e.1 n e.2)
    exact ⟨regs, by rw [show w.putLanes c n (e :: vals) = (w.putLane c e.1 n e.2).putLanes c n vals from rfl, rest, first]⟩

end Sys2Proof.Machine
end

section
/-! PROOF. The adds of CADD and CFADD, lanes ascending, to sound cells that lie apart (R75, R78, R277). -/

namespace Sys2Proof.Machine

/-- Nothing stands in the way of an operation at a cell: no poisoned sector, no shadow frame, no error of a datapath, and no
failure held on a counter. -/
structure State.CellsSound (s : State) : Prop where
  poison : s.poison = []
  noShadow : s.mxAlias = []
  upset : s.upset = none
  records : s.engRecords = []

theorem State.CellsSound.of_wrote {s t : State} (hs : s.CellsSound) (h : s.AddWrote t) : t.CellsSound := by
  obtain ⟨_, _, _, _, rfl⟩ := h
  exact ⟨hs.poison, hs.noShadow, hs.upset, hs.records⟩

theorem State.cellOf_wrote {s t : State} (h : s.AddWrote t) (g : Hit) : t.cellOf g = s.cellOf g := by
  obtain ⟨_, _, _, _, rfl⟩ := h
  rfl

theorem State.ctrStatus_wrote {s t : State} (h : s.AddWrote t) (k : Nat) : t.ctrStatus k = s.ctrStatus k := by
  obtain ⟨_, _, _, _, rfl⟩ := h
  rfl

theorem State.atCell_sound {s : State} (hs : s.CellsSound) (key : Nat) (perform : State → State) :
    s.atCell key perform = (perform s, true) := by
  simp [State.atCell, State.homeSound, State.upsetAt, hs.upset]

theorem State.observe_none (s : State) (key : Nat) (st : CtrStatus) (w : Handle) (pc : DWord) (h : s.engRecords = []) :
    s.observe key st w pc = s := by
  unfold State.observe
  split
  · exact s.sendRecords_none key w pc h
  · rfl

theorem State.ctrRead_sound (s : State) (key : Nat) (h : s.poison = []) :
    s.ctrRead key = (s.ctrValue key, s.ctrStatus key) := by
  simp [State.ctrRead, s.ctrPoisoned_false key h]

theorem State.ctrAdd_wrote {s : State} (hs : s.CellsSound) (key : Nat) (d : DWord) : s.AddWrote (s.ctrAdd key d) := by
  rw [s.ctrAdd_eq key d hs.poison hs.noShadow]
  exact (s.putDWord_wrote key _).trans (State.fire_wrote _ _ _ _)

theorem State.ctrAdd_byte {s : State} (hs : s.CellsSound) (key k : Nat) (d : DWord) (h : k < key ∨ key + 8 ≤ k) :
    (s.ctrAdd key d).rawByte k = s.rawByte k :=
  (s.ctrAdd_settled key d hs.poison hs.noShadow).bytes k h

/-- Two cells share no byte. -/
def cellsApart (j k : Nat) : Prop := j + 8 ≤ k ∨ k + 8 ≤ j

theorem State.ctrAdd_value_apart {s : State} (hs : s.CellsSound) (key k : Nat) (d : DWord) (h : cellsApart key k) :
    (s.ctrAdd key d).ctrValue k = s.ctrValue k :=
  s.ctrValue_congr _ k fun i hi => s.ctrAdd_byte hs key (k + i) d (by unfold cellsApart at h; omega)

/-! ### All adds of an instruction -/

/-- Each access adds its lane's delta to its cell, the first access first. -/
def State.addAll (s : State) (cell : Hit → Nat) (d : Nat → DWord) (hits : List Hit) : State :=
  hits.foldl (fun s h => s.ctrAdd (cell h) (d h.pos)) s

section
variable {s : State} (hs : s.CellsSound) (cell : Hit → Nat) (d : Nat → DWord)
include hs

theorem State.addAll_wrote (hits : List Hit) : s.AddWrote (s.addAll cell d hits) := by
  induction hits generalizing s with
  | nil => exact .refl s
  | cons h hits ih =>
    have first := State.ctrAdd_wrote hs (cell h) (d h.pos)
    exact first.trans (ih (hs.of_wrote first))

theorem State.addAll_byte (hits : List Hit) (k : Nat) (hk : ∀ h ∈ hits, k < cell h ∨ cell h + 8 ≤ k) :
    (s.addAll cell d hits).rawByte k = s.rawByte k := by
  induction hits generalizing s with
  | nil => rfl
  | cons h hits ih =>
    obtain ⟨here, there⟩ := List.forall_mem_cons.1 hk
    exact (ih (hs.of_wrote (State.ctrAdd_wrote hs (cell h) (d h.pos))) there).trans (State.ctrAdd_byte hs _ k _ here)

theorem State.addAll_value_apart (hits : List Hit) (k : Nat) (hk : ∀ h ∈ hits, cellsApart (cell h) k) :
    (s.addAll cell d hits).ctrValue k = s.ctrValue k :=
  s.ctrValue_congr _ k fun i hi => State.addAll_byte hs cell d hits (k + i) fun h hh => by
    have := hk h hh
    unfold cellsApart at this
    omega

theorem State.addAll_value (hits : List Hit) (apart : hits.Pairwise fun g h => cellsApart (cell g) (cell h)) {h : Hit}
    (hh : h ∈ hits) : (s.addAll cell d hits).ctrValue (cell h) = s.ctrValue (cell h) + d h.pos := by
  induction hits generalizing s with
  | nil => cases hh
  | cons g hits ih =>
    obtain ⟨first_apart, apart⟩ := List.pairwise_cons.1 apart
    have sound := hs.of_wrote (State.ctrAdd_wrote hs (cell g) (d g.pos))
    rcases List.mem_cons.1 hh with rfl | hh
    · have later : ∀ g ∈ hits, cellsApart (cell g) (cell h) := fun g hg => (first_apart g hg).symm
      exact (State.addAll_value_apart sound cell d hits _ later).trans
        (s.ctrAdd_settled (cell h) _ hs.poison hs.noShadow).value
    · refine (ih sound apart hh).trans ?_
      rw [State.ctrAdd_value_apart hs _ _ _ (first_apart h hh)]

theorem State.addLanes_eq (hits : List Hit) (hc : ∀ h ∈ hits, s.cellOf h = some (cell h)) :
    s.addLanes d hits = (s.addAll cell d hits, {}) := by
  induction hits generalizing s with
  | nil => rfl
  | cons h hits ih =>
    obtain ⟨here, there⟩ := List.forall_mem_cons.1 hc
    have first := State.ctrAdd_wrote hs (cell h) (d h.pos)
    have rest := ih (hs.of_wrote first) fun g hg => (State.cellOf_wrote first g).trans (there g hg)
    simp [State.addLanes, State.laneAdd, here, State.atCell_sound hs, rest, State.addAll]

theorem State.laneFetchAdd_eq (h : Hit) (hc : s.cellOf h = some (cell h)) :
    s.laneFetchAdd h (d h.pos) = (s.ctrAdd (cell h) (d h.pos), s.ctrValue (cell h),
      ⟨decide (s.ctrStatus (cell h) ≠ .ok), decide (s.ctrStatus (cell h) = .faulted)⟩) := by
  have records := (hs.of_wrote (State.ctrAdd_wrote hs (cell h) (d h.pos))).records
  simp [State.laneFetchAdd, hc, s.ctrRead_sound _ hs.poison, State.atCell_sound hs, State.observe_none _ _ _ _ _ records]

/-- Cells that lie apart are each found as they were before the instruction. -/
theorem State.fetchAddLanes_eq (hits : List Hit) (hc : ∀ h ∈ hits, s.cellOf h = some (cell h))
    (apart : hits.Pairwise fun g h => cellsApart (cell g) (cell h)) :
    s.fetchAddLanes d hits = (s.addAll cell d hits, hits.map fun h => (h.pos, (s.ctrValue (cell h)).toNat),
      ⟨hits.any fun h => decide (s.ctrStatus (cell h) ≠ .ok), hits.any fun h => decide (s.ctrStatus (cell h) = .faulted)⟩) := by
  induction hits generalizing s with
  | nil => rfl
  | cons h hits ih =>
    obtain ⟨here, there⟩ := List.forall_mem_cons.1 hc
    obtain ⟨first_apart, apart⟩ := List.pairwise_cons.1 apart
    have first := State.ctrAdd_wrote hs (cell h) (d h.pos)
    have rest := ih (hs.of_wrote first) (fun g hg => (State.cellOf_wrote first g).trans (there g hg)) apart
    have values : (hits.map fun g => (g.pos, ((s.ctrAdd (cell h) (d h.pos)).ctrValue (cell g)).toNat)) =
        hits.map fun g => (g.pos, (s.ctrValue (cell g)).toNat) :=
      List.map_congr_left fun g hg => by rw [State.ctrAdd_value_apart hs _ _ _ (first_apart g hg)]
    simp only [State.ctrStatus_wrote first, values] at rest
    simp only [State.fetchAddLanes, State.laneFetchAdd_eq hs cell d h here, rest, State.addAll, List.foldl_cons,
      List.map_cons, List.any_cons]

end

end Sys2Proof.Machine
end

section
/-! PROOF. Counter operations at their home, CADD and CFADD: the settled statement. -/

namespace Sys2Proof.Proofs

open Sys2Proof.Machine Sys2Proof.Claims

theorem exec_homeCounterOperation (s : State) (key : Nat) (op : CtrOp) (hok : s.inp.ok = true)
    (hf : s.inp.found ≠ .correctable) (hr : s.engRecords = []) :
    exec (.homeCounterOperation key op) s = .next (s.ctrPerform key op) :=
  congrArg Host.Outcome.next (s.homeCounter_eq key op hok hf hr)

/-! ### What CADD and CFADD leave -/

/-- The adds of an instruction reach sound cells that lie apart, behind its checks, with nothing in their way. -/
structure AddsReach (s u : State) (a base c : BitVec 8) (x : MemExt) (hits : List Hit) (cell : Hit → Nat) : Prop where
  noMmas : NoMmas s
  plain : Plain u
  sound : u.CellsSound
  gathB : u.wave.gathB = false
  gathF : u.wave.gathF = false
  deltas : inBudget s.wave 2 a
  offsets : srcFits s.wave (if MBase.wide base then 2 else 1) c
  reaches : Reaches (afterWait s x.slots) (ctrForm false .ctrWrite base c x true)
    (fun l => deltaBad (s.wave.lanePair a l)) u hits
  cells : ∀ h ∈ hits, u.cellOf h = some (cell h)
  apart : hits.Pairwise fun g h => cellsApart (cell g) (cell h)

/-- The lanes of CFADD and the values of their cells before the adds. -/
def valuesBefore (u : State) (cell : Hit → Nat) (hits : List Hit) : List (Nat × Nat) :=
  hits.map fun h => (h.pos, (u.ctrValue (cell h)).toNat)

/-- The wave that CFADD leaves. -/
def fetchAddWave (u : State) (a : BitVec 8) (x : Slots) (cell : Hit → Nat) (hits : List Hit) : Wave :=
  ((u.wave.putLanes a 2 (valuesBefore u cell hits)).toldBF true true
    (hits.any fun h => decide (u.ctrStatus (cell h) ≠ .ok))
    (hits.any fun h => decide (u.ctrStatus (cell h) = .faulted))).completed x

section
variable {s u : State} {a base c : BitVec 8} {x : MemExt} {hits : List Hit} {cell : Hit → Nat}
  (h : AddsReach s u a base c x hits cell)
include h

/-- The adds change neither a core's L1 nor the wave at issue. -/
theorem AddsReach.addAll_keeps (d : Nat → DWord) :
    (u.addAll cell d hits).l1 = [] ∧ (u.addAll cell d hits).wave = u.wave ∧ (u.addAll cell d hits).cst = u.cst := by
  obtain ⟨-, -, l1_empty, -⟩ := h.plain
  obtain ⟨_, _, _, _, he⟩ := State.addAll_wrote h.sound cell d hits
  rw [he]
  exact ⟨l1_empty, rfl, rfl⟩

theorem exec_cadd : exec (.cadd a base c x) s =
    .next (withWave (u.addAll cell (s.wave.lanePair a) hits) ((u.wave.toldBF false true false false).completed x.slots)) := by
  have adds := State.addLanes_eq h.sound cell (s.wave.lanePair a) hits h.cells
  obtain ⟨l1_empty, wave, -⟩ := h.addAll_keeps (s.wave.lanePair a)
  have budget : (s.wave.srcOk 2 a && s.wave.offsetOk base c) = true := by
    rw [Wave.srcOk_of_inBudget h.deltas, Wave.offsetOk, Wave.srcOk_of_srcFits h.offsets]; rfl
  refine congrArg Host.Outcome.next ((s.perform_body _ _ budget (by simp) rfl s.fragReaders_noVector).trans ?_)
  rw [State.ctrLanes_of_reaches false true h.reaches h.plain adds l1_empty (wave ▸ h.gathB) (wave ▸ h.gathF), wave]

theorem exec_cfadd : exec (.cfadd a base c x) s =
    .next (withWave (u.addAll cell (s.wave.lanePair a) hits) (fetchAddWave u a x.slots cell hits)) := by
  have adds := State.fetchAddLanes_eq h.sound cell (s.wave.lanePair a) hits h.cells h.apart
  obtain ⟨l1_empty, wave, -⟩ := h.addAll_keeps (s.wave.lanePair a)
  have budget : (s.wave.groupOk 2 a && s.wave.offsetOk base c) = true := by
    rw [Wave.groupOk_of_inBudget h.deltas, Wave.offsetOk, Wave.srcOk_of_srcFits h.offsets]; rfl
  obtain ⟨regs, put⟩ := u.wave.putLanes_eq a 2 (valuesBefore u cell hits)
  let t := (u.addAll cell (s.wave.lanePair a) hits).onWave (·.putLanes a 2 (valuesBefore u cell hits))
  have after : t.wave = u.wave.putLanes a 2 (valuesBefore u cell hits) := congrArg (Wave.putLanes · a 2 _) wave
  refine congrArg Host.Outcome.next ((s.perform_body _ _ budget (by simp) rfl (s.fragReaders_nil _ _ h.noMmas)).trans ?_)
  rw [State.ctrLanes_of_reaches (t := t) true true h.reaches h.plain (by rw [adds]; rfl) l1_empty
    (by rw [after, put]; exact h.gathB) (by rw [after, put]; exact h.gathF), after]
  rfl

/-! ### What the statement says of the outcome -/

theorem AddsReach.adds (w : Wave) :
    let t := withWave (u.addAll cell (s.wave.lanePair a) hits) w
    (∀ h ∈ hits, t.ctrValue (cell h) = u.ctrValue (cell h) + BitVec.ofNat 64 (laneOf s.wave a 2 h.pos)) ∧
      t.cst = u.cst ∧ ∀ k, (∀ h ∈ hits, k < cell h ∨ cell h + 8 ≤ k) → t.rawByte k = u.rawByte k := by
  refine ⟨fun g hg => ?_, (h.addAll_keeps _).2.2, fun k hk => State.addAll_byte h.sound cell _ hits k hk⟩
  rw [← Wave.lanePair_registers h.deltas.1]
  exact State.addAll_value h.sound cell _ hits h.apart hg

end

section
variable (u : State) (a : BitVec 8) (x : Slots) (cell : Hit → Nat) (hits : List Hit)

theorem fetchAddWave_keeps :
    let w := fetchAddWave u a x cell hits
    w.pc = u.wave.pc + 8#64 ∧ w.s = u.wave.s ∧ w.k = u.wave.k ∧ w.x = u.wave.x ∧ w.tile = u.wave.tile := by
  obtain ⟨regs, put⟩ := u.wave.putLanes_eq a 2 (valuesBefore u cell hits)
  obtain ⟨cc, told⟩ := (u.wave.putLanes a 2 (valuesBefore u cell hits)).toldBF_eq true true
    (hits.any fun h => decide (u.ctrStatus (cell h) ≠ .ok)) (hits.any fun h => decide (u.ctrStatus (cell h) = .faulted))
  rw [fetchAddWave, told, put]
  exact ⟨rfl, rfl, rfl, rfl, rfl⟩

theorem fetchAddWave_getV (r l : Nat) :
    (fetchAddWave u a x cell hits).getV r l = (u.wave.putLanes a 2 (valuesBefore u cell hits)).getV r l := by
  obtain ⟨cc, told⟩ := (u.wave.putLanes a 2 (valuesBefore u cell hits)).toldBF_eq true true
    (hits.any fun h => decide (u.ctrStatus (cell h) ≠ .ok)) (hits.any fun h => decide (u.ctrStatus (cell h) = .faulted))
  rw [fetchAddWave, told]
  rfl

theorem fetchAddWave_cc (h : u.wave.lanes ≠ []) :
    (fetchAddWave u a x cell hits).cc.getLsbD 4 = hits.any (fun h => decide (u.ctrStatus (cell h) ≠ .ok)) ∧
      (fetchAddWave u a x cell hits).cc.getLsbD 5 = hits.any (fun h => decide (u.ctrStatus (cell h) = .faulted)) := by
  obtain ⟨regs, put⟩ := u.wave.putLanes_eq a 2 (valuesBefore u cell hits)
  exact Wave.toldBF_cc _ _ _ (by rw [put]; exact h)

theorem valuesBefore_lt (hlt : ∀ h ∈ hits, h.pos < 32) : ∀ e ∈ valuesBefore u cell hits, e.1 < 32 := by
  rintro e he
  obtain ⟨g, hg, rfl⟩ := List.mem_map.1 he
  exact hlt g hg

theorem fetchAddWave_value (ha : a.toNat < 0xF0) (hlt : ∀ h ∈ hits, h.pos < 32) (hnd : (hits.map (·.pos)).Nodup)
    {h : Hit} (hh : h ∈ hits) :
    (fetchAddWave u a x cell hits).getV a.toNat h.pos = BitVec.ofNat 32 (u.ctrValue (cell h)).toNat ∧
      (fetchAddWave u a x cell hits).getV (a.toNat + 1) h.pos =
        BitVec.ofNat 32 ((u.ctrValue (cell h)).toNat / 2 ^ 32) := by
  have lanes : (valuesBefore u cell hits).map Prod.fst = hits.map (·.pos) := List.map_map
  have written : (h.pos, (u.ctrValue (cell h)).toNat) ∈ valuesBefore u cell hits := List.mem_map_of_mem hh
  rw [fetchAddWave_getV, fetchAddWave_getV]
  exact u.wave.getV_putLanes_pair a _ ha (valuesBefore_lt u cell hits hlt) (lanes ▸ hnd) written

theorem fetchAddWave_other (ha : a.toNat < 0xF0) (hlt : ∀ h ∈ hits, h.pos < 32) (r l : Nat) (hl : l < 32)
    (hout : r < a.toNat ∨ a.toNat + 2 ≤ r ∨ ∀ h ∈ hits, h.pos ≠ l) :
    (fetchAddWave u a x cell hits).getV r l = u.wave.getV r l := by
  rw [fetchAddWave_getV]
  refine u.wave.getV_putLanes_other a _ r l ha (valuesBefore_lt u cell hits hlt) hl ?_
  refine hout.imp_right (Or.imp_right fun none_there e he => ?_)
  obtain ⟨g, hg, rfl⟩ := List.mem_map.1 he
  exact none_there g hg

end

/-- Settles O26: at a home each operation writes its cell and then judges the cell's waiters; CADD and CFADD, their accesses
checked, are a fold of such adds, which cells that lie apart make independent of each other. -/
theorem counterHomesAndAdds : Obligations.CounterHomesAndAdds := by
  unfold Obligations.CounterHomesAndAdds
  refine ⟨?_, ?_⟩
  · intro s key d v st hok hf hp ha hr old was takes fires ends
    have settled : ∀ {op v st}, s.CellSettled (s.ctrPerform key op) key v st → ends op v st := fun {op v st} h =>
      ⟨_, exec_homeCounterOperation s key op hok hf hr, h.value, h.status, h.wave, h.waves, h.bytes, h.statuses,
        fun e he => (e.endedBy_iff key v st).symm.trans (h.removed e he), h.noneAdded,
        fun e he hit => h.woken e he ((e.endedBy_iff key v st).2 hit)⟩
    refine ⟨settled (s.ctrAdd_settled key d hp ha), settled (s.ctrInit_settled key v hp ha),
      fun taken => settled (s.ctrBreak_settled key st ha taken), fun ignored => ?_⟩
    rw [exec_homeCounterOperation s key _ hok hf hr]
    exact congrArg Host.Outcome.next (s.ctrBreak_ignored key st ha ignored)
  · intro s u a base c x hits cell w f delta hm hplain hp hr _ hb hf hlanes hbudget hoffs hreach hnodup hpos hcell hapart adds
    have deltas : (fun l => deltaBad (w.lanePair a l)) = fun l => decide (2 ^ 63 ≤ laneOf w a 2 l) :=
      funext (deltaBad_lanePair hbudget.1 w)
    have ⟨_, _, _, no_shadow⟩ := hplain
    have ⟨_, _, _, _, upset, _⟩ := hreach
    have sound : u.CellsSound := ⟨hp, no_shadow, upset, hr⟩
    have reach : AddsReach s u a base c x hits cell := ⟨hm, hplain, sound, hb, hf, hbudget, hoffs, deltas ▸ hreach, hcell,
      hnodup.of_map.pairwise_of_forall_ne hapart⟩
    have lane_lt : ∀ h ∈ hits, h.pos < 32 := fun h hh =>
      Wave.lt_of_mem_lanes (hpos ▸ List.mem_map_of_mem hh : h.pos ∈ w.lanes)
    refine ⟨⟨_, exec_cadd reach, reach.adds _, ?_⟩, ⟨_, exec_cfadd reach, reach.adds _, ?_⟩⟩
    · rw [Wave.toldBF_onlyF, hlanes]
      split <;> rfl
    · obtain ⟨pc, s_regs, k_regs, x_regs, tile⟩ := fetchAddWave_keeps u a x.slots cell hits
      exact ⟨pc, s_regs, k_regs, x_regs, tile, fun lanes => fetchAddWave_cc u a x.slots cell hits (hlanes ▸ lanes),
        fun h hh => fetchAddWave_value u a x.slots cell hits hbudget.1 lane_lt hnodup hh,
        fetchAddWave_other u a x.slots cell hits hbudget.1 lane_lt⟩

end Sys2Proof.Proofs
end

section
/-! PROOF. What a vector instruction reads and writes lane by lane: a source of one or two registers (R183), and the registers
after a value for every lane at work (R138, R234). -/

namespace Sys2Proof.Machine

open Sys2Proof.Claims

/-! ### Lanes at work (R138) -/

theorem Wave.mem_lanes (w : Wave) {l : Nat} : l ∈ w.lanes ↔ l < 32 ∧ w.activeMask.getLsbD l = true := by
  simp only [Wave.lanes, lanesOf, List.mem_filter, mem_upto]

theorem getLsbD_maskOf (ps : List Nat) {i : Nat} (hi : i < 32) : (maskOf ps).getLsbD i = decide (i ∈ ps) := by
  have added : ∀ m : Word, (ps.foldl (fun m p => m ||| BitVec.ofNat 32 (2 ^ p)) m).getLsbD i =
      (m.getLsbD i || decide (i ∈ ps)) := by
    induction ps with
    | nil => simp
    | cons p ps ih =>
      intro m
      have bit : (BitVec.ofNat 32 (2 ^ p)).getLsbD i = decide (i = p) := by
        rw [BitVec.getLsbD_ofNat, Nat.testBit_two_pow, decide_eq_true hi, Bool.true_and]
        exact decide_eq_decide.2 eq_comm
      rw [List.foldl_cons, ih, BitVec.getLsbD_or, bit, Bool.or_assoc, ← Bool.decide_or]
      simp only [List.mem_cons]
  rw [maskOf, added, BitVec.getLsbD_zero, Bool.false_or]

theorem Wave.getLsbD_maskWhere (w : Wave) (p : Nat → Bool) {i : Nat} (hi : i < 32) :
    (w.maskWhere p).getLsbD i = (w.activeMask.getLsbD i && p i) := by
  rw [Wave.maskWhere, getLsbD_maskOf _ hi, Bool.eq_iff_iff]
  simp only [decide_eq_true_eq, List.mem_filter, Wave.mem_lanes, hi, true_and, Bool.and_eq_true]

/-- A number whose bits are the lanes at work that hold is the mask of those lanes. -/
theorem Wave.maskWhere_toNat {w : Wave} {p : Nat → Bool} {v : Nat} (hv : v < 2 ^ 32)
    (h : ∀ i < 32, v.testBit i = true ↔ w.activeMask.getLsbD i = true ∧ p i = true) : (w.maskWhere p).toNat = v := by
  have mask : w.maskWhere p = BitVec.ofNat 32 v := BitVec.eq_of_getLsbD_eq fun i hi => by
    rw [w.getLsbD_maskWhere p hi, BitVec.getLsbD_ofNat, Bool.eq_iff_iff, Bool.and_eq_true, ← h i hi]
    simp only [hi, decide_true, Bool.true_and]
  rw [mask, BitVec.toNat_ofNat, Nat.mod_eq_of_lt hv]

/-! ### Operands (R136, R183) -/

theorem Wave.dstOk_of_dstFits {w : Wave} {n : Nat} {c : BitVec 8} (h : dstFits w n c) : w.dstOk n c = true := by
  rcases h with ⟨register, aligned, fits⟩ | rfl
  · simp [Wave.dstOk, register, aligned, fits]
  · rfl

/-- A destination that fits holds registers just where it does not discard. -/
theorem register_iff_of_dstFits {w : Wave} {n : Nat} {c : BitVec 8} (h : dstFits w n c) : c.toNat < 0xF0 ↔ c ≠ 0xFF#8 := by
  rcases h with ⟨register, -⟩ | rfl
  · exact iff_of_true register (by rintro rfl; exact absurd register (by decide))
  · decide

theorem regs_eq_one_or_two (t : EType) : t.regs = 1 ∨ t.regs = 2 := by
  unfold EType.regs
  split
  · exact .inr rfl
  · exact .inl rfl

/-- A source code is one of the four special ones, or it is read as registers. -/
theorem sourceCode_cases (c : BitVec 8) : c = 0xF0#8 ∨ c = 0xF1#8 ∨ c = 0xF2#8 ∨ c = 0xF3#8 ∨
    (c.toNat ≠ 0xF0 ∧ c.toNat ≠ 0xF1 ∧ c.toNat ≠ 0xF2 ∧ c.toNat ≠ 0xF3) := by
  simp only [← BitVec.toNat_inj, BitVec.toNat_ofNat]
  omega

theorem Wave.laneWord_toNat (w : Wave) (c : BitVec 8) {l : Nat} (hl : l < 2 ^ 32) :
    (w.laneWord c l).toNat = laneOf w c 1 l := by
  obtain rfl | rfl | rfl | rfl | ⟨h0, h1, h2, h3⟩ := sourceCode_cases c
  · rfl
  · exact (BitVec.toNat_ofNat l 32).trans (Nat.mod_eq_of_lt hl)
  · rfl
  · rfl
  · simp [Wave.laneWord, laneOf, ← BitVec.toNat_inj, h0, h1, h2, h3]

theorem Wave.laneNat_pair (w : Wave) (c : BitVec 8) (l : Nat) : w.laneNat c l 2 = laneOf w c 2 l := by
  obtain rfl | rfl | rfl | rfl | ⟨h0, h1, h2, h3⟩ := sourceCode_cases c
  · rfl
  · rfl
  · rfl
  · rfl
  · simp [Wave.laneNat, Wave.laneNat.natOfRegs, laneOf, ← BitVec.toNat_inj, h0, h1, h2, h3]

theorem Wave.src_eq_laneOf (w : Wave) (c : BitVec 8) {l : Nat} (hl : l < 2 ^ 32) :
    w.src c l = laneOf w c w.etype.regs l := by
  rw [Wave.src]
  rcases regs_eq_one_or_two w.etype with one | two
  · rw [one]
    exact w.laneWord_toNat c hl
  · rw [two]
    exact w.laneNat_pair c l

/-! ### A value for every lane at work (R234) -/

theorem Wave.getV_putRegs (w : Wave) (a n v r : Nat) {p l : Nat} (hp : p < 32) (hl : l < 32) :
    (w.putRegs a p v n).getV r l =
      if l = p ∧ a ≤ r ∧ r < a + n then BitVec.ofNat 32 (v / 2 ^ (32 * (r - a))) else w.getV r l := by
  induction n generalizing w a v with
  | zero => rw [if_neg (by omega)]; rfl
  | succ n ih =>
    rw [Wave.putRegs, ih, Wave.getV_setV _ _ _ _ _ _ hp hl]
    by_cases first : r = a ∧ l = p
    · obtain ⟨rfl, rfl⟩ := first
      simp
    · rw [if_neg first]
      refine ite_congr (propext (by omega)) (fun inside => ?_) fun _ => rfl
      rw [Nat.div_div_eq_div_mul, ← pow_add]
      congr 3
      omega

theorem Wave.getV_putLane (w : Wave) (a : BitVec 8) (n v r : Nat) {p l : Nat} (hp : p < 32) (hl : l < 32) :
    (w.putLane a p n v).getV r l =
      if l = p ∧ a.toNat < 0xF0 ∧ a.toNat ≤ r ∧ r < a.toNat + n then BitVec.ofNat 32 (v / 2 ^ (32 * (r - a.toNat)))
      else w.getV r l := by
  unfold Wave.putLane
  split
  · next register => simp only [w.getV_putRegs a.toNat n v r hp hl, register, true_and]
  · next discarded => simp only [discarded, false_and, and_false, if_false]

theorem Wave.getV_putLanes_map (w : Wave) (a : BitVec 8) (n : Nat) (f : Nat → Nat) (ps : List Nat) (r : Nat) {l : Nat}
    (hps : ∀ p ∈ ps, p < 32) (hl : l < 32) : (w.putLanes a n (ps.map fun p => (p, f p))).getV r l =
      if l ∈ ps ∧ a.toNat < 0xF0 ∧ a.toNat ≤ r ∧ r < a.toNat + n then BitVec.ofNat 32 (f l / 2 ^ (32 * (r - a.toNat)))
      else w.getV r l := by
  induction ps generalizing w with
  | nil => simp [Wave.putLanes]
  | cons p ps ih =>
    obtain ⟨here, there⟩ := List.forall_mem_cons.1 hps
    refine (ih (w.putLane a p n (f p)) there).trans ?_
    rw [w.getV_putLane a n (f p) r here hl]
    by_cases inside : a.toNat < 0xF0 ∧ a.toNat ≤ r ∧ r < a.toNat + n
    · by_cases same : l = p
      · subst same
        simp [inside]
      · simp [inside, same]
    · simp only [inside, and_false, if_false]

theorem Wave.getV_byLane (w : Wave) (a : BitVec 8) (n : Nat) (f : Nat → Nat) (r : Nat) {l : Nat} (hl : l < 32) :
    (w.byLane a n f).getV r l =
      if w.activeMask.getLsbD l = true ∧ a.toNat < 0xF0 ∧ a.toNat ≤ r ∧ r < a.toNat + n then
        BitVec.ofNat 32 (f l / 2 ^ (32 * (r - a.toNat)))
      else w.getV r l := by
  rw [Wave.byLane, w.getV_putLanes_map a n f w.lanes r (fun _ => Wave.lt_of_mem_lanes) hl]
  simp only [Wave.mem_lanes, hl, true_and]

/-- An instruction that gives every lane at work a value and moves on writes those lanes and nothing else. -/
theorem writesLanes_of_byLane {s : State} {i : Instr} {n : Nat} {a : BitVec 8} {k : Nat} {f val : Nat → Nat}
    (hx : exec i s = .next ((s.onWave (·.byLane a k f)).next n)) (ha : dstFits s.wave k a)
    (hval : ∀ l < 32, f l = val l) : writesLanes s i n a k val := by
  obtain ⟨regs, written⟩ := s.wave.putLanes_eq a k (s.wave.lanes.map fun l => (l, f l))
  refine ⟨regs, hx.trans (congrArg Host.Outcome.next ?_), fun r l hl => ?_⟩
  · exact congrArg (fun w => withWave s (past n w)) written
  · have read := s.wave.getV_byLane a k f r hl
    rw [Wave.byLane, written] at read
    simp only [register_iff_of_dstFits ha, hval l hl] at read
    exact read

end Sys2Proof.Machine
end

section
/-! PROOF. The cross-lane unit behind its checks, and the source positions of shuffles (R257, R371 unit 5). -/

namespace Sys2Proof.Machine

open Sys2Proof.Claims

theorem crossWork_eq {s : State} (h : WorksIn s s.wave.lanes) (cls : Check) (dst : BitVec 8 × Nat) {budget : Bool}
    (hb : budget = true) (n : Nat) (f : Wave → Wave) : crossWork cls dst budget true n f s = .next ((s.onWave f).next n) := by
  obtain ⟨⟨unstruck, upset⟩, no_mmas⟩ := h
  refine congrArg Host.Outcome.next ?_
  rw [s.perform_body _ _ hb (by simp) rfl (s.fragReaders_nil _ _ no_mmas), s.checked_body _ _ _ _ _ upset unstruck]

/-- The base of a lane's segment, its position rounded down (R257). -/
theorem shuffleFrom_idx (w d l idx : Nat) :
    shuffleFrom .idx w d l idx = some (l / 2 ^ w * 2 ^ w + idx % 2 ^ w) := by
  rw [Nat.div_mul_self_eq_mod_sub_self]; rfl

theorem shuffleFrom_bcast (w d l idx : Nat) : shuffleFrom .bcast w d l idx = some (l / 2 ^ w * 2 ^ w + d) := by
  rw [Nat.div_mul_self_eq_mod_sub_self]; rfl

/-- A source position lies in the lane's segment, or one distance from a lane. -/
theorem shuffleFrom_lt {kind : ShflKind} {w d l idx t : Nat} (hw : w ≤ 5) (hd : d < 32) (hl : l < 32)
    (h : shuffleFrom kind w d l idx = some t) : t < 64 := by
  have segment : 2 ^ w ≤ 32 := Nat.pow_le_pow_right (by decide) hw
  have inside : idx % 2 ^ w < 2 ^ w := Nat.mod_lt _ (Nat.two_pow_pos w)
  cases kind with
  | idx => cases h; omega
  | bcast => cases h; omega
  | xor =>
    cases h
    exact (Nat.xor_lt_two_pow (n := 5) hl hd).trans (by decide)
  | up =>
    simp only [shuffleFrom] at h
    split at h <;> cases h
    omega
  | down =>
    simp only [shuffleFrom] at h
    split at h <;> cases h
    omega

/-- What a lane receives: what it finds at its source position, or 0 or its own value where it has none (R257). -/
def shuffled (w : Wave) (kind : ShflKind) (zf : Bool) (ws d : Nat) (b c : BitVec 8) (l : Nat) : Nat :=
  let x := laneOf w b w.etype.regs
  (shuffleFrom kind ws d l (laneOf w c 1 l)).elim (if zf then 0 else x l) x

theorem Wave.shuffle_eq (w : Wave) (kind : ShflKind) (zf : Bool) {ws d : Nat} (a b c : BitVec 8) (hw : ws ≤ 5)
    (hd : d < 32) : w.shuffle kind zf ws d a b c = w.byLane a w.etype.regs (shuffled w kind zf ws d b c) := by
  refine congrArg (w.putLanes a w.etype.regs) (List.map_congr_left fun l hl => congrArg (Prod.mk l) ?_)
  have lane := Wave.lt_of_mem_lanes hl
  have word : l < 2 ^ 32 := lane.trans (by decide)
  beta_reduce
  rw [w.laneWord_toNat c word, w.src_eq_laneOf b word, shuffled]
  split
  · next t found => rw [found, w.src_eq_laneOf b ((shuffleFrom_lt hw hd lane found).trans (by decide))]; rfl
  · next none_found => rw [none_found]; rfl

end Sys2Proof.Machine
end

section
/-! PROOF. VSHFL, VSHFLX and VMATCH: the settled statement. -/

namespace Sys2Proof.Proofs

open Sys2Proof.Machine Sys2Proof.Claims

section
variable {s : State} {a b c : BitVec 8} (works : WorksIn s s.wave.lanes) (hb : srcFits s.wave s.wave.etype.regs b)
include works hb

theorem vshfl_writesLanes {val : Nat → Nat} (ha : dstFits s.wave s.wave.etype.regs a) (hc : srcFits s.wave 1 c)
    (hval : ∀ l < 32, shuffled s.wave .idx false 5 0 b c l = val l) :
    writesLanes s (.vshfl a b c) 4 a s.wave.etype.regs val := by
  have budget : (s.wave.dstOk s.wave.etype.regs a && s.wave.srcOk s.wave.etype.regs b && s.wave.srcOk 1 c) = true := by
    rw [Wave.dstOk_of_dstFits ha, Wave.srcOk_of_srcFits hb, Wave.srcOk_of_srcFits hc]; rfl
  refine writesLanes_of_byLane ((crossWork_eq works .parity _ budget 4 _).trans ?_) ha hval
  rw [State.onWave, s.wave.shuffle_eq .idx false a b c (by decide) (by decide)]
  rfl

theorem vshflx_writesLanes {kind : ShflKind} {zf : Bool} {ws : BitVec 3} {d : BitVec 5} {val : Nat → Nat}
    (ha : dstFits s.wave s.wave.etype.regs a) (hws : ws.toNat ≤ 5) (hc : kind = .idx → srcFits s.wave 1 c)
    (hval : ∀ l < 32, shuffled s.wave kind zf ws.toNat d.toNat b c l = val l) :
    writesLanes s (.vshflx kind zf ws d a b c) 8 a s.wave.etype.regs val := by
  have index : (decide (kind ≠ .idx) || s.wave.srcOk 1 c) = true := by
    by_cases indexed : kind = .idx
    · rw [Wave.srcOk_of_srcFits (hc indexed), Bool.or_true]
    · rw [decide_eq_true indexed, Bool.true_or]
  have budget : (s.wave.dstOk s.wave.etype.regs a && s.wave.srcOk s.wave.etype.regs b &&
      (decide (kind ≠ .idx) || s.wave.srcOk 1 c)) = true := by
    rw [Wave.dstOk_of_dstFits ha, Wave.srcOk_of_srcFits hb, index]; rfl
  refine writesLanes_of_byLane ((crossWork_eq works .parity _ budget 8 _).trans ?_) ha hval
  rw [State.onWave, s.wave.shuffle_eq kind zf a b c hws d.isLt]
  rfl

theorem vmatch_writesLanes {val : Nat → Nat} (ha : dstFits s.wave 1 a)
    (hval : ∀ l < 32, (s.wave.maskWhere fun i => s.wave.matchKey b i = s.wave.matchKey b l).toNat = val l) :
    writesLanes s (.vmatch a b) 4 a 1 val := by
  have budget : (s.wave.dstOk 1 a && s.wave.srcOk s.wave.etype.regs b) = true := by
    rw [Wave.dstOk_of_dstFits ha, Wave.srcOk_of_srcFits hb]; rfl
  exact writesLanes_of_byLane (crossWork_eq works .parity _ budget 4 _) ha hval

end

/-- Settles O17: the cross-lane unit gives every lane at work its shuffled value or its mask, and the source position of each
kind is the one that R257 names. -/
theorem shuffles : Obligations.Shuffles := by
  unfold Obligations.Shuffles
  intro s a b c zf ws d val w t n works hb x idx seg none' shift
  refine ⟨fun ha hc => ?_, fun ha hws => ⟨fun hc => ?_, ?_, ?_, ?_, ?_⟩, fun ha => ?_⟩
  · refine vshfl_writesLanes works hb ha hc fun l hl => ?_
    rw [shuffled, shuffleFrom_idx, Nat.div_eq_of_lt (show l < 2 ^ 5 from hl), Nat.zero_mul, Nat.zero_add]
    rfl
  · refine vshflx_writesLanes works hb ha hws (fun _ => hc) fun l _ => ?_
    rw [shuffled, shuffleFrom_idx]
    rfl
  · refine vshflx_writesLanes works hb ha hws nofun fun l _ => ?_
    rw [shuffled, shuffleFrom]
    exact apply_ite (Option.elim · (none' l) x) _ _ _
  · refine vshflx_writesLanes works hb ha hws nofun fun l _ => ?_
    rw [shuffled, shuffleFrom]
    exact apply_ite (Option.elim · (none' l) x) _ _ _
  · exact vshflx_writesLanes works hb ha hws nofun fun _ _ => rfl
  · refine vshflx_writesLanes works hb ha hws nofun fun l _ => ?_
    rw [shuffled, shuffleFrom_bcast]
    rfl
  · intro width hval
    refine vmatch_writesLanes works hb ha fun l hl => ?_
    obtain ⟨word, bits⟩ := hval l hl
    have key : ∀ i < 32, w.matchKey b i = x i % 2 ^ width := fun i hi => by
      rw [Wave.matchKey, w.src_eq_laneOf b (hi.trans (by decide))]
    refine Wave.maskWhere_toNat word fun i hi => ?_
    rw [bits i hi, key i hi, key l hl, decide_eq_true_eq]

end Sys2Proof.Proofs
end

section
/-! PROOF. The checks of an instruction that end in a trap: registers outside the budget, and a missing privilege (R195). -/

namespace Sys2Proof.Machine

/-- A register outside the budget is the first check that traps. -/
theorem State.perform_outOfBudget {s : State} {n : Need} (body : State → State) (hb : n.budget = false) :
    s.perform n body = s.trap .illRsvd := by
  simp [State.perform, hb]

/-- Privilege is checked behind the budget. -/
theorem State.perform_unprivileged {s : State} {n : Need} (body : State → State) (hb : n.budget = true)
    (hn : n.privileged = true) (hp : s.wave.priv = false) : s.perform n body = s.trap .illPriv := by
  simp [State.perform, hb, hn, hp]

/-- A group of registers may begin at any register: `inBudget` asks for alignment, this check does not. -/
theorem Wave.groupOk_iff (w : Wave) (n : Nat) (c : BitVec 8) :
    w.groupOk n c = true ↔ c.toNat < 0xF0 ∧ c.toNat + n ≤ 8 * w.vblk := by
  simp [Wave.groupOk]

end Sys2Proof.Machine
end

section
/-! PROOF. The instructions whose effect is a trap: BKPT, an unassigned opcode, UIRET, WHALT and SVC, and the settled
statement. -/

namespace Sys2Proof.Proofs

open Sys2Proof.Machine Sys2Proof.Claims

/-! ### BKPT, an unassigned opcode, UIRET and WHALT -/

section
variable (s : State)

theorem exec_bkpt (code : BitVec 8) :
    exec (.bkpt code) s = .next (s.takeTrap .bkpt code.toNat 0xFF 0#64 (s.wave.pc + 4#64)) := rfl

/-- The record shows the word that was fetched (R357). -/
theorem exec_unassignedOpcode (word : Word) :
    exec (.unassignedOpcode word) s = .next (({ s with iword := word } : State).trap .undefOp) := rfl

theorem exec_uiret_outside (h : s.wave.uiAct = false) : exec .uiret s = .next (s.trap .illConv) :=
  congrArg Host.Outcome.next (if_neg (ne_true_of_eq_false h))

theorem exec_whalt_unprivileged (b : BitVec 8) (h : s.wave.priv = false) :
    exec (.whalt b) s = .next (s.trap .illPriv) :=
  congrArg Host.Outcome.next (State.perform_unprivileged _ rfl rfl h)

theorem exec_whaltRes_unprivileged (b : BitVec 8) (h : s.wave.priv = false) :
    exec (.whaltRes b) s = .next (s.trap .illPriv) :=
  congrArg Host.Outcome.next (State.perform_unprivileged _ rfl rfl h)

/-! ### SVC (R228) -/

/-- SVC writes no vector register, so within its budget it waits for no MMA: a handler and a side of a redundant pair
make no call. -/
theorem exec_svc_uncallable (code : BitVec 8) {a b : BitVec 8} (ha : s.wave.groupOk 8 a = true)
    (hb : s.wave.groupOk 4 b = true) (h : s.wave.uiAct = true ∨ s.wave.pair.isSome = true) :
    exec (.svc code a b) s = .next (s.takeTrap .svc code.toNat 0xFF 0#64 (s.wave.pc + 4#64)) := by
  have budget : (s.wave.groupOk 8 a && s.wave.groupOk 4 b) = true := (Bool.and_eq_true ..).mpr ⟨ha, hb⟩
  have uncallable : (s.wave.uiAct || s.wave.pair.isSome) = true := (Bool.or_eq_true ..).mpr h
  refine congrArg Host.Outcome.next ((s.perform_body _ _ budget ?_ rfl s.fragReaders_noVector).trans (if_pos uncallable))
  exact nofun

theorem exec_svc_outOfBudget (code : BitVec 8) {a b : BitVec 8} (h : ¬ (s.wave.groupOk 8 a = true ∧ s.wave.groupOk 4 b = true)) :
    exec (.svc code a b) s = .next (s.trap .illRsvd) := by
  have budget : (s.wave.groupOk 8 a && s.wave.groupOk 4 b) = false := by
    rwa [← Bool.not_eq_true, Bool.and_eq_true]
  exact congrArg Host.Outcome.next (State.perform_outOfBudget _ budget)

end

/-- Settles O7: each of these instructions is its trap, SVC and WHALT behind the checks of R195. -/
theorem trappingInstructions : Obligations.TrappingInstructions := by
  unfold Obligations.TrappingInstructions
  refine ⟨rfl, fun s code a b word => ⟨rfl, exec_bkpt s code, exec_unassignedOpcode s word, exec_uiret_outside s,
    fun fitsA regA fitsB regB => exec_svc_uncallable s code ((Wave.groupOk_iff ..).2 ⟨regA, fitsA⟩)
      ((Wave.groupOk_iff ..).2 ⟨regB, fitsB⟩), fun outside => exec_svc_outOfBudget s code ?_,
    fun unprivileged => ⟨exec_whalt_unprivileged s b unprivileged, exec_whaltRes_unprivileged s b unprivileged⟩⟩⟩
  rw [Wave.groupOk_iff, Wave.groupOk_iff]
  omega

end Sys2Proof.Proofs
end

section
/-! PROOF. The work of a vector datapath behind its checks, and the instructions that compute element by element (R234,
R235, R371). -/

namespace Sys2Proof.Machine

open Sys2Proof.Claims

theorem upto_eq_range (n : Nat) : upto n = List.range n := by
  induction n with
  | zero => rfl
  | succ n ih => rw [upto, ih, List.range_succ]

theorem Wave.shape_of_accepted {w : Wave} {accepts : Bool} (h : accepts = true) : w.shape accepts = w.etype.regs :=
  if_pos h

/-- The integer in element `j` of what lane `l` reads of a source (R237). -/
def Wave.laneInt (w : Wave) (c : BitVec 8) (l j : Nat) : Int :=
  w.etype.toInt (w.etype.elem (laneOf w c w.etype.regs l) j)

/-- The float value of element `j` of what lane `l` reads of a source (R245). -/
def Wave.laneFloat (w : Wave) (c : BitVec 8) (l j : Nat) : FVal :=
  w.fin (w.etype.elem (laneOf w c w.etype.regs l) j)

section
variable {s : State} {i : Instr} {cls : Check} {budget accepts : Bool} {nb : Nat} {f : Wave → Wave}
  (works : WorksIn s s.wave.lanes)
include works

theorem vectorWork_eq (cls : Check) (dst : BitVec 8 × Nat) (hb : budget = true) (haccepts : accepts = true) (nb : Nat)
    (f : Wave → Wave) : vectorWork cls dst budget accepts nb f s = .next ((s.onWave f).next nb) := by
  obtain ⟨⟨unstruck, upset⟩, no_mmas⟩ := works
  refine congrArg Host.Outcome.next ?_
  rw [s.perform_body _ _ hb (by simp) haccepts (s.fragReaders_nil _ _ no_mmas), State.checkedVec, unstruck]
  exact s.sound_body _ _ _ _ _ upset

variable {a : BitVec 8} {dst : BitVec 8 × Nat} (ha : dstFits s.wave s.wave.etype.regs a)
include ha

/-- An instruction that computes its result element by element writes in each lane at work the elements of its sources
there, put together. -/
theorem writesLanes_of_byElem {r : Nat → Nat → Nat → Nat → Nat → Nat} {x y z val : Nat → Nat} (hb : budget = true)
    (haccepts : accepts = true) (hx : exec i s = vectorWork cls dst budget accepts nb f s)
    (hf : f s.wave = s.wave.byElem a r x y z)
    (hval : ∀ l < 32, (perElement s.wave.etype fun j =>
      r l j (s.wave.etype.elem (x l) j) (s.wave.etype.elem (y l) j) (s.wave.etype.elem (z l) j)) = val l) :
    writesLanes s i nb a s.wave.etype.regs val := by
  refine writesLanes_of_byLane (hx.trans ((vectorWork_eq works cls dst hb haccepts nb f).trans ?_)) ha hval
  simp only [State.onWave, hf, Wave.byElem, perElement, upto_eq_range]

/-- A move writes whole lane values under every type. -/
theorem moveWork_writesLanes {g : Wave → Nat → Nat} {val : Nat → Nat} (hb : budget = true)
    (hx : exec i s = moveWork nb budget a g s) (hval : ∀ l < 32, g s.wave l = val l) :
    writesLanes s i nb a s.wave.etype.regs val := by
  have fits : (s.wave.dstOk s.wave.etype.regs a && budget) = true := by
    rw [Wave.dstOk_of_dstFits ha, hb]; rfl
  exact writesLanes_of_byLane (hx.trans (vectorWork_eq works _ _ fits rfl nb _)) ha hval

theorem intUnary_writesLanes {types : EType → Bool} (r : EType → Bool → Nat → Nat) {b : BitVec 8} {val : Nat → Nat}
    (hb : srcFits s.wave s.wave.etype.regs b) (accepted : types s.wave.etype = true)
    (hx : exec i s = intUnary cls types r a b s)
    (hval : ∀ l < 32, (perElement s.wave.etype fun j => r s.wave.etype s.wave.sat
      (s.wave.etype.elem (laneOf s.wave b s.wave.etype.regs l) j)) = val l) :
    writesLanes s i 4 a s.wave.etype.regs val := by
  refine writesLanes_of_byElem works ha ?_ accepted hx rfl fun l hl => ?_
  · simp only [Wave.shape_of_accepted accepted, Wave.dstOk_of_dstFits ha, Wave.srcOk_of_srcFits hb, Bool.and_self]
  · rw [s.wave.src_eq_laneOf b (hl.trans (by decide))]
    exact hval l hl

/-- A float instruction writes each element computed from the decoded elements of its sources and rounded once (R245). -/
theorem floatOp_writesLanes {types : EType → Bool} {srcs : List (BitVec 8)} {r : Wave → FVal → FVal → FVal → FVal}
    {x y z : BitVec 8} (hsrcs : ∀ c ∈ srcs, srcFits s.wave s.wave.etype.regs c) (accepted : types s.wave.etype = true)
    (hx : exec i s = floatOp types srcs cls nb a r x y z s) :
    let w := s.wave
    writesLanes s i nb a w.etype.regs fun l => perElement w.etype fun j =>
      w.fout l j (r w (w.laneFloat x l j) (w.laneFloat y l j) (w.laneFloat z l j)) := by
  refine writesLanes_of_byElem works ha ?_ accepted hx rfl fun l hl => ?_
  · rw [Wave.shape_of_accepted accepted, Wave.dstOk_of_dstFits ha, Bool.true_and, List.all_eq_true]
    exact fun c hc => Wave.srcOk_of_srcFits (hsrcs c hc)
  · have word := hl.trans (show 32 < 2 ^ 32 by decide)
    rw [s.wave.src_eq_laneOf x word, s.wave.src_eq_laneOf y word, s.wave.src_eq_laneOf z word]
    rfl

end

end Sys2Proof.Machine
end

section
/-! PROOF. Integer elements: the fit of an exact result (R237), and the values of the bit instructions (R241, R244). -/

namespace Sys2Proof.Machine

open Sys2Proof.Claims

/-! ### Fitting an exact result (R237) -/

theorem lowest_le_highest (t : EType) : t.lowest ≤ t.highest := by cases t <;> decide

theorem clampedTo_eq_min_max (t : EType) (r : Int) :
    clampedTo t.bitsOf t.signed r = min (max r t.lowest) t.highest := by
  have bounds := lowest_le_highest t
  change (if r < t.lowest then t.lowest else if t.highest < r then t.highest else r) = _
  split
  · omega
  · split <;> omega

theorem fit_eq_fitted (t : EType) (sat : Bool) (r : Int) : t.fit sat r = fitted t sat r := by
  rw [fitted, fittedTo, clampedTo_eq_min_max]
  rfl

/-! ### Elements that fill their registers (R188) -/

theorem bitType_shape {t : EType} (h : bitType t = true) : t.elems = 1 ∧ t.bitsOf = 32 * t.regs := by
  revert h
  cases t <;> decide

theorem perElement_of_bitType {t : EType} (h : bitType t = true) (f : Nat → Nat) :
    perElement t f = f 0 % 2 ^ t.bitsOf := by
  obtain ⟨one, width⟩ := bitType_shape h
  have wide : ¬ t.bitsOf < 32 := by rcases regs_eq_one_or_two t with n | n <;> omega
  rw [perElement, one]
  exact if_neg fun narrow => wide narrow.1

theorem laneOf_lt (w : Wave) (c : BitVec 8) {n l : Nat} (hn : n = 1 ∨ n = 2) (hl : l < 32) :
    laneOf w c n l < 2 ^ (32 * n) := by
  rcases hn with rfl | rfl
  · rw [← w.laneWord_toNat c (hl.trans (by decide))]
    exact (w.laneWord c l).isLt
  · have id := (Sparse.get 0#32 w.tid l).isLt
    have low := (w.getV c.toNat l).isLt
    have high := (w.getV (c.toNat + 1) l).isLt
    unfold laneOf
    split_ifs <;> omega

/-- The one element of a lane value is the value. -/
theorem elem_laneOf {w : Wave} (h : bitType w.etype = true) (c : BitVec 8) {l : Nat} (hl : l < 32) :
    w.etype.elem (laneOf w c w.etype.regs l) 0 = laneOf w c w.etype.regs l := by
  have lt := laneOf_lt w c (regs_eq_one_or_two w.etype) hl
  rw [← (bitType_shape h).2] at lt
  rw [EType.elem, bits, Nat.mul_zero, pow_zero, Nat.div_one, Nat.mod_eq_of_lt lt]

/-! ### Leading zeros, set bits, reversed bits (R241) -/

theorem leadingZeros_eq {n v k : Nat} (hk : k ≤ n) (below : v < 2 ^ (n - k)) (top : k < n → 2 ^ (n - 1 - k) ≤ v) :
    leadingZeros n v = k := by
  rcases hk.eq_or_lt with rfl | inside
  · rw [Nat.sub_self, pow_zero, Nat.lt_one_iff] at below
    exact if_pos below
  · have nonzero : v ≠ 0 := ((Nat.two_pow_pos _).trans_le (top inside)).ne'
    have log : Nat.log2 v = n - 1 - k := by
      rw [Nat.log2_eq_iff nonzero, show n - 1 - k + 1 = n - k by omega]
      exact ⟨top inside, below⟩
    rw [leadingZeros, if_neg nonzero, log]
    omega

theorem popCount_eq_onesBelow (n v : Nat) : popCount n v = onesBelow n v := by
  induction n generalizing v with
  | zero => rfl
  | succ n ih =>
    have rest : (List.range n).countP ((fun i => v.testBit i) ∘ Nat.succ) = onesBelow n (v / 2) :=
      List.countP_congr fun i _ => by rw [Function.comp_apply, Nat.testBit_succ]
    rw [popCount, ih, ← rest, onesBelow, List.range_succ_eq_map, List.countP_cons, List.countP_map, Nat.testBit_zero]
    rcases Nat.mod_two_eq_zero_or_one v with even | odd
    · simp [even]
    · simp [odd, Nat.add_comm]

theorem onesBelow_lt (n v : Nat) : onesBelow n v < 2 ^ n := by
  have length := List.countP_le_length (p := fun i => v.testBit i) (l := List.range n)
  rw [List.length_range] at length
  exact length.trans_lt Nat.lt_two_pow_self

theorem reverseBits_succ (n v : Nat) : reverseBits (n + 1) v = 2 * reverseBits n v + v / 2 ^ n % 2 := by
  simp [reverseBits, upto, bits, List.foldl_append]

theorem testBit_reverseBits (n v : Nat) {i : Nat} (hi : i < n) :
    (reverseBits n v).testBit i = v.testBit (n - 1 - i) := by
  induction n generalizing i with
  | zero => omega
  | succ n ih =>
    rw [reverseBits_succ]
    cases i with
    | zero =>
      rw [Nat.testBit_zero, Nat.mul_add_mod, Nat.mod_mod, Nat.testBit_eq_decide_div_mod_eq]
      rfl
    | succ i =>
      rw [Nat.testBit_succ, show (2 * reverseBits n v + v / 2 ^ n % 2) / 2 = reverseBits n v by omega,
        ih (by omega), show n + 1 - 1 - (i + 1) = n - 1 - i by omega]

/-- A number of `n` bits is known by them. -/
theorem mod_two_pow_eq_of_testBit {n u v : Nat} (hv : v < 2 ^ n) (h : ∀ i < n, u.testBit i = v.testBit i) :
    u % 2 ^ n = v := by
  rw [← Nat.mod_eq_of_lt hv]
  refine Nat.eq_of_testBit_eq fun i => ?_
  rw [Nat.testBit_mod_two_pow, Nat.testBit_mod_two_pow]
  by_cases inside : i < n
  · rw [h i inside]
  · simp [inside]

/-! ### Bit fields (R244) -/

/-- A field inserted: the low `m` bits of `x` stand at `p`, around them the bits of `y`. -/
theorem testBit_insertField (x y p m i : Nat) :
    (y - bits y p m * 2 ^ p + x % 2 ^ m * 2 ^ p).testBit i =
      if p ≤ i ∧ i < p + m then x.testBit (i - p) else y.testBit i := by
  have parts : y = 2 ^ p * (2 ^ m * (y / 2 ^ p / 2 ^ m) + y / 2 ^ p % 2 ^ m) + y % 2 ^ p := by
    rw [Nat.div_add_mod, Nat.div_add_mod]
  have joined : y - bits y p m * 2 ^ p + x % 2 ^ m * 2 ^ p =
      2 ^ p * (2 ^ m * (y / 2 ^ p / 2 ^ m) + x % 2 ^ m) + y % 2 ^ p := by
    rw [Nat.mul_add] at parts ⊢
    rw [bits, Nat.mul_comm _ (2 ^ p), Nat.mul_comm _ (2 ^ p)]
    omega
  have low : y % 2 ^ p < 2 ^ p := Nat.mod_lt _ (Nat.two_pow_pos p)
  have field : x % 2 ^ m < 2 ^ m := Nat.mod_lt _ (Nat.two_pow_pos m)
  rw [joined, Nat.testBit_two_pow_mul_add _ low]
  by_cases under : i < p
  · rw [if_pos under, if_neg (by omega), Nat.testBit_mod_two_pow, decide_eq_true under, Bool.true_and]
  · rw [if_neg under, Nat.testBit_two_pow_mul_add _ field]
    by_cases within : i - p < m
    · rw [if_pos within, if_pos (by omega), Nat.testBit_mod_two_pow, decide_eq_true within, Bool.true_and]
    · rw [if_neg within, if_neg (by omega), Nat.testBit_div_two_pow, Nat.testBit_div_two_pow]
      congr 1
      omega

/-- A field of `m` bits extended to `n` bits, with its sign under a signed type. -/
theorem extendedField_mod {n m v : Nat} (hm : m ≤ n) (hv : v < 2 ^ m) (signed : Bool) :
    (if signed && v.testBit (m - 1) then v + 2 ^ n - 2 ^ m else v) % 2 ^ n =
      if signed = true ∧ v.testBit (m - 1) = true then 2 ^ n - 2 ^ m + v else v := by
  have wider : 2 ^ m ≤ 2 ^ n := Nat.pow_le_pow_right (by decide) hm
  simp only [Bool.and_eq_true]
  split <;> rw [Nat.mod_eq_of_lt (by omega)]
  omega

end Sys2Proof.Machine
end

section
/-! PROOF. VMAD, the moves, VSEL and the bit instructions: the settled statement. -/

namespace Sys2Proof.Proofs

open Sys2Proof.Machine Sys2Proof.Claims

section
variable {s : State} {a b c : BitVec 8} (works : WorksIn s s.wave.lanes) (ha : dstFits s.wave s.wave.etype.regs a)
include works ha

/-! ### Moves (R241, R243) -/

theorem vmovLit_writesLanes (lit : Word) : writesLanes s (.vmovLit a lit) 8 a s.wave.etype.regs fun _ =>
    if s.wave.etype = .i64 ∨ s.wave.etype = .f64 then (lit.signExtend 64).toNat else lit.toNat := by
  refine moveWork_writesLanes works ha (g := fun w _ => w.etype.literal lit) rfl rfl fun l _ => ?_
  cases s.wave.etype <;> rfl

theorem vbcast_writesLanes (b : BitVec 8) :
    writesLanes s (.vbcast a b) 4 a s.wave.etype.regs fun _ => (s.readU b).toNat :=
  moveWork_writesLanes works ha rfl rfl fun _ _ => rfl

variable (hb : srcFits s.wave s.wave.etype.regs b)
include hb

theorem vmov_writesLanes :
    writesLanes s (.vmov a b) 4 a s.wave.etype.regs (laneOf s.wave b s.wave.etype.regs) :=
  moveWork_writesLanes works ha (Wave.srcOk_of_srcFits hb) rfl fun _ hl => s.wave.src_eq_laneOf b (hl.trans (by decide))

theorem vsel_writesLanes (hc : srcFits s.wave s.wave.etype.regs c) (k : BitVec 3) :
    writesLanes s (.vsel a b c k) 8 a s.wave.etype.regs fun l =>
      if (Sparse.get 0#32 s.wave.k k.toNat).getLsbD l then laneOf s.wave b s.wave.etype.regs l
      else laneOf s.wave c s.wave.etype.regs l := by
  have fits : (s.wave.srcOk s.wave.etype.regs b && s.wave.srcOk s.wave.etype.regs c) = true := by
    rw [Wave.srcOk_of_srcFits hb, Wave.srcOk_of_srcFits hc]; rfl
  refine moveWork_writesLanes works ha fits rfl fun l hl => ?_
  have word := hl.trans (show 32 < 2 ^ 32 by decide)
  rw [s.wave.src_eq_laneOf b word, s.wave.src_eq_laneOf c word, Wave.getK]

/-! ### Integer results fitted (R240, R241) -/

theorem vneg_writesLanes (isInt : s.wave.etype.isInt = true) :
    writesLanes s (.vneg a b) 4 a s.wave.etype.regs fun l => perElement s.wave.etype fun j =>
      fitted s.wave.etype s.wave.sat (-(s.wave.laneInt b l j)) := by
  refine intUnary_writesLanes works ha (fun t sat x => t.fit sat (-(t.toInt x))) hb isInt rfl fun l _ => ?_
  simp only [fit_eq_fitted, Wave.laneInt]

theorem vabs_writesLanes (isInt : s.wave.etype.isInt = true) (signed : s.wave.etype.signed = true) :
    writesLanes s (.vabs a b) 4 a s.wave.etype.regs fun l => perElement s.wave.etype fun j =>
      fitted s.wave.etype s.wave.sat (max (s.wave.laneInt b l j) (-(s.wave.laneInt b l j))) := by
  refine intUnary_writesLanes works ha (types := fun t => t.isInt && t.signed)
    (fun t sat x => t.fit sat (t.toInt x).natAbs) hb (Bool.and_eq_true_iff.2 ⟨isInt, signed⟩) rfl fun l _ => ?_
  simp only [fit_eq_fitted, Wave.laneInt, Int.natCast_natAbs, abs_eq_max_neg]

theorem vmad_writesLanes {e : BitVec 8} (hc : srcFits s.wave s.wave.etype.regs c)
    (he : srcFits s.wave s.wave.etype.regs e) (isInt : s.wave.etype.isInt = true) :
    writesLanes s (.vmad a b c e) 8 a s.wave.etype.regs fun l => perElement s.wave.etype fun j =>
      fitted s.wave.etype s.wave.sat (s.wave.laneInt b l j * s.wave.laneInt c l j + s.wave.laneInt e l j) := by
  refine writesLanes_of_byElem works ha ?_ isInt rfl rfl fun l hl => ?_
  · simp only [Wave.shape_of_accepted isInt, Wave.dstOk_of_dstFits ha, Wave.srcOk_of_srcFits hb,
      Wave.srcOk_of_srcFits hc, Wave.srcOk_of_srcFits he, Bool.and_self]
  · have word := hl.trans (show 32 < 2 ^ 32 by decide)
    simp only [fit_eq_fitted, Wave.laneInt, s.wave.src_eq_laneOf _ word]

/-! ### Bits of 32- and 64-bit integers (R241, R244) -/

variable (bitwise : bitType s.wave.etype = true)
include bitwise

theorem bitUnary_writesLanes {i : Instr} (r : EType → Bool → Nat → Nat) {val : Nat → Nat}
    (hx : exec i s = intUnary .parity bitType r a b s)
    (hval : ∀ l < 32, r s.wave.etype s.wave.sat (laneOf s.wave b s.wave.etype.regs l) % 2 ^ s.wave.etype.bitsOf = val l) :
    writesLanes s i 4 a s.wave.etype.regs val := by
  refine intUnary_writesLanes works ha r hb bitwise hx fun l hl => ?_
  rw [perElement_of_bitType bitwise, elem_laneOf bitwise b hl]
  exact hval l hl

theorem vclz_writesLanes {val : Nat → Nat} (hval : ∀ l < 32,
      let n := s.wave.etype.bitsOf
      let x := laneOf s.wave b s.wave.etype.regs l
      val l ≤ n ∧ x < 2 ^ (n - val l) ∧ (val l < n → 2 ^ (n - 1 - val l) ≤ x)) :
    writesLanes s (.vclz a b) 4 a s.wave.etype.regs val := by
  refine bitUnary_writesLanes works ha hb bitwise (fun t _ x => leadingZeros t.bitsOf x) rfl fun l hl => ?_
  obtain ⟨bound, below, top⟩ := hval l hl
  rw [leadingZeros_eq bound below top, Nat.mod_eq_of_lt (bound.trans_lt Nat.lt_two_pow_self)]

theorem vpopc_writesLanes : writesLanes s (.vpopc a b) 4 a s.wave.etype.regs fun l =>
    onesBelow s.wave.etype.bitsOf (laneOf s.wave b s.wave.etype.regs l) := by
  refine bitUnary_writesLanes works ha hb bitwise (fun t _ x => popCount t.bitsOf x) rfl fun l _ => ?_
  rw [popCount_eq_onesBelow, Nat.mod_eq_of_lt (onesBelow_lt _ _)]

theorem vbrev_writesLanes {val : Nat → Nat} (hval : ∀ l < 32,
      let n := s.wave.etype.bitsOf
      val l < 2 ^ n ∧
        ∀ i < n, (val l).testBit i = (laneOf s.wave b s.wave.etype.regs l).testBit (n - 1 - i)) :
    writesLanes s (.vbrev a b) 4 a s.wave.etype.regs val := by
  refine bitUnary_writesLanes works ha hb bitwise (fun t _ x => reverseBits t.bitsOf x) rfl fun l hl => ?_
  obtain ⟨lt, reversed⟩ := hval l hl
  exact mod_two_pow_eq_of_testBit lt fun i hi => (testBit_reverseBits _ _ hi).trans (reversed i hi).symm

section
variable {pos : BitVec 6} {len : BitVec 7} (nonempty : 0 < len.toNat)
  (within : pos.toNat + len.toNat ≤ s.wave.etype.bitsOf)
include nonempty within

omit works ha hb in
theorem fieldOk_of_within : fieldOk s.wave (bitType s.wave.etype) pos len = true := by
  have nonzero : len ≠ 0#7 := by
    rintro rfl
    exact absurd nonempty (by decide)
  rw [(bitType_shape bitwise).2] at within
  rw [fieldOk, Wave.shape_of_accepted bitwise, decide_eq_true within, bne_iff_ne.2 nonzero]
  rfl

theorem vbfe_writesLanes : writesLanes s (.vbfe a b pos len) 8 a s.wave.etype.regs fun l =>
    let f := laneOf s.wave b s.wave.etype.regs l / 2 ^ pos.toNat % 2 ^ len.toNat
    if s.wave.etype.signed = true ∧ f.testBit (len.toNat - 1) = true then
      2 ^ s.wave.etype.bitsOf - 2 ^ len.toNat + f
    else f := by
  refine writesLanes_of_byElem works ha ?_ bitwise rfl rfl fun l hl => ?_
  · simp only [fieldOk_of_within bitwise nonempty within, Wave.shape_of_accepted bitwise, Wave.dstOk_of_dstFits ha,
      Wave.srcOk_of_srcFits hb, Bool.and_self]
  · rw [perElement_of_bitType bitwise, s.wave.src_eq_laneOf b (hl.trans (by decide)), elem_laneOf bitwise b hl]
    exact extendedField_mod ((Nat.le_add_left ..).trans within) (Nat.mod_lt _ (Nat.two_pow_pos _)) _

theorem vbfi_writesLanes {val : Nat → Nat} (hc : srcFits s.wave s.wave.etype.regs c) (hval : ∀ l < 32,
      val l < 2 ^ s.wave.etype.bitsOf ∧ ∀ i < s.wave.etype.bitsOf, (val l).testBit i =
        if pos.toNat ≤ i ∧ i < pos.toNat + len.toNat then
          (laneOf s.wave b s.wave.etype.regs l).testBit (i - pos.toNat)
        else (laneOf s.wave c s.wave.etype.regs l).testBit i) :
    writesLanes s (.vbfi a b c pos len) 8 a s.wave.etype.regs val := by
  refine writesLanes_of_byElem works ha ?_ bitwise rfl rfl fun l hl => ?_
  · simp only [fieldOk_of_within bitwise nonempty within, Wave.shape_of_accepted bitwise, Wave.dstOk_of_dstFits ha,
      Wave.srcOk_of_srcFits hb, Wave.srcOk_of_srcFits hc, Bool.and_self]
  · have word := hl.trans (show 32 < 2 ^ 32 by decide)
    obtain ⟨lt, inserted⟩ := hval l hl
    rw [perElement_of_bitType bitwise, s.wave.src_eq_laneOf b word, s.wave.src_eq_laneOf c word,
      elem_laneOf bitwise b hl, elem_laneOf bitwise c hl]
    exact mod_two_pow_eq_of_testBit lt fun i hi => (testBit_insertField ..).trans (inserted i hi).symm

end

end

/-- Settles O13: each instruction gives every lane at work its value, VMAD, VABS and VNEG fitted element by element, the moves
whole, and the bit instructions the number that its bits describe. -/
theorem vectorMovesAndBits : Obligations.VectorMovesAndBits := by
  unfold Obligations.VectorMovesAndBits
  refine ⟨?_, ?_, fun a b c e k => ⟨rfl, rfl⟩⟩
  · intro s a b c e k lit w t n works ha x y z
    exact ⟨vmovLit_writesLanes works ha lit, vbcast_writesLanes works ha b, vmov_writesLanes works ha,
      fun hb hc => vsel_writesLanes works ha hb hc k, fun isInt hb => ⟨vneg_writesLanes works ha hb isInt,
        vabs_writesLanes works ha hb isInt, fun hc he => vmad_writesLanes works ha hb hc he isInt⟩⟩
  · intro s a b c pos len val w t n works ha hb types x y p m
    have bitwise : bitType t = true := by rcases types with h | h | h | h <;> rw [h] <;> rfl
    exact ⟨vclz_writesLanes works ha hb bitwise, vpopc_writesLanes works ha hb bitwise,
      vbrev_writesLanes works ha hb bitwise, fun nonempty within =>
        ⟨vbfe_writesLanes works ha hb bitwise nonempty within, vbfi_writesLanes works ha hb bitwise nonempty within⟩⟩

end Sys2Proof.Proofs
end

section
/-! PROOF. Exact float arithmetic: sums and products as rational numbers (R245, R246), and the default NaN (R245, R247). -/

namespace Sys2Proof.Machine

/-! ### Values as rational numbers -/

/-- The rational number ± `m` × 2^`e`. -/
def signedValue (neg : Bool) (m : Nat) (e : Int) : ℚ := (if neg then -1 else 1) * (m : ℚ) * (2 : ℚ) ^ e

theorem scaled_value (neg : Bool) (m : Nat) {e q : Int} (h : q ≤ e) :
    (scaled neg m e q : ℚ) * (2 : ℚ) ^ q = signedValue neg m e := by
  have shift : (2 : ℚ) ^ (e - q).toNat * (2 : ℚ) ^ q = (2 : ℚ) ^ e := by
    rw [← zpow_natCast, ← zpow_add₀ two_ne_zero]
    congr 1
    omega
  rw [signedValue, ← shift]
  cases neg <;> simp [scaled, mul_assoc]

/-- A signed integer taken apart into its sign and its magnitude. -/
theorem signedValue_natAbs (k q : Int) : signedValue (decide (k < 0)) k.natAbs q = (k : ℚ) * (2 : ℚ) ^ q := by
  rw [signedValue, Nat.cast_natAbs]
  congr 1
  by_cases negative : k < 0
  · simp [negative, abs_of_neg]
  · simp [negative, abs_of_nonneg (not_lt.1 negative)]

/-- The sum of two numbers is exact, and where it is zero its sign is the one of R246. -/
theorem FVal.add_num (rdn a b : Bool) (m n : Nat) (e k : Int) :
    ∃ g p q, FVal.add rdn (.num a m e) (.num b n k) = .num g p q ∧
      signedValue g p q = signedValue a m e + signedValue b n k ∧
      (signedValue a m e + signedValue b n k = 0 → g = if m = 0 ∧ n = 0 ∧ a = b then a else rdn) := by
  by_cases zeros : m = 0 ∧ n = 0
  · obtain ⟨rfl, rfl⟩ := zeros
    refine ⟨if a = b then a else rdn, 0, 0, rfl, ?_, fun _ => ?_⟩
    · simp [signedValue]
    · simp
  · have sum : (scaled a m e (min e k) + scaled b n k (min e k) : Int) * (2 : ℚ) ^ min e k =
        signedValue a m e + signedValue b n k := by
      rw [← scaled_value a m (min_le_left e k), ← scaled_value b n (min_le_right e k), Int.cast_add, add_mul]
    by_cases cancels : scaled a m e (min e k) + scaled b n k (min e k) = 0
    · refine ⟨rdn, 0, 0, (if_neg zeros).trans (if_pos cancels), ?_, fun _ => ?_⟩
      · rw [← sum, cancels]
        simp [signedValue]
      · exact (if_neg fun ⟨m_zero, n_zero, _⟩ => zeros ⟨m_zero, n_zero⟩).symm
    · refine ⟨_, _, _, (if_neg zeros).trans (if_neg cancels), ?_, fun zero => absurd zero ?_⟩
      · rw [signedValue_natAbs, sum]
      · rw [← sum]
        exact mul_ne_zero (Int.cast_ne_zero.2 cancels) (zpow_ne_zero _ two_ne_zero)

theorem signedValue_mul (a b : Bool) (m n : Nat) (e k : Int) :
    signedValue (a != b) (m * n) (e + k) = signedValue a m e * signedValue b n k := by
  have sign : (if a != b then -1 else 1 : ℚ) = (if a then -1 else 1) * (if b then -1 else 1) := by
    cases a <;> cases b <;> simp
  rw [signedValue, signedValue, signedValue, sign, Nat.cast_mul, zpow_add₀ two_ne_zero]
  ring

/-! ### The default NaN (R245) -/

theorem FVal.mul_zero_inf {x y : FVal} {g k : Bool} {e : Int}
    (h : x = .num g 0 e ∧ y = .inf k ∨ x = .inf k ∧ y = .num g 0 e) : FVal.mul x y = .nan := by
  rcases h with ⟨rfl, rfl⟩ | ⟨rfl, rfl⟩ <;> rfl

/-- The default NaN of a vector type is no subnormal pattern, so `ftz` leaves it. -/
theorem Wave.fout_nan (w : Wave) (l j : Nat) : w.fout l j .nan = w.etype.fmt.nanBits := by
  have kept : ∀ (t : EType) (ftz : Bool), t.fmt.flush ftz t.fmt.nanBits = t.fmt.nanBits := by
    intro t ftz
    cases t <;> cases ftz <;> rfl
  exact kept w.etype w.ftz

theorem FVal.add_negIf_nan (rdn neg : Bool) (z : FVal) : FVal.add rdn (FVal.negIf neg .nan) z = .nan := by
  cases neg <;> rfl

/-- Where the product is that of a zero and an infinity, the third operand of VFMA plays no part (R247). -/
theorem Wave.fout_fma_zero_inf (w : Wave) {l j : Nat} {rdn neg g k : Bool} {x y z : FVal} {e : Int}
    (h : x = .num g 0 e ∧ y = .inf k ∨ x = .inf k ∧ y = .num g 0 e) :
    w.fout l j (FVal.add rdn (FVal.negIf neg (FVal.mul x y)) z) = w.etype.fmt.nanBits := by
  rw [FVal.mul_zero_inf h, FVal.add_negIf_nan, w.fout_nan]

end Sys2Proof.Machine
end

section
/-! PROOF. Float instructions on three, two and one sources: the settled statement. -/

namespace Sys2Proof.Proofs

open Sys2Proof.Machine Sys2Proof.Claims

section
variable {s : State} {a b c : BitVec 8} (works : WorksIn s s.wave.lanes) (ha : dstFits s.wave s.wave.etype.regs a)
  (hb : srcFits s.wave s.wave.etype.regs b)
include works ha hb

theorem float1_writesLanes {i : Instr} {types : EType → Bool} (r : Wave → FVal → FVal)
    (accepted : types s.wave.etype = true) (hx : exec i s = float1 types r a b s) :
    let w := s.wave
    writesLanes s i 4 a w.etype.regs fun l => perElement w.etype fun j => w.fout l j (r w (w.laneFloat b l j)) :=
  floatOp_writesLanes works ha (srcs := [b]) (r := fun w x _ _ => r w x) (x := b) (y := b) (z := b)
    (List.forall_mem_singleton.2 hb) accepted hx

variable (isFloat : s.wave.etype.isFloat = true)
include isFloat

theorem float2_writesLanes {i : Instr} {cls : Check} (r : Wave → FVal → FVal → FVal)
    (hc : srcFits s.wave s.wave.etype.regs c) (hx : exec i s = float2 cls r a b c s) :
    let w := s.wave
    writesLanes s i 4 a w.etype.regs fun l => perElement w.etype fun j =>
      w.fout l j (r w (w.laneFloat b l j) (w.laneFloat c l j)) :=
  floatOp_writesLanes works ha (srcs := [b, c]) (r := fun w x y _ => r w x y) (x := b) (y := c) (z := c)
    (List.forall_mem_cons.2 ⟨hb, List.forall_mem_singleton.2 hc⟩) isFloat hx

theorem vfma_writesLanes {e : BitVec 8} (np na : Bool) (hc : srcFits s.wave s.wave.etype.regs c)
    (he : srcFits s.wave s.wave.etype.regs e) :
    let w := s.wave
    writesLanes s (.vfma np na a b c e) 8 a w.etype.regs fun l => perElement w.etype fun j =>
      w.fout l j (FVal.add w.rdn (FVal.negIf np (FVal.mul (w.laneFloat b l j) (w.laneFloat c l j)))
        (FVal.negIf na (w.laneFloat e l j))) :=
  floatOp_writesLanes works ha (srcs := [b, c, e])
    (r := fun w x y z => FVal.add w.rdn (FVal.negIf np (FVal.mul x y)) (FVal.negIf na z)) (x := b) (y := c) (z := e)
    (List.forall_mem_cons.2 ⟨hb, List.forall_mem_cons.2 ⟨hc, List.forall_mem_singleton.2 he⟩⟩) isFloat rfl

theorem vfrnd_writesLanes :
    let w := s.wave
    writesLanes s (.vfrnd a b) 4 a w.etype.regs fun l => perElement w.etype fun j =>
      w.fout l j ((w.laneFloat b l j).integral (w.rnd l j)) := by
  refine writesLanes_of_byElem works ha ?_ isFloat rfl rfl fun l hl => ?_
  · simp only [Wave.shape_of_accepted isFloat, Wave.dstOk_of_dstFits ha, Wave.srcOk_of_srcFits hb, Bool.and_self]
  · rw [s.wave.src_eq_laneOf b (hl.trans (by decide))]
    rfl

theorem vfscale_writesLanes (hc : srcFits s.wave 1 c) :
    let w := s.wave
    writesLanes s (.vfscale a b c) 4 a w.etype.regs fun l => perElement w.etype fun j =>
      w.fout l j ((w.laneFloat b l j).scaleBy (BitVec.ofNat 32 (laneOf w c 1 l)).toInt) := by
  refine writesLanes_of_byElem works ha ?_ isFloat rfl rfl fun l hl => ?_
  · simp only [Wave.shape_of_accepted isFloat, Wave.dstOk_of_dstFits ha, Wave.srcOk_of_srcFits hb,
      Wave.srcOk_of_srcFits hc, Bool.and_self]
  · have word := hl.trans (show 32 < 2 ^ 32 by decide)
    rw [s.wave.src_eq_laneOf b word, ← s.wave.laneWord_toNat c word, BitVec.ofNat_toNat, BitVec.setWidth_eq]
    rfl

end

theorem shortFloat_of_ne_f64 {t : EType} (isFloat : t.isFloat = true) (short : t ≠ .f64) : shortFloat t = true := by
  revert isFloat short
  cases t <;> decide

/-- Settles O14: sums and products are exact as rational numbers, and each float instruction rounds once what it computes from
the decoded elements. -/
theorem vectorFloatArithmetic : Obligations.VectorFloatArithmetic := by
  unfold Obligations.VectorFloatArithmetic
  constructor
  · intro rdn a b m n e k r
    exact ⟨FVal.add_num rdn a b m n e k, _, _, rfl, signedValue_mul a b m n e k⟩
  · intro s a b c e np na w t n works isFloat ha hb x y z gives
    refine ⟨rfl, rfl, float1_writesLanes works ha hb (fun _ => FVal.sqrt) isFloat rfl,
      float1_writesLanes works ha hb (fun _ => FVal.div FVal.one) isFloat rfl,
      float1_writesLanes works ha hb (fun _ => FVal.rsqrt) isFloat rfl,
      vfrnd_writesLanes works ha hb isFloat, fun short => ?_, vfscale_writesLanes works ha hb isFloat, fun hc => ?_⟩
    · have accepted := shortFloat_of_ne_f64 isFloat short
      exact ⟨float1_writesLanes works ha hb (fun _ => FVal.exp2) accepted rfl,
        float1_writesLanes works ha hb (fun _ => FVal.log2) accepted rfl⟩
    · exact ⟨float2_writesLanes works ha hb isFloat (fun w => FVal.add w.rdn) hc rfl,
        float2_writesLanes works ha hb isFloat (fun w x y => FVal.add w.rdn x y.neg) hc rfl,
        float2_writesLanes works ha hb isFloat (fun _ => FVal.mul) hc rfl,
        float2_writesLanes works ha hb isFloat (fun _ => FVal.div) hc rfl,
        float2_writesLanes works ha hb isFloat (fun _ => FVal.minNum) hc rfl,
        float2_writesLanes works ha hb isFloat (fun _ => FVal.maxNum) hc rfl,
        fun he => ⟨vfma_writesLanes works ha hb isFloat np na hc he,
          fun _ _ _ _ _ undefined => w.fout_fma_zero_inf undefined⟩⟩

end Sys2Proof.Proofs
end

section
/-! PROOF. A series of writes, and the words of a tile: what is read back after a word is written, and after the word of every
cell of a move is (R289, R304). -/

namespace Sys2Proof.Machine

/-! ### A series of writes -/

section
variable {σ ι β : Type} {step : σ → ι → σ} {read : σ → β} {cells : List ι}

theorem read_foldl_apart (apart : ∀ e ∈ cells, ∀ u, read (step u e) = read u) (u : σ) :
    read (cells.foldl step u) = read u := by
  induction cells generalizing u with
  | nil => rfl
  | cons e cells ih =>
    obtain ⟨here, later⟩ := List.forall_mem_cons.1 apart
    exact (ih later (step u e)).trans (here u)

/-- What one cell's write puts in place stands at the end, if no other cell's write touches it. -/
theorem read_foldl_of_mem {c : ι} {v : β} (hc : c ∈ cells) (written : ∀ u, read (step u c) = v)
    (apart : ∀ e ∈ cells, e ≠ c → ∀ u, read (step u e) = read u) (u : σ) : read (cells.foldl step u) = v := by
  induction cells generalizing u with
  | nil => cases hc
  | cons e cells ih =>
    obtain ⟨-, later⟩ := List.forall_mem_cons.1 apart
    by_cases again : c ∈ cells
    · exact ih again later (step u e)
    · obtain rfl : c = e := (List.mem_cons.1 hc).resolve_right again
      have rest : ∀ e ∈ cells, ∀ u, read (step u e) = read u :=
        fun e he => later e he fun same => again (same ▸ he)
      exact (read_foldl_apart rest (step u c)).trans (written u)

end

/-! ### Words of a tile (R289) -/

theorem natOfBytes_lt (l : List Byte) : natOfBytes l < 256 ^ l.length := by
  induction l with
  | nil => exact Nat.one_pos
  | cons b l ih =>
    have := b.isLt
    rw [natOfBytes, List.length_cons, pow_succ]
    omega

/-- Where the word of row `p.1` and column `p.2` stands in its tile. -/
def wordAt (p : Nat × Nat) : Nat := 512 * p.1 + 4 * p.2

/-- The word at a place of tile `t`, from its bytes. -/
def tileWordOf (d : Sparse Byte) (t : Nat) (p : Nat × Nat) : Nat :=
  natOfBytes ((List.range 4).map fun i => Sparse.get 0#8 d (65536 * t + (wordAt p + i)))

theorem tileWordOf_eq (d : Sparse Byte) (t : Nat) (p : Nat × Nat) :
    tileWordOf d t p = natOfBytes (Sparse.getList 0#8 d (65536 * t + wordAt p) 4) := by
  simp only [tileWordOf, List.range_succ, Sparse.getList, List.range_zero, List.nil_append, List.cons_append, List.map_cons,
    List.map_nil, Nat.add_assoc, Nat.add_zero, Nat.reduceAdd]

theorem Wave.tileWord_toNat (w : Wave) (t : Nat) (p : Nat × Nat) :
    (w.tileWord t p.1 p.2).toNat = tileWordOf w.tile t p := by
  have lt := natOfBytes_lt (Sparse.getList 0#8 w.tile (65536 * t + wordAt p) 4)
  rw [Sparse.length_getList] at lt
  rw [tileWordOf_eq, Wave.tileWord, BitVec.toNat_ofNat, Nat.add_assoc (65536 * t)]
  exact Nat.mod_eq_of_lt lt

/-- A tile file with the word at a place written. -/
def putTileWord (d : Sparse Byte) (t : Nat) (p : Nat × Nat) (v : Word) : Sparse Byte :=
  Sparse.putList 0#8 d (65536 * t + wordAt p) (bytesOfNat 4 v.toNat)

theorem Wave.setTileWord_eq (w : Wave) (t : Nat) (p : Nat × Nat) (v : Word) :
    w.setTileWord t p.1 p.2 v = { w with tile := putTileWord w.tile t p v } := by
  rw [Wave.setTileWord, putTileWord, wordAt, Nat.add_assoc]

theorem get_putTileWord_other (d : Sparse Byte) (t : Nat) (p : Nat × Nat) (v : Word) {k : Nat}
    (h : k < 65536 * t + wordAt p ∨ 65536 * t + wordAt p + 4 ≤ k) :
    Sparse.get 0#8 (putTileWord d t p v) k = Sparse.get 0#8 d k := by
  rw [putTileWord, Sparse.get_putList, length_bytesOfNat, if_neg (by omega)]

theorem tileWordOf_putTileWord_same (d : Sparse Byte) (t : Nat) (p : Nat × Nat) (v : Word) :
    tileWordOf (putTileWord d t p v) t p = v.toNat := by
  have read := Sparse.getList_putList_same 0#8 d (65536 * t + wordAt p) (bytesOfNat 4 v.toNat)
  rw [length_bytesOfNat] at read
  rw [tileWordOf_eq, putTileWord, read, natOfBytes_bytesOfNat]
  exact Nat.mod_eq_of_lt v.isLt

/-- Two words of a tile that share no byte. -/
def wordsApart (p q : Nat × Nat) : Prop := wordAt p + 4 ≤ wordAt q ∨ wordAt q + 4 ≤ wordAt p

theorem tileWordOf_putTileWord_apart (d : Sparse Byte) (t : Nat) {p q : Nat × Nat} (v : Word) (h : wordsApart p q) :
    tileWordOf (putTileWord d t q v) t p = tileWordOf d t p := by
  rw [wordsApart] at h
  refine congrArg natOfBytes (List.map_congr_left fun i hi => get_putTileWord_other d t q v ?_)
  have := List.mem_range.1 hi
  omega

/-! ### The cells of a move (R304) -/

theorem mem_moveCells {n : BitVec 2} {lanes : List Nat} {h j l : Nat} :
    (h, j, l) ∈ moveCells n lanes ↔ h < 2 ^ n.toNat ∧ j < 4 ∧ l ∈ lanes := by
  simp [moveCells, mem_upto]

theorem wordAt_movePlace_le {index : BitVec 7} {col : Bool} {h j l : Nat} (hh : index.toNat + h < 128) (hj : j < 4)
    (hl : l < 32) : wordAt (movePlace index col h j l) + 4 ≤ 65536 := by
  cases col
  · simp only [wordAt, movePlace, Bool.false_eq_true, if_false]
    omega
  · simp only [wordAt, movePlace, if_true]
    omega

/-- Words of different cells share no byte, as long as the rows or columns of the move lie in the tile. -/
theorem wordsApart_movePlace {index : BitVec 7} {col : Bool} {h j l h' j' l' : Nat} (hh : index.toNat + h < 128)
    (hh' : index.toNat + h' < 128) (hj : j < 4) (hj' : j' < 4) (hl : l < 32) (hl' : l' < 32)
    (different : (h', j', l') ≠ (h, j, l)) :
    wordsApart (movePlace index col h j l) (movePlace index col h' j' l') := by
  simp only [ne_eq, Prod.mk.injEq] at different
  cases col
  · simp only [wordsApart, wordAt, movePlace, Bool.false_eq_true, if_false]
    omega
  · simp only [wordsApart, wordAt, movePlace, if_true]
    omega

section
variable (w : Wave) (a b : BitVec 8) (index : BitVec 7) (col : Bool) (n : BitVec 2) (t : Nat)

/-- The vector registers after words of tile `t` are moved to those from `a`. -/
def movedToVector : Sparse Word :=
  (moveCells n w.lanes).foldl
    (fun v e => Sparse.put 0#32 v (32 * (a.toNat + 4 * e.1 + e.2.1) + e.2.2)
      (w.tileWord t (movePlace index col e.1 e.2.1 e.2.2).1 (movePlace index col e.1 e.2.1 e.2.2).2)) w.v

/-- The tile file after the registers from `b` are moved to words of tile `t`. -/
def movedToTile : Sparse Byte :=
  (moveCells n w.lanes).foldl
    (fun d e => putTileWord d t (movePlace index col e.1 e.2.1 e.2.2) (w.getV (b.toNat + 4 * e.1 + e.2.1) e.2.2)) w.tile

variable {n} {h j l : Nat}

theorem get_movedToVector (hh : h < 2 ^ n.toNat) (hj : j < 4) (hl : l ∈ w.lanes) :
    Sparse.get 0#32 (movedToVector w a index col n t) (32 * (a.toNat + 4 * h + j) + l) =
      w.tileWord t (movePlace index col h j l).1 (movePlace index col h j l).2 := by
  have lane := Wave.lt_of_mem_lanes hl
  refine read_foldl_of_mem (read := fun v => Sparse.get 0#32 v (32 * (a.toNat + 4 * h + j) + l))
    (mem_moveCells.2 ⟨hh, hj, hl⟩) (fun v => Sparse.get_put_same ..) (fun ⟨h', j', l'⟩ he different v => ?_) w.v
  obtain ⟨-, hj', hl'⟩ := mem_moveCells.1 he
  have lane' := Wave.lt_of_mem_lanes hl'
  simp only [ne_eq, Prod.mk.injEq] at different
  exact Sparse.get_put_other _ _ _ _ _ (by dsimp only; omega)

theorem get_movedToVector_other {r : Nat} (hl : l < 32)
    (outside : r < a.toNat ∨ a.toNat + 4 * 2 ^ n.toNat ≤ r ∨ l ∉ w.lanes) :
    Sparse.get 0#32 (movedToVector w a index col n t) (32 * r + l) = w.getV r l := by
  refine read_foldl_apart (read := fun v => Sparse.get 0#32 v (32 * r + l)) (fun ⟨h, j, l'⟩ he v => ?_) w.v
  obtain ⟨hh, hj, hl'⟩ := mem_moveCells.1 he
  have lane' := Wave.lt_of_mem_lanes hl'
  refine Sparse.get_put_other _ _ _ _ _ ?_
  dsimp only
  rcases outside with below | above | idle
  · omega
  · omega
  · have : l' ≠ l := fun same => idle (same ▸ hl')
    omega

theorem tileWordOf_movedToTile (fits : index.toNat + 2 ^ n.toNat ≤ 128) (hh : h < 2 ^ n.toNat) (hj : j < 4)
    (hl : l ∈ w.lanes) :
    tileWordOf (movedToTile w b index col n t) t (movePlace index col h j l) = (w.getV (b.toNat + 4 * h + j) l).toNat := by
  refine read_foldl_of_mem (read := fun d => tileWordOf d t (movePlace index col h j l)) (mem_moveCells.2 ⟨hh, hj, hl⟩)
    (fun d => tileWordOf_putTileWord_same ..) (fun ⟨h', j', l'⟩ he different d => ?_) w.tile
  obtain ⟨hh', hj', hl'⟩ := mem_moveCells.1 he
  exact tileWordOf_putTileWord_apart d t _ (wordsApart_movePlace (by omega) (by omega) hj hj' (Wave.lt_of_mem_lanes hl)
    (Wave.lt_of_mem_lanes hl') different)

/-- A byte keeps its value in another tile, and where the words of the lanes at work do not reach. -/
theorem get_movedToTile_other (fits : index.toNat + 2 ^ n.toNat ≤ 128) {u o : Nat} (ho : o < 65536)
    (outside : u ≠ t ∨ ∀ h j l, h < 2 ^ n.toNat → j < 4 → l < 32 → w.activeMask.getLsbD l = true →
      o < wordAt (movePlace index col h j l) ∨ wordAt (movePlace index col h j l) + 4 ≤ o) :
    Sparse.get 0#8 (movedToTile w b index col n t) (65536 * u + o) = Sparse.get 0#8 w.tile (65536 * u + o) := by
  refine read_foldl_apart (read := fun d => Sparse.get 0#8 d (65536 * u + o)) (fun ⟨h, j, l⟩ he d => ?_) w.tile
  obtain ⟨hh, hj, hl⟩ := mem_moveCells.1 he
  obtain ⟨lane, active⟩ := w.mem_lanes.1 hl
  have inTile := wordAt_movePlace_le (col := col) (show index.toNat + h < 128 by omega) hj lane
  refine get_putTileWord_other d t _ _ ?_
  by_cases same : u = t
  · have distant := outside.resolve_left (not_not.2 same) h j l hh hj lane active
    dsimp only
    omega
  · dsimp only
    omega

end

end Sys2Proof.Machine
end

section
/-! PROOF. TZERO, TMOVV and VMOVT: the settled statement. -/

namespace Sys2Proof.Proofs

open Sys2Proof.Machine Sys2Proof.Claims

/-- Behind its checks, and with no MMA of the wave outstanding, a tile instruction does its work and moves on. -/
theorem tileWork_eq {s : State} (no_mmas : NoMmas s) {need : Need} (budget : need.budget = true)
    (unprivileged : need.privileged = false) (convention : need.convention = true) {lanes : Bool}
    (unstruck : s.strikes (if lanes then some s.wave.lanes else none) = none) (upset : s.upset = none) (cls : Check)
    (unit : Nat) (tiles : List Nat) (n : Nat) (f : Wave → Wave) :
    tileWork cls unit need tiles lanes n f s = .next (withWave s (past n (f s.wave))) := by
  have idle : s.blockers tiles = [] := by
    have mine : s.mmas.filter (fun m => decide (m.wave = s.wave.hdl)) = [] :=
      List.filter_eq_nil_iff.2 fun m hm => by simp [no_mmas m hm]
    simp [State.blockers, State.blockersOf, mine]
  refine congrArg Host.Outcome.next ?_
  rw [s.perform_body _ _ budget (by simp [unprivileged]) convention (s.fragReaders_nil _ _ no_mmas), State.interlock, idle,
    State.waitMmas_nil, s.checked_body _ _ _ _ _ upset unstruck]
  rfl

/-! ### TZERO (R303) -/

section
variable (sel : BitVec 8)

/-- A tile file with the tile of a selector cleared, or its panel. -/
def zeroedTile (d : Sparse Byte) : Sparse Byte :=
  let t := selTile sel
  if selWhole sel then Sparse.clear d (65536 * t) (65536 * t + 65536)
  else (upto 128).foldl (fun d r => Sparse.clear d (65536 * t + 512 * r + 64 * selPanel sel)
    (65536 * t + 512 * r + 64 * selPanel sel + 64)) d

theorem selTile_eq : selTile sel = sel.toNat / 8 % 8 := by
  simp [selTile, BitVec.extractLsb'_toNat, Nat.shiftRight_eq_div_pow]

theorem selPanel_eq : selPanel sel = sel.toNat % 8 := by
  simp [selPanel, BitVec.extractLsb'_toNat]

theorem selWhole_iff : selWhole sel = true ↔ 128 ≤ sel.toNat := by
  have := sel.isLt
  rw [selWhole, BitVec.getLsbD, Nat.testBit_eq_decide_div_mod_eq, decide_eq_true_eq]
  omega

theorem get_zeroedTile (d : Sparse Byte) (t : Nat) {o : Nat} (ho : o < 65536) :
    Sparse.get 0#8 (zeroedTile sel d) (65536 * t + o) =
      if t = selTile sel ∧ (selWhole sel = true ∨ o % 512 / 64 = selPanel sel) then 0#8
      else Sparse.get 0#8 d (65536 * t + o) := by
  have panel_lt : selPanel sel < 8 := (sel.extractLsb' 0 3).isLt
  rw [zeroedTile]
  cases selWhole sel
  · simp only [Bool.false_eq_true, if_false, false_or]
    split
    · next inside =>
      refine read_foldl_of_mem (read := fun d => Sparse.get 0#8 d (65536 * t + o)) (c := o / 512) (mem_upto.2 (by omega))
        (fun u => ?_) (fun r _ different u => ?_) d
      · rw [Sparse.get_clear, if_pos (by omega)]
      · rw [Sparse.get_clear, if_neg (by omega)]
    · next outside =>
      refine read_foldl_apart (read := fun d => Sparse.get 0#8 d (65536 * t + o)) (fun r hr u => ?_) d
      have row := mem_upto.1 hr
      rw [Sparse.get_clear, if_neg (by omega)]
  · simp only [if_true, true_or, and_true, Sparse.get_clear]
    exact if_congr (by omega) rfl rfl

end

section
variable {s : State} (no_mmas : NoMmas s)
include no_mmas

theorem exec_tzero (unstruck : Unstruck s) (sel : BitVec 8) (allotted : selTile sel < s.wave.ntiles) :
    exec (.tzero sel) s = .next (withWave s (past 4 { s.wave with tile := zeroedTile sel s.wave.tile })) := by
  have budget : s.wave.tileOk (selTile sel) = true := decide_eq_true allotted
  refine (tileWork_eq no_mmas (lanes := false) budget rfl rfl unstruck.1 unstruck.2 _ _ _ _ _).trans ?_
  rw [zeroedTile]
  split <;> rfl

/-! ### TMOVV and VMOVT (R304) -/

variable (unstruck : UnstruckIn s s.wave.lanes) {a b : BitVec 8} (index : BitVec 7) (col : Bool) {n : BitVec 2}
include unstruck

theorem exec_tmovv (allotted : codeTile b < s.wave.ntiles) (registers : s.wave.groupOk (4 * 2 ^ n.toNat) a = true) :
    exec (.tmovv a b index col n) s =
      .next (withWave s (past 8 { s.wave with v := movedToVector s.wave a index col n (codeTile b) })) := by
  have budget : (s.wave.tileOk (codeTile b) && s.wave.groupOk (4 * 2 ^ n.toNat) a) = true :=
    (Bool.and_eq_true ..).mpr ⟨decide_eq_true allotted, registers⟩
  refine (tileWork_eq no_mmas (lanes := true) budget rfl rfl unstruck.1 unstruck.2 _ _ _ _ _).trans ?_
  refine congrArg (fun w => Host.Outcome.next (withWave s (past 8 w))) ?_
  exact List.foldl_hom (fun v => ({ s.wave with v := v } : Wave)) (init := s.wave.v) fun _ _ => rfl

theorem exec_vmovt (allotted : codeTile a < s.wave.ntiles) (registers : s.wave.groupOk (4 * 2 ^ n.toNat) b = true) :
    exec (.vmovt a b index col n) s =
      .next (withWave s (past 8 { s.wave with tile := movedToTile s.wave b index col n (codeTile a) })) := by
  have budget : (s.wave.tileOk (codeTile a) && s.wave.groupOk (4 * 2 ^ n.toNat) b) = true :=
    (Bool.and_eq_true ..).mpr ⟨decide_eq_true allotted, registers⟩
  refine (tileWork_eq no_mmas (lanes := true) budget rfl rfl unstruck.1 unstruck.2 _ _ _ _ _).trans ?_
  refine congrArg (fun w => Host.Outcome.next (withWave s (past 8 w))) ?_
  exact List.foldl_hom (fun d => ({ s.wave with tile := d } : Wave)) (init := s.wave.tile) fun _ _ => Wave.setTileWord_eq ..

end

/-- Settles O29: each instruction's work passes its checks, and the bytes or words that it writes are read back one by one. -/
theorem tileMoves : Obligations.TileMoves := by
  unfold Obligations.TileMoves
  intro s sel a b index col n no_mmas w byteOf place word groups
  refine ⟨rfl, fun unstruck allotted => ?_, fun works _ last regA fits => ?_, fun unstruck first last regB fits inTile => ?_⟩
  · rw [← selTile_eq] at allotted
    refine ⟨_, exec_tzero no_mmas unstruck sel allotted, fun t o ho => ?_⟩
    simp only [← selTile_eq, ← selPanel_eq, ← selWhole_iff]
    exact get_zeroedTile sel w.tile t ho
  · have allotted : codeTile b < w.ntiles := by rw [codeTile]; omega
    refine ⟨_, exec_tmovv no_mmas works.1 index col allotted ((Wave.groupOk_iff ..).2 ⟨regA.1, fits⟩),
      fun h j l hh hj hl active => ?_, fun r l hl outside => ?_⟩
    · exact (congrArg BitVec.toNat (get_movedToVector w a index col _ hh hj (w.mem_lanes.2 ⟨hl, active⟩))).trans
        (w.tileWord_toNat _ (place h j l))
    · refine get_movedToVector_other w a index col _ hl (outside.imp_right (Or.imp_right fun idle => ?_))
      simp [w.mem_lanes, idle]
  · have allotted : codeTile a < w.ntiles := by rw [codeTile]; omega
    refine ⟨_, exec_vmovt no_mmas unstruck index col allotted ((Wave.groupOk_iff ..).2 ⟨regB.1, fits⟩),
      fun h j l hh hj hl active => ?_, fun t o ho outside => ?_⟩
    · exact tileWordOf_movedToTile w b index col _ inTile hh hj (w.mem_lanes.2 ⟨hl, active⟩)
    · exact get_movedToTile_other w b index col _ inTile ho outside

end Sys2Proof.Proofs
end
